-- ==== Sys2Proof/Word.lean ====
section
/-! DEFINITION. Words, bytes and the plainest arithmetic on them (spec/00_scope.md R4, R10). -/

namespace Sys2Proof

/-- A 64-bit scalar register value, address or operand. -/
abbrev Word := BitVec 64
/-- One byte, the unit of every memory of the machine (R4: little-endian throughout). -/
abbrev Byte := BitVec 8

/-- `bits(x, hi, lo)` of Table 0.3, as a number. -/
def bitsN (x hi lo : Nat) : Nat := x / 2 ^ lo % 2 ^ (hi + 1 - lo)

/-- One bit of a number. -/
def bitN (x i : Nat) : Bool := x / 2 ^ i % 2 == 1

/-- A number read as two's complement in `w` bits (`sext` of the control-engine chapter). -/
def sextN (w x : Nat) : Int :=
  let y := x % 2 ^ w
  if y < 2 ^ (w - 1) then (y : Int) else (y : Int) - (2 ^ w : Nat)

/-- The low `w` bits of an integer, as a number. -/
def wrapN (w : Nat) (x : Int) : Nat := (x % ((2 ^ w : Nat) : Int)).toNat

/-- Little-endian value of a byte list (R4). -/
def leValue : List Byte → Nat
  | [] => 0
  | b :: bs => b.toNat + 256 * leValue bs

/-- The `n` bytes of a value, lowest first (R4). -/
def leBytes : Nat → Nat → List Byte
  | 0, _ => []
  | n + 1, x => BitVec.ofNat 8 x :: leBytes n (x / 256)

/-- `⌈a ÷ b⌉`. -/
def ceilDiv (a b : Nat) : Nat := (a + b - 1) / b

/-- Number of bits of `x`: 0 for 0, else ⌊log2 x⌋ + 1. -/
def bitLen (x : Nat) : Nat := if x = 0 then 0 else Nat.log2 x + 1

end Sys2Proof
end

