-- ==== Sys2Proof/Config.lean ====
section
/-! DEFINITION. What the manual leaves open, as constants with no value (free values), and what an
implementation fixes. Nothing in the model can see what an `opaque` constant is, so a claim about the
machine holds whatever it is. -/

namespace Sys2Proof.Config

/-- Free choice among agents that may move, and every other choice the manual leaves open: applied to the
counter `State.fresh` (log 4, log 7). -/
opaque choice : Nat → Nat

/-- Free value for a result the manual does not state (log 9): applied to `State.fresh`. -/
opaque freeWord : Nat → Word

/-- The key drawn from the hub's random source for key index 0 (R333, log 2). -/
opaque bootKey : Nat → BitVec 256

/-- AES-256-XTS (R208): what a 128-byte line, stored under the first data and tweak key at a physical line
address, decrypts to under the second (log 2). Byte `i` of the line. -/
opaque recrypt : (BitVec 256 × BitVec 256) → (BitVec 256 × BitVec 256) → (line : Nat) → List Byte → (i : Nat) → Byte

/-- ML-DSA-65 verification of the hub firmware image against the fused key (R331, log 8). -/
opaque firmwareOk : List Byte → Bool

/-- The public identity key of the module, 1,952 bytes (R332, log 8). -/
opaque identityKey : Nat → Byte

/-- The ML-DSA-65 signature of a quote, 3,309 bytes, of a digest (R332, log 8). -/
opaque quoteSign : BitVec 512 → Nat → Byte

/-- The module's own fabric ID (R188, R332): fixed for a module, 0 unless the rack says otherwise (log 10). -/
opaque fabricId : Fin 4096

/-- Packets that an input buffer of the router holds beyond one, for each channel and class (R284): not stated (log 95). -/
opaque inputBuffer : Nat

/-- Whether an announcement that a relay sends brings one of a module behind it (R288): not fixed by the spec (log 73). -/
opaque relayed : Nat → Fin 4096 → Bool

/-- Byte of the fatal-error dump at an offset, by what the dump holds (R327): its layout is not given (log 11). -/
opaque dumpByte : List Nat → Nat → Byte

/-- How long the fatal-error dump is, at most 16 MiB (R327, log 11). -/
opaque dumpSize : Nat

/-- Spare HBM rows of each stack (R329): how many a module has is not stated (log 22). -/
opaque spareRows : Nat

end Sys2Proof.Config
end

