-- ==== Sys2Proof/Syntax.lean ====
section
/-! DEFINITION. The steps of the FX940 as syntax: one constructor of `Instr` for each row of
spec/opcode_table.json. A word carries its operand fields, decoded (spec/04_instruction_words.md);
an event carries what its rule names (spec/95_what_each_step_holds.md). -/

namespace Sys2Proof

/-- s0-s63. -/
abbrev SReg := Fin 64
/-- b0-b7. -/
abbrev BReg := Fin 8
/-- c0-c7. -/
abbrev CSlot := Fin 8
/-- v0-v31. -/
abbrev VReg := Fin 32
/-- p0-p15. -/
abbrev PReg := Fin 16
/-- z0-z15. -/
abbrev ZReg := Fin 16
/-- h0-h255. -/
abbrev HId := Fin 256
/-- A handle row named in a Y word (R68). -/
abbrev HRow := Fin 512
/-- Guard slot g(n+1): slot 0 does not exist (R63, R68), so the 15 slots are numbered from 0 here. -/
abbrev GSlot := Fin 15
/-- Belay route tag. -/
abbrev Tag := Fin 8
/-- Optical port. -/
abbrev Port := Fin 64
/-- Lane (fibre) of a port. -/
abbrev Lane := Fin 8
/-- C-die. -/
abbrev Die := Fin 4
/-- Fabric ID. -/
abbrev Fid := Fin 4096
/-- Macro register k0-k15. -/
abbrev KReg := Fin 16

/-- The guard field of a Q word (R63). -/
inductive Guard where
  | always
  | onTrue (g : GSlot)
  | onFalse (g : GSlot)
  deriving DecidableEq, Repr

/-- Element views of V words (Table 4.3). -/
inductive VType where
  | F | D | I | N | L | B | E | M
  deriving DecidableEq, Repr

/-- Operators of `AMOW` and `AMOD` (R96). -/
inductive AmoOp where
  | swap | add | and | or | xor | min | max | minu | maxu
  deriving DecidableEq, Repr

/-- Scopes of `FENCE` (R99). -/
inductive Scope where
  | stream | core | cluster | die | module | fabric
  deriving DecidableEq, Repr

/-- Paths of `WAITP` (R150). -/
inductive Path where
  | scratch | l1 | l2 | hbm | fabric
  deriving DecidableEq, Repr

/-- Streams that `FORK` may start: the engine codes 2 to 5 (R68). -/
inductive ForkStream where
  | a | l | s | n
  deriving DecidableEq, Repr

/-- The role field of `FORK` (R68). -/
inductive ForkRole where
  | loader | arith | epilogue | default
  deriving DecidableEq, Repr

/-- Modes of `DMODE` (R198). -/
inductive DMode where
  | primal | record | reverse
  deriving DecidableEq, Repr

/-- Operators of `PUSHR` (Table 4.9). -/
inductive PushOp where
  | add | max | min | add64
  deriving DecidableEq, Repr

/-- The system registers of Table 2.3. -/
inductive SysReg where
  | pc | role | round | fflags | satfp | epc | ecause | eaddr | ebr | agebound | leaselen
  | time | step | wdog | vbusy | dmode | mode | tinfo
  deriving DecidableEq, Repr

/-- A commands that a micro-op may run (Table 8.8: opcodes 0x03 to 0x0A and 0x13). -/
inductive ArrOp where
  | bload | mma | drain | dbias | dact | dtt | dclamp | drainm | mma3
  deriving DecidableEq, Repr

/-- A core of the module (R1, R249): a core of a C-die, or supervisor core 0. -/
inductive CoreId where
  | core (die : Die) (k : Fin 96)
  | sup
  deriving DecidableEq, Repr

/-- A job context of a core (R209). -/
structure CtxId where
  core : CoreId
  ctx : Fin 2
  deriving DecidableEq, Repr

/-- The five streams of a context (Table 10.2). -/
inductive StreamId where
  | C | A | L | S | N
  deriving DecidableEq, Repr

/-- A stream of a context. -/
structure StreamRef where
  ctx : CtxId
  st : StreamId
  deriving DecidableEq, Repr

/-- The four engine queues of a context (Table 10.2). -/
inductive Queue where
  | A | L | S | N
  deriving DecidableEq, Repr

/-- A command, by its context and its place in the job's issue order (R216). -/
structure CmdRef where
  ctx : CtxId
  seq : Nat
  deriving DecidableEq, Repr

/-- The key of a group in the reduction memory (R297). -/
inductive GroupKey where
  | push (grp : Nat) (op : PushOp)
  | trav (id inst rank : Nat) (box : Nat)
  deriving DecidableEq, Repr

/-- What a fabric packet carries (R189, R195, R288, R292-R297, R300, R306, R310). `rank`: of the member or contributor; a
piece names the rank that sends it, `orig`, and the ranks still to pass it on, `via` (R295). -/
inductive PacketBody where
  /-- a `ZPUSH` entry for stream register `z` of the job at the core of `to` -/
  | entry (dst : CtxId) (z : ZReg) (bytes : List Byte)
  /-- part `part` of `parts` of a contribution to a reduction group, by the job at `frm`; `dst`: modules and jobs of the ranks that
  share the box of a Traverse reduction (R294) -/
  | contrib (key : GroupKey) (frm : CtxId) (dst : List (Fid × CtxId)) (rank need count part parts : Nat) (bytes : List Byte)
  /-- part of a reduction result, with its status and flags, for members of the module: job and rank -/
  | result (key : GroupKey) (members : List (CtxId × Nat)) (code lost : Nat) (flags : BitVec 5) (part parts : Nat) (bytes : List Byte)
  /-- part of piece (a, b) of Traverse `id`, instance `inst`, for the job at `to` -/
  | piece (dst : CtxId) (orig : Fid × CtxId) (via : List (Fid × CtxId)) (id inst a b part parts : Nat) (bytes : List Byte)
  /-- rank `b` of Traverse `id`, instance `inst`, the job at `orig`, announces itself to rank `a`, the job at `dst` -/
  | announce (dst orig : CtxId) (id inst a b : Nat)
  /-- the end of a Traverse or push forced on a member (R292, R297): code 3; code 2: rank `rank` is lost -/
  | reject (key : GroupKey) (dst : CtxId) (rank code : Nat)
  /-- contributor `rank` of a group is lost (R288) -/
  | rankLost (key : GroupKey) (rank : Nat)
  /-- a `ZPUSH` of another module asks for a free entry of stream register `z` at the core of `dst` (R190): it has no sequence number -/
  | request (dst : CtxId) (z : ZReg)
  /-- sweep marker of a gang switch -/
  | marker
  /-- resume marker of a gang switch -/
  | resume
  deriving DecidableEq, Repr

/-- A fabric packet (R281, R285): source and destination module, virtual channel, sequence number,
gang (0: none, R304) and contents. -/
structure Packet where
  src : Fid
  dst : Fid
  vc : Fin 8
  seq : BitVec 32
  gang : Fin 4096
  region : Nat
  body : PacketBody
  deriving DecidableEq, Repr

/-- The functions that report ready (Table 20.1). -/
inductive ReadyFn where
  | hub (bit : Fin 24)
  | cluster (c : Fin 64)
  | core (die : Die) (k : Fin 96)
  | port (p : Port)
  deriving DecidableEq, Repr

/-- The word that an error strikes which ECC corrects (R328): of HBM at a physical address, of a bank of a core, of a die's L2, or of the
hub die's SRAM. -/
inductive EccWord where
  | hubSram
  | hbm (pa : Nat)
  | sram (d : Die) (k b : Fin 96)
  | l2 (d : Die)
  deriving DecidableEq, Repr

/-- Where an uncorrectable ECC error strikes (R327). -/
inductive EccSite where
  /-- data of a job at a physical address of HBM, met by no access yet -/
  | line (pa : Nat)
  /-- data at a physical address, met by the access of a stream at a virtual address -/
  | access (x : StreamRef) (va pa : Nat)
  /-- data of a job in a handle, in SRAM or L2, at a byte of a row -/
  | handle (x : CtxId) (h : HId) (row off : Nat)
  /-- Cairn, the router's tables, or supervisor core 0's trap entry: fatal -/
  | vital
  deriving DecidableEq, Repr

/-- Why a word cannot be fetched (R89; `alignment`: from a device page, R247). -/
inductive FetchCause where
  | translation | protection | key | ecc | alignment
  deriving DecidableEq, Repr

/-- Why a word fails decode: the cause and the reason of Table 4.1. -/
inductive DecodeFail where
  | illegal (reason : Fin 8) (op : Fin 64)
  | privilege
  | handle (h : HId)
  deriving DecidableEq, Repr

/-- The steps of the machine, one constructor per row of spec/opcode_table.json, in its order. -/
inductive Instr where
  -- engine 0 (C), Table 4.4
  | nop
  | add (d a b : SReg)
  | sub (d a b : SReg)
  | and (d a b : SReg)
  | or (d a b : SReg)
  | xor (d a b : SReg)
  | sll (d a b : SReg)
  | srl (d a b : SReg)
  | sra (d a b : SReg)
  | slt (d a b : SReg)
  | sltu (d a b : SReg)
  | min (d a b : SReg)
  | minu (d a b : SReg)
  | max (d a b : SReg)
  | maxu (d a b : SReg)
  | mul (d a b : SReg)
  | mulh (d a b : SReg)
  | mulhu (d a b : SReg)
  | divs (d a b : SReg)
  | rems (d a b : SReg)
  | divn (d a b : SReg)
  | remn (d a b : SReg)
  | addi (d a : SReg) (i : BitVec 11)
  | andi (d a : SReg) (i : BitVec 11)
  | ori (d a : SReg) (i : BitVec 11)
  | xori (d a : SReg) (i : BitVec 11)
  | slli (d a : SReg) (i : Fin 64)
  | srli (d a : SReg) (i : Fin 64)
  | srai (d a : SReg) (i : Fin 64)
  | slti (d a : SReg) (i : BitVec 11)
  | sltiu (d a : SReg) (i : BitVec 11)
  | li (d : SReg) (i : BitVec 17)
  | lsi (d : SReg) (i : BitVec 17)
  | cmpeq (c : CSlot) (a b : SReg)
  | cmpne (c : CSlot) (a b : SReg)
  | cmplt (c : CSlot) (a b : SReg)
  | cmpltu (c : CSlot) (a b : SReg)
  | cmpge (c : CSlot) (a b : SReg)
  | cmpgeu (c : CSlot) (a b : SReg)
  | srr (d : SReg) (n : SysReg)
  | srw (a : SReg) (n : SysReg)
  | cand (d a b : CSlot)
  | cor (d a b : CSlot)
  | cxor (d a b : CSlot)
  | candn (d a b : CSlot)
  | bpt (b : BReg) (i : BitVec 17)
  | bptr (b : BReg) (a : SReg) (i : BitVec 11)
  | bjt (b : BReg) (a i : SReg)
  | btr (b : BReg) (c : CSlot)
  | btrFalse (b : BReg) (c : CSlot)
  | btrAlways (b : BReg)
  | btrl (l : SReg) (b : BReg) (c : CSlot)
  | btrlFalse (l : SReg) (b : BReg) (c : CSlot)
  | btrlAlways (l : SReg) (b : BReg)
  | vany (c : CSlot) (p : PReg)
  | vall (c : CSlot) (p : PReg)
  | lb (d a : SReg) (i : BitVec 11)
  | lbu (d a : SReg) (i : BitVec 11)
  | lh (d a : SReg) (i : BitVec 11)
  | lhu (d a : SReg) (i : BitVec 11)
  | lw (d a : SReg) (i : BitVec 11)
  | lwu (d a : SReg) (i : BitVec 11)
  | ld (d a : SReg) (i : BitVec 11)
  | sb (v a : SReg) (i : BitVec 11)
  | sh (v a : SReg) (i : BitVec 11)
  | sw (v a : SReg) (i : BitVec 11)
  | sd (v a : SReg) (i : BitVec 11)
  | lq (d a : SReg) (i : BitVec 11)
  | sq (v a : SReg) (i : BitVec 11)
  | amow (d a b : SReg) (o : AmoOp)
  | amod (d a b : SReg) (o : AmoOp)
  | casw (d a b : SReg)
  | casd (d a b : SReg)
  | casq (d a b : SReg)
  | fence (k : BitVec 4) (s : Scope)
  | waitt (a : SReg)
  | rdtime (d : SReg)
  | trap (i : BitVec 16)
  -- engine 1 (V), Table 4.5
  | vadd (d a b : VReg) (t : VType) (p : PReg) (z : Bool)
  | vsub (d a b : VReg) (t : VType) (p : PReg) (z : Bool)
  | vmul (d a b : VReg) (t : VType) (p : PReg) (z : Bool)
  | vmin (d a b : VReg) (t : VType) (p : PReg) (z : Bool)
  | vmax (d a b : VReg) (t : VType) (p : PReg) (z : Bool)
  | vfma (d a b : VReg) (t : VType) (p : PReg) (z : Bool)
  | vfms (d a b : VReg) (t : VType) (p : PReg) (z : Bool)
  | vabs (d a : VReg) (t : VType) (p : PReg) (z : Bool)
  | vneg (d a : VReg) (t : VType) (p : PReg) (z : Bool)
  | vdiv (d a b : VReg) (t : VType) (p : PReg) (z : Bool)
  | vrem (d a b : VReg) (t : VType) (p : PReg) (z : Bool)
  | vsqrt (d a : VReg) (t : VType) (p : PReg) (z : Bool)
  | vrcp (d a : VReg) (t : VType) (p : PReg) (z : Bool)
  | vrsq (d a : VReg) (t : VType) (p : PReg) (z : Bool)
  | vexp2 (d a : VReg) (t : VType) (p : PReg) (z : Bool)
  | vlog2 (d a : VReg) (t : VType) (p : PReg) (z : Bool)
  | vsin (d a : VReg) (t : VType) (p : PReg) (z : Bool)
  | vcos (d a : VReg) (t : VType) (p : PReg) (z : Bool)
  | vtanh (d a : VReg) (t : VType) (p : PReg) (z : Bool)
  | vand (d a b : VReg) (t : VType) (p : PReg) (z : Bool)
  | vor (d a b : VReg) (t : VType) (p : PReg) (z : Bool)
  | vxor (d a b : VReg) (t : VType) (p : PReg) (z : Bool)
  | vsll (d a b : VReg) (t : VType) (p : PReg) (z : Bool)
  | vsrl (d a b : VReg) (t : VType) (p : PReg) (z : Bool)
  | vsra (d a b : VReg) (t : VType) (p : PReg) (z : Bool)
  | vcvt (d a : VReg) (src t : VType) (p : PReg) (z : Bool)
  | vcmpeq (d : PReg) (a b : VReg) (t : VType) (p : PReg)
  | vcmplt (d : PReg) (a b : VReg) (t : VType) (p : PReg)
  | vcmple (d : PReg) (a b : VReg) (t : VType) (p : PReg)
  | vcmpun (d : PReg) (a b : VReg) (t : VType) (p : PReg)
  | vsel (d a b : VReg) (t : VType) (p : PReg)
  | vpand (d a b : PReg)
  | vpor (d a b : PReg)
  | vpxor (d a b : PReg)
  | vpnot (d a : PReg)
  | vperm (d a b : VReg) (t : VType) (p : PReg) (z : Bool)
  | vredadd (d a : VReg) (t : VType) (p : PReg) (z : Bool)
  | vredmax (d a : VReg) (t : VType) (p : PReg) (z : Bool)
  | vredmin (d a : VReg) (t : VType) (p : PReg) (z : Bool)
  | vscan (d a : VReg) (t : VType) (p : PReg) (z : Bool)
  | vsplat (v : VReg) (s : SReg) (w : Bool)
  | vins (v : VReg) (s : SReg) (l : Fin 64) (w : Bool)
  | vext (v : VReg) (s : SReg) (l : Fin 64) (w : Bool)
  | vldh (v : VReg) (s : SReg) (x : HId) (p : Fin 8) (cv : Bool)
  | vsth (v : VReg) (s : SReg) (x : HId) (p : Fin 8) (cv : Bool)
  | vldm (v : VReg) (s : SReg) (x : BitVec 8) (p : Fin 8)
  | vstm (v : VReg) (s : SReg) (x : BitVec 8) (p : Fin 8)
  | vmov (d a : VReg) (t : VType) (p : PReg) (z : Bool)
  | vxcGather (a b : SReg)
  | vxcScatter (a b : SReg)
  | vxcHandleGather (a b : SReg)
  | vxcHandleScatter (a b : SReg)
  | vxcTableLookup (a b : SReg)
  | vxcDataComplete (x : CtxId)
  | vfence
  -- engine 2 (A), Table 4.7
  | lacq (g : Guard)
  | lrel (g : Guard)
  | bload (g : Guard) (h : HId) (s : SReg) (k : Bool)
  | mma (g : Guard) (h : HId) (s : SReg) (z k : Bool)
  | drain (g : Guard) (h : HId) (s : SReg) (f : BitVec 4)
  | dbias (g : Guard) (h : HId) (s : SReg)
  | dact (g : Guard) (h : HId) (s : SReg)
  | dtt (g : Guard) (s : SReg)
  | dclamp (g : Guard) (h : HId) (s : SReg)
  | drainm (g : Guard) (h : HId) (s : SReg) (f : BitVec 4)
  | stats (g : Guard) (e : Fin 32) (d : SReg) (m : BitVec 4)
  | statc (g : Guard) (e : Fin 32) (c : CSlot) (m : BitVec 4)
  | statg (g : Guard) (e : Fin 32) (n : GSlot) (m : BitVec 4)
  | fft (g : Guard) (h : HId) (s : SReg) (k : Fin 16)
  | ifft (g : Guard) (h : HId) (s : SReg) (k : Fin 16)
  | shtf (g : Guard) (h : HId) (s : SReg) (k : Fin 16)
  | shti (g : Guard) (h : HId) (s : SReg) (k : Fin 16)
  | plan (g : Guard) (h : HId) (s : SReg) (k : Fin 16)
  | mma3 (g : Guard) (h : HId) (s : SReg) (z : Bool)
  | layerf (g : Guard) (h : HId) (s : SReg)
  | layerd (g : Guard) (h : HId) (s : SReg)
  | layerw (g : Guard) (h : HId) (s : SReg)
  | layeru (g : Guard) (h : HId) (s : SReg)
  -- micro-ops, Table 8.8
  | uopArr (op : ArrOp) (fn : BitVec 4) (ka kb : KReg)
  | uopSet (kd : KReg) (imm : BitVec 32)
  | uopAdd (kd ka : KReg) (imm : BitVec 32)
  | uopLoop (kd : KReg) (target : BitVec 14)
  | uopSafe
  | uopEnd
  -- engines 3 (L) and 4 (S), Table 4.6
  | copy (g : Guard) (h : HId) (s : SReg)
  | chain (g : Guard) (h : HId) (s : SReg)
  | pref (g : Guard) (h : HId) (s : SReg) (l2 : Bool)
  | retn (g : Guard) (h : HId) (s : SReg)
  | invr (g : Guard) (h : HId) (s : SReg) (l2 : Bool)
  | copyo (g : Guard) (h : HId) (s : SReg)
  | chaino (g : Guard) (h : HId) (s : SReg)
  | copya (g : Guard) (h : HId) (s : SReg)
  | chaina (g : Guard) (h : HId) (s : SReg)
  | offl (g : Guard) (h : HId) (s : SReg) (keep : Bool)
  | wbr (g : Guard) (h : HId) (s : SReg) (l2 : Bool)
  | dataRecordComplete (x : CmdRef)
  -- engine 5 (N), Table 4.9
  | zpop (g : Guard) (h : HId) (s : SReg) (z : ZReg)
  | zpush (g : Guard) (h : HId) (s : SReg) (z : ZReg)
  | zopen (g : Guard) (h : HId) (s : SReg) (z : ZReg)
  | zclose (g : Guard) (z : ZReg)
  | tune (g : Guard) (h : HId) (s : SReg)
  | trav (g : Guard) (h : HId) (s : SReg)
  | pushr (g : Guard) (h : HId) (s : SReg) (o : PushOp)
  | ncomb (g : Guard) (h : HId) (s : SReg)
  -- engine 6 (Y), Table 4.10
  | pinit (h : HId) (r : HRow) (x : Fin 64)
  | pinitr (h : HId) (r : HRow) (x : SReg)
  | parrive (h : HId) (r : HRow)
  | pdrop (h : HId) (r : HRow)
  | pwait (h : HId) (r : HRow) (p : Bool)
  | rinit (h : HId) (r : HRow) (x : SReg)
  | rclaim (h : HId) (r : HRow) (x : SReg)
  | rcommit (h : HId) (r : HRow) (x : SReg)
  | rwfill (h : HId) (r : HRow) (k : Fin 64)
  | rwfree (h : HId) (r : HRow) (k : Fin 64)
  | rfree (h : HId) (r : HRow) (x : SReg)
  | barr (t : Tag)
  | bara (t : Tag)
  | bwait (t : Tag)
  | bdrop (t : Tag)
  | belayCompletion (t : Tag) (die : Option Die)
  | barrierWatchdog (x : StreamRef)
  | gset (g : GSlot) (c : CSlot)
  | gseti (g : GSlot) (v : Bool)
  | gclr (g : GSlot)
  | fork (x : ForkStream) (r : ForkRole) (o : BitVec 18)
  | rdv
  | rdvFin
  | waitp (p : Path)
  | halloc (h : HId) (s : SReg)
  | hfree (h : HId)
  | hfmt (h : HId) (s : SReg)
  | dreg (x : Fin 64) (y : SReg)
  | dunreg (x : Fin 64)
  | dmode (m : DMode)
  | tread (x : SReg)
  | tlim (x : SReg)
  | tset (x : SReg)
  | sread (x y : SReg)
  | sstep (x : SReg)
  | sskip (x : SReg)
  -- engine 7 (K), Table 4.11
  | eret
  | csrr (d a : SReg) (n : SysReg)
  | csrw (d a : SReg) (n : SysReg)
  | tlbiPage (a : SReg)
  | tlbiKey (a : SReg)
  | tlbiAll (a : SReg)
  | keyset (a : SReg)
  | gang (a : SReg)
  | gres (a : SReg)
  | graphLoad (a : SReg)
  | graphStart (a : SReg)
  | graphStop (a : SReg)
  | graphUnload (a : SReg)
  | mbx (d a : SReg) (m : Fin 64)
  | mcload (a : SReg) (g : Fin 256)
  | halt (i : BitVec 11)
  -- events
  | interlockedResultLands (x : StreamRef) (seq : Nat)
  | waittDeadline (x : StreamRef)
  | waitSatisfied (x : StreamRef)
  | commandStart (x : CtxId) (q : Queue)
  | commandComplete (x : CmdRef)
  | leaseGrant (cl : Fin 64)
  | leaseBound (cl : Fin 64)
  | leaseTimeout (cl : Fin 64)
  | quiescenceTimeout (c : CoreId)
  | cairnDispatch
  | lineEviction (die : Die) (line : Nat)
  | creditGrant (x : CmdRef)
  | zpushWatchdog (x : CmdRef)
  | zpopWatchdog (x : CmdRef)
  | filterSettled (p : Port) (slot : Bool)
  | slot0Retune (p : Port)
  | portGrant (p : Port)
  | packetArrival (k : Packet)
  | travAnnounce (x : CmdRef)
  | travComplete (x : CmdRef)
  | pushrComplete (x : CmdRef)
  | ncombComplete (x : CmdRef)
  | pushKeyReopen (k : GroupKey)
  | flitReceived (p : Port) (l : Lane) (crcOk : Bool)
  | nakReceived (p : Port) (l : Lane) (passed : Bool)
  | rxLightLoss (p : Port) (l : Lane)
  | rxLightReturn (p : Port) (l : Lane)
  | moduleLostTimeout (f : Fid)
  | gangSweepClose (g : Fin 4096)
  | gresResume (g : Fin 4096)
  | hostDoorbell (m : Fin 64) (value : Word) (buffer : List Byte)
  | chkmapWrite (v : Word)
  | chkunmapWrite (v : Word)
  | hubLostWrite (v : Word)
  | retireCore (die : Die) (k : Fin 96)
  | retireBank (die : Die) (k : Fin 96) (bank : Fin 96)
  | retireLane (p : Port) (l : Lane)
  | repairHbmRow (stack : Fin 8) (row : BitVec 32)
  | hbmRepairDone (stack : Fin 8)
  | lightRequestWrite (p : Port) (v : Word)
  | lightGrantWrite (p : Port) (v : Word)
  | laneTrained (p : Port) (l : Lane)
  | laneUnlit (p : Port) (l : Lane)
  | supplyLightLoss (p : Port)
  | timeStepWrite (v : Word)
  | ptpEventRx
  | ptpEventTx
  | rasLenWrite (v : Word)
  | rasBaseWrite (v : Word)
  | rasTailWrite (v : Word)
  | nonceWrite (v : BitVec 256)
  | quoteReady
  | bootDoorbell (value : Word) (image : List Byte)
  | supervisorStart
  | powerUp (firmware : List Byte)
  | functionReady (f : ReadyFn)
  | correctedEcc (word : EccWord)
  | uncorrectableEcc (site : EccSite)
  | powerCapExceeded (watts : BitVec 16)
  | thermalThrottle (temp : BitVec 16)
  | thermalTrip (temp : BitVec 16)
  | supplyVoltageOut
  | registerWrite (off : Nat) (v : Word) (manager : Bool)
  | illegalWord (why : DecodeFail)
  | fetchFault (cause : FetchCause)
  | exposedResultLands (x : StreamRef) (seq : Nat)
  | preEmption (x : CtxId)
  | portConfigWrite (p : Port) (v : Word)
  | supplyLightReturn (p : Port)
  | announcementReceived (p : Port) (l : Lane) (colour : Fin 8) (pending : Bool) (passes : BitVec 8)
  | throttlingEnds (watts temp : BitVec 16)
  deriving DecidableEq, Repr

end Sys2Proof
end

