-- ==== Sys2Proof/Machine/State.lean ====
section
/-! DEFINITION. The state of one FX940 module as plain data, and the state at power-up. INVENTORY.md lists
every piece with the rule that names it. Lists keyed by an address or a number stand for sparse stores; what an
unlisted key holds is the reset value, said at each. -/

namespace Sys2Proof.Machine

/-- An exact element value (spec/03_number_formats.md): a NaN (signalling or quiet), an infinity, or
(-1)^neg × m × 2^e, which covers every finite value of Table 3.1, both zeros included. -/
inductive Num where
  | nan (signalling : Bool)
  | inf (neg : Bool)
  | fin (neg : Bool) (m : Nat) (e : Int)
  deriving DecidableEq, Repr

/-- An accumulator element: `f32` bits, or an `i32` after an `i8` A-step (R47, R174). -/
inductive AccVal where
  | f (bits : BitVec 32)
  | i (bits : BitVec 32)
  deriving DecidableEq, Repr

/-- A happens-before clock (R236): how far each agent is known to have come. -/
abbrev Clock := List (Nat × Nat)

/-! ## Streams -/

/-- The register a result in flight is for. A vector result stands in its register at once, and the words that read it wait
until it has landed (R106, log 5); `unit`: a vector word that writes no register. -/
inductive Dst where
  | s (r : SReg)
  | b (r : BReg)
  | c (r : CSlot)
  | v (r : VReg)
  | p (r : PReg)
  | unit
  deriving DecidableEq, Repr

/-- When a result in flight lands (R28): an exposed one at a cycle; an interlocked one when its unit delivers it, which for a vector
word of a fixed latency is a cycle (Table 6.1); that of a divide word when the core's divider, which takes them in issue order, has come to
it (R82); that of a per-tile status read 6 cycles after the command executes, which it has not done yet (R32, R178). -/
inductive Due where
  | at (cycle : Nat)
  | interlocked
  | divider
  | unit (cycle : Nat)
  | statusRead
  deriving DecidableEq, Repr

/-- A result in flight (R28, R29). `seq`: the issue order of its word. `flags`: what its word ORs into `fflags` when it completes (R26).
`lock`: issued while its register was interlocked. `dead`: a later word's result has landed first. -/
structure Flight where
  seq : Nat
  dst : Dst
  val : Word
  flags : BitVec 5
  due : Due
  lock : Bool
  dead : Bool
  deriving DecidableEq, Repr

/-- A word that holds its stream (R212): the word, the cycle from which its waiting is counted (R157), its place in the issue
order, and the s registers as it found them when it issued (R28). Without them it has not issued: it waits for a queue entry. -/
structure Hold where
  word : Instr
  since : Nat
  seq : Nat
  regs : Option (Vector Word 64)
  deriving DecidableEq, Repr

/-- What a stream is doing (R161, R212, R224). -/
inductive Run where
  /-- never forked -/
  | off
  /-- issues words -/
  | run
  /-- parked at `RDV` -/
  | parked
  /-- held by a word -/
  | held (h : Hold)
  /-- stalled in `WAITT` until a deadline -/
  | waitt (deadline : Word)
  /-- stalls on a frame of an HBM stack that is not ready (R323); the word issues again when it is -/
  | stalled
  /-- stopped by `HALT` or a fatal error -/
  | halted
  deriving DecidableEq, Repr

/-- One stream (Tables 2.1, 2.3). `xfer`: the target of a taken transfer still owed; `slots`: words still to come
that are delay slots of a `BTR` or `BTRL`, taken or not (R30). `joined`: `BARR` and `BWAIT` words that have arrived
already (R157): the address of each such word and the phase it waits for. `taped`: the address of a vector word whose push
met the end of the tape, the elements it has written (R275), and its place in the issue order. `stopped`: stopped by a trap, a pre-emption
or a gang switch (R224). -/
structure Stream where
  s : Vector Word 64
  b : Vector Word 8
  c : Vector Bool 8
  pc : Word
  role : Fin 4
  round : Fin 4
  fflags : BitVec 5
  satfp : Bool
  epc : Word
  ecause : Word
  eaddr : Word
  ebr : Word
  agebound : Nat
  wdog : Nat
  mode : Bool
  xfer : Option Word
  slots : Nat
  flight : List Flight
  run : Run
  stopped : Bool
  joined : List (Word × Nat)
  taped : Option (Word × Nat × Nat)
  aged : Nat
  firstAt : Nat
  laterAt : Nat
  clk : Clock
  deriving DecidableEq, Repr

/-! ## Scratch -/

/-- Kinds of handles (Table 7.1). -/
inductive HKind where
  | tile | cell | chain
  deriving DecidableEq, Repr

/-- A bank format register (Table 7.2), less `used` and `handle`, which `owner` gives. -/
structure Bank where
  owner : Option (Fin 2 × HId)
  split : Fin 16
  fmt : Fin 16
  deriving DecidableEq, Repr

/-- What an `OFFL … keep` copied out (R148): rows and columns of the handle, and the place in memory. -/
structure Kept where
  row : Nat
  rows : Nat
  col : Nat
  cols : Nat
  va : Nat
  lay : Nat
  deriving DecidableEq, Repr

/-- A tile-table entry (R131, R132). `l2fmt`: the format register of a handle of level L2 (R136). `banks`: the banks of
a handle of level S. `data`: its bytes, sparse; an unlisted byte is 0 (R133). `kept`: the mark of `OFFL … keep` (R148). -/
structure Handle where
  id : HId
  kind : HKind
  l2 : Bool
  rows : Nat
  cols : Nat
  pitch : Nat
  units : Nat
  banks : List (Fin 96)
  l2split : Fin 16
  l2fmt : Fin 16
  data : List Host.Cell
  kept : Option Kept
  /-- lines of its data, counted from its start, that an uncorrectable error has struck, each with the bytes written since (R327) -/
  bad : List (Nat × BitVec 128)
  deriving DecidableEq, Repr

/-- A D-region (Table 9.9). -/
structure DRegion where
  idx : Fin 64
  base : Nat
  pages : Nat
  type : Fin 4
  deriving DecidableEq, Repr

/-- A stream register (R188-R191): open, its peer, and the receive buffer, oldest entry first, each entry
with its sending module, channel and sequence number; how many credits senders of this module hold, and which other modules hold one,
each as often as it has one. -/
structure ZState where
  isOpen : Bool
  peer : Fid
  peerCtx : Option (Die × Fin 96)
  peerZ : ZReg
  vc : Fin 8
  buf : List (Fid × Nat × Nat × List Byte)
  granted : Nat
  lent : List Fid
  deriving DecidableEq, Repr

/-! ## Commands -/

/-- Rows of a handle, from `lo` to `hi`. -/
structure RowSet where
  h : HId
  lo : Nat
  hi : Nat
  deriving DecidableEq, Repr

/-- Where the rows of a transfer lie: memory from the address of row 0 at a pitch, or a handle from a row and a column. -/
inductive Side where
  | mem (va pitch : Nat)
  | hnd (h : HId) (row col : Nat)
  deriving DecidableEq, Repr

/-- A data record that runs (R142): its sides, formats, `split` of the destination, scale exponent, counts; the format that its granule
comes from; the tensor-table entry that it captures into (R145). -/
structure Xfer where
  src : Side
  dst : Side
  fs : Fin 16
  fd : Fin 16
  split : Nat
  k : Int
  rows : Nat
  cols : Nat
  xpose : Bool
  satfp : Bool
  wf : Fin 16
  cap : Option Nat
  deriving DecidableEq, Repr

/-- Where a copy walk stands (R141, R143): the resume point. `act`: the active loop rows with the runs left; `rowsDone`,
`elemsDone`: source rows of the record, and elements of the next row, that are done (R275); `olds`: the values that elements of such a row of
a `DRAINM` with `acc` held before it; `amax`: of a capture (R145). `cur`: the record at the row, while it runs. -/
structure WalkSt where
  row : Nat
  so : Int
  dof : Int
  act : List (Nat × Nat)
  rowsDone : Nat
  elemsDone : Nat
  olds : List Byte
  amax : Num
  cur : Option Xfer
  deriving DecidableEq, Repr

/-- A layer macro (R183-R185): k0-k15, the micro-op address, micro-ops since entry or the last SAFE; rows, and elements of the
next row, that a `DRAINM` micro-op has written before it trapped, with the flags and status bits that it then ORs and sets when it
completes, and what `olds` of a walk is; whether its micro-op trapped (R185); the core's microcode store as it stood when the macro
started (R257). -/
structure MacroSt where
  k : Vector Word 16
  addr : Nat
  since : Nat
  rows : Nat
  elems : Nat
  olds : List Byte
  flags : BitVec 5
  stat : List (Fin 32 × BitVec 4)
  trapped : Bool
  store : List (Nat × BitVec 64)
  deriving DecidableEq, Repr

/-- A Traverse in progress (R194, R293-R296, R300): its parameter block, as stored bytes, the entries of the rank table, its
own rank and instance; whether it has announced itself; its local piece, until it is written; the parts still to come of each
piece (by its sender) or reduction result (by the first of its contributors), and those that have come; how it ended (0: in progress). -/
structure TravSt where
  block : List Byte
  ents : List Nat
  rank : Nat
  inst : Nat
  announced : Bool
  own : List Byte
  need : List (Nat × Nat)
  parts : List (Nat × Nat)
  code : Nat
  lostRank : Nat
  flags : BitVec 5
  deriving DecidableEq, Repr

/-- A `TRAV` that a failing page of its rank table or its source has stopped (R194): its parameter block, as stored bytes, the bytes of
the rank table that it has read, and those of the elements of its source, in the order in which it reads them. -/
structure TravRead where
  block : List Byte
  table : List Byte
  bytes : List Byte
  deriving DecidableEq, Repr

/-- A push-mode reduction in progress (R195): its descriptor, the parts of the result that have arrived of how many, how it
ended (0: in progress); the payloads of its contribution that it has still to hand to the router (R308), of how many. -/
structure PushSt where
  desc : List Byte
  parts : List (Nat × List Byte)
  nparts : Nat
  code : Nat
  lostRank : Nat
  flags : BitVec 5
  todo : List (List Byte)
  total : Nat
  deriving DecidableEq, Repr

/-- How far a command has come. -/
inductive Prog where
  /-- waits in its queue -/
  | queued
  /-- at the head of its queue: waits for a credit or an entry (R190, R191), since the cycle -/
  | waiting (since : Nat)
  /-- a copy walk or a single record, at its resume point -/
  | walk (w : WalkSt)
  /-- a range word, at the line it has reached -/
  | range (line : Nat)
  /-- a layer macro -/
  | layer (m : MacroSt)
  /-- a retune that settles at the cycle -/
  | tune (port : Port) (slot : Bool) (until_ : Nat)
  /-- a Traverse that reads, at the head of its queue, at its resume point -/
  | travRead (r : TravRead)
  /-- a Traverse -/
  | trav (t : TravSt)
  /-- a push-mode reduction -/
  | push (p : PushSt)
  /-- a Welt combine, with its place in the order of starts, its next token and its flags -/
  | ncomb (desc : List Byte) (start token : Nat) (flags : BitVec 5)
  /-- a status read that resolves a guard slot at the cycle (R178) -/
  | statg (due : Nat) (slot : GSlot) (val : Bool)
  /-- its effect is made; its completion event is still to come -/
  | done
  deriving DecidableEq, Repr

/-- A command of an engine queue (R57, R61, R216): its word, the value of its s register at issue, the stream and
address of the word, its place in the core's issue order, its access set and its progress. `paths`: bit i for each path of
`WAITP` that it counts for (R150). `flags`, `status`: what its completion ORs into `fflags` (R26), and the bits of the per-tile
status file that it sets (R32, R175). -/
structure Cmd where
  seq : Nat
  q : Queue
  word : Instr
  sval : Word
  src : StreamId
  pc : Word
  reads : List RowSet
  writes : List RowSet
  paths : BitVec 5
  flags : BitVec 5
  status : List (Fin 32 × BitVec 4)
  prog : Prog
  clk : Clock
  deriving DecidableEq, Repr

/-- The data key and the tweak key of an index (R208). -/
abbrev KeyPair := BitVec 256 × BitVec 256

/-- A valid leaf (Table 13.10), with the size of its page in bytes. `cache`: 0 L1 and L2, 1 L2 only, 2 neither. `wp`: write-through. -/
structure Leaf where
  dev : Bool
  x : Bool
  w : Bool
  key : Nat
  diff : Bool
  chk : Bool
  sc : Bool
  pa : Nat
  coh : Bool
  wp : Bool
  cache : Nat
  size : Nat
  deriving DecidableEq, Repr

/-- The part of an access that lies in one 4 KiB frame, once it is translated: its bytes, leaf, physical address, key index and keys. -/
structure Piece where
  va : Nat
  len : Nat
  leaf : Leaf
  pa : Nat
  idx : Nat
  key : KeyPair
  deriving DecidableEq, Repr

/-- The place of an element of a `VXC` (R127), checked at issue: the element, its address or byte offset in the handle, and
for memory the piece of the access. -/
structure VPlace where
  el : Nat
  va : Nat
  piece : Option Piece
  deriving DecidableEq, Repr

/-- A `VXC` command in its data phase (R129): kind, data register, the operands it read at issue, the places of its active
elements, its place in the issue order, the address of its word. `result`: what a reverse-mode scatter leaves in the data register (R271).
`flags`: what its inverted accesses OR into `fflags` when it completes. -/
structure VxcSt where
  kind : Fin 5
  vd : VReg
  wide : Bool
  zm : Bool
  pred : BitVec 64
  row : Nat
  handle : HId
  nseg : Nat
  vi : BitVec 2048
  data : BitVec 2048
  places : List VPlace
  result : Option (BitVec 2048)
  flags : BitVec 5
  round : Fin 4
  seq : Nat
  pc : Word
  deriving DecidableEq, Repr

/-- A B-slot (R169): its format code, whether it is part of an `f32` pair, and its rows of values. -/
structure BSlot where
  fmt : Fin 16
  pair : Bool
  vals : List (List Num)
  deriving DecidableEq, Repr

/-- A transform plan (Table 8.6), as its 32 stored bytes, and the twiddle entries it holds. -/
structure Plan where
  desc : List Byte
  twiddles : Nat
  deriving DecidableEq, Repr

/-- The drain-chain registers (Table 8.4): bias of each column (beyond the list: +0), segments (lo, slope, offset), clamp
bounds, tensor-table entry. -/
structure DrainRegs where
  bias : List (BitVec 32)
  act : List (BitVec 32 × BitVec 32 × BitVec 32)
  clo : BitVec 32
  chi : BitVec 32
  tt : Option (Fin 4096)
  deriving DecidableEq, Repr

/-! ## Job contexts -/

/-- The job card in force (Table 13.5), with the effective values of the region's fields read at dispatch (R251). `anc`: its region
and that region's ancestors, each with its effective L2 quota. -/
structure Card where
  args : Vector Word 15
  anc : List (Nat × Nat)
  lay : Word
  nlay : Nat
  tt : Word
  handler : Word
  entry : Word
  arr : Bool
  tags : BitVec 8
  region : Nat
  prio : Nat
  ports : BitVec 64
  owned : BitVec 8
  key : Nat
  ptroot : Nat
  fdom : Nat
  fab : Nat
  l2q : Nat
  graph : Nat
  node : Nat
  step : BitVec 32
  deriving DecidableEq, Repr

/-- What a job knows of a tag (R156): the phase of its last arrival, and whether its completion has been returned. -/
structure TagView where
  last : Option Nat
  returned : Bool
  deriving DecidableEq, Repr

/-- A phase cell that something has reached in a cycle (R152): the cell as the cycle found it, whose pending count is 0 or less where
an excess was carried into the cycle, and the drops and arrivals of the cycle, with what the drops, and each arrival, have released. -/
structure CellNow where
  h : HId
  row : Nat
  phase : Nat
  expect : Nat
  pend : Int
  drops : Nat
  arrs : Nat
  dropClk : Clock
  arrClk : List Clock
  deriving DecidableEq, Repr

/-- A trap that could not be delivered yet (R309). -/
structure Trap where
  stream : StreamId
  code : Nat
  detail : Nat
  eng : Nat
  eaddr : Word
  pc : Word
  qcmd : Bool
  deriving DecidableEq, Repr

/-- A job context (R209, Table 2.1). `job` numbers the dispatches: it tells the agents of one job from those of another
(log 12). -/
structure Ctx where
  id : CtxId
  job : Nat
  card : Card
  st : Vector Stream 5
  v : Vector (BitVec 2048) 32
  p : Vector (BitVec 64) 16
  z : Vector ZState 16
  handles : List Handle
  g : Vector (Option Bool) 15
  /-- the cycle from which the queue heads see the slot's resolution (R218) -/
  gAt : Vector Nat 15
  dregs : List DRegion
  status : Vector (BitVec 4) 32
  acc : List (Nat × List AccVal)
  slot0 : Option BSlot
  slot1 : Option BSlot
  drain : DrainRegs
  plans : Vector (Option Plan) 16
  cmds : List Cmd
  grants : Vector Nat 4
  vxc : Option VxcSt
  leaseCmds : Nat
  leaseCycles : Nat
  dmode : Fin 4
  tinfo : Word
  tapeBase : Word
  tapePos : Word
  tapeLim : Word
  tagView : Vector TagView 8
  order : Nat
  /-- the job is stopped for the supervisor (R224) -/
  atSup : Bool
  /-- the job stops to be saved, is saved, or waits for its restart (R22, R308) -/
  frozen : Bool
  /-- on supervisor core 0: a trap is recorded, and no word of the trap entry has completed yet (R327) -/
  untaken : Bool
  /-- a trap recorded while the job was being lifted off (R309) -/
  pendingTrap : Option Trap
  /-- the cells that something has reached in this cycle (R152) -/
  cellNow : List CellNow
  cellClk : List ((HId × Nat) × Clock)
  /-- the clock of its `VXC`s since the last `VFENCE`: what their shadow updates have acquired and released, which is not in the C stream's
  order yet (R130, R266) -/
  vxcClk : Clock
  /-- what its completed commands have released on each path, as its core keeps it, but wherever they completed (R231) -/
  waitClk : List (Path × Nat × Clock)
  /-- what its completed commands have released -/
  doneClk : Clock
  /-- what the graph's footprint edges order before the job (R231) -/
  baseClk : Clock
  deriving DecidableEq, Repr

/-! ## Cores, arrays, tags -/

/-- A core (R1): bank format registers, Bivouac pool, last stream issued (index of R211), quiescent
cycles, whether its issue slot of this cycle is used, microcode store (sparse; unlisted words are 0), and what the completed commands of its
streams have released on each path, with the latest place in the issue order of those taken together (R231). -/
structure CoreSt where
  id : CoreId
  banks : Vector Bank 96
  pool : Nat
  last : Nat
  quiet : Nat
  used : Bool
  micro : List (Nat × BitVec 64)
  waitClk : List (Path × Nat × Clock)
  deriving DecidableEq, Repr

/-- The matrix array of a cluster (R166, R167). `requests`: contexts that wait, with the cycle of the request; `since` and
`started`: the grant's cycle and the array commands started under it; `timeout`: when a macro past its bound times out (R168). -/
structure ArraySt where
  cluster : Fin 64
  holder : Option CtxId
  requests : List (CtxId × Nat)
  credit : Vector Int 4
  lastWin : Nat
  started : Nat
  since : Nat
  idleUntil : Nat
  timeout : Option Nat
  deriving DecidableEq, Repr

/-- A Belay tag instance (R156): tag, die for die scope, member set, expected and pending arrivals of the phase,
phase, completions on their way (phase, cycle), phases whose completion has reached the members. `evs`: the arrivals and drops of this
cycle, which are counted at its end (R152): the word, whether it is a drop, and what it releases. `clks`: what the arrivals of each phase
have released (Table 7.12). -/
structure TagSt where
  tag : Tag
  die : Option Die
  members : List CoreId
  config : Nat
  expect : Int
  pend : Int
  phase : Nat
  coming : List (Nat × Nat)
  reached : Nat
  evs : List (StreamRef × Word × Bool × Clock)
  clks : List (Nat × Clock)
  deriving DecidableEq, Repr

/-! ## Memory -/

/-- A die's copy of a line of a die-private page (R239): its 128 bytes and dirty mask, and the key index it carries. `bad`: it was filled
from a poisoned line, so the bytes that are not dirty are poisoned (R327). -/
structure DieLine where
  die : Die
  line : Nat
  bytes : List Byte
  dirty : BitVec 128
  key : Nat
  bad : Bool
  deriving DecidableEq, Repr

/-- A cached translation (R262): region (none: supervisor core 0, R249), page address, page size in bytes, leaf. -/
structure TlbEntry where
  region : Option Nat
  page : Nat
  size : Nat
  leaf : Nat
  deriving DecidableEq, Repr

/-- An earlier event on a checked granule (R236, R237). -/
structure RaceEv where
  granule : Nat
  agent : Nat
  tick : Nat
  write : Bool
  atomic : Bool
  name : Nat
  deriving DecidableEq, Repr

/-- Memory and translation. `hbm`: bytes of HBM in canonical form (addresses rising, no entry equal to what an unlisted
byte reads as). `lineKey`: the key a line was stored under. -/
structure MemSt where
  hbm : List Host.Cell
  lineKey : List (Nat × (BitVec 256 × BitVec 256))
  keys : List (Nat × (BitVec 256 × BitVec 256))
  dieLines : List DieLine
  tlb : List TlbEntry
  poison : List Nat
  chk : List (Nat × Nat)
  race : List RaceEv
  atomClk : List (Nat × Clock)
  hostWrites : List (Nat × Word)
  deriving DecidableEq, Repr

/-! ## Hub -/

/-- One receive filter slot: colour it passes, and the cycle in which a retune settles (R192, R280). -/
structure Filter where
  colour : Option (Fin 8)
  settle : Option (Nat × Option (Fin 8))
  deriving DecidableEq, Repr

/-- One lane of a port (Table 16.2): state code, failed replays in a row, retired (R329), whether it holds flits
after a failed one (R282), and its two receive slots. -/
structure LaneSt where
  state : Fin 6
  fails : Nat
  retired : Bool
  holding : Bool
  slot0 : Filter
  slot1 : Filter
  deriving DecidableEq, Repr

/-- What was last heard of a colour of a port's star (R280, R288). -/
structure Heard where
  colour : Fin 8
  at_ : Nat
  pending : Bool
  since : Nat
  passes : BitVec 8
  deriving DecidableEq, Repr

/-- One optical port: Tables 16.1 and 20.2, its lanes, supply fibre, announcements, flow credits
(flow 0 forward, 1 + region), last winner and each flow's last channel (R286). -/
structure PortSt where
  cfg : Word
  mem0 : Word
  mem1 : Word
  retries : Nat
  lanes : Vector LaneSt 8
  req : BitVec 8
  grant : BitVec 8
  supply : Bool
  heard : List Heard
  credit : List (Nat × Int)
  lastWin : Option Nat
  turn : List (Nat × Nat)
  deriving DecidableEq, Repr

/-- A mailbox (R246): its 4 KiB buffer (unlisted bytes 0) and doorbell. -/
structure Mailbox where
  buf : List Byte
  new : Bool
  len : BitVec 16
  seq : BitVec 32
  deriving DecidableEq, Repr

/-- An HBM row repair (R329). -/
structure Repair where
  stack : Fin 8
  row : BitVec 32
  deriving DecidableEq, Repr

/-- The hub registers of Tables 13.1, 16.1, 18.1 and 20.1 to 20.7, and the state behind them. -/
structure HubSt where
  rcbase : Word
  chkstat : Word
  sproot : Word
  strap : Word
  gangbase : Word
  fwdw : Nat
  routes : List (Fid × Word)
  ports : Vector PortSt 64
  mail : Vector Mailbox 64
  rdyHub : BitVec 64
  rdyClus : BitVec 64
  rdyCore : Vector (BitVec 96) 4
  rdyPort : BitVec 64
  tmNow : Word
  tmAdj : Word
  tmFrac : Int
  tmStat : Word
  tmRx : Word
  tmTx : Word
  rasBase : Word
  rasLen : Nat
  rasHead : Nat
  rasTail : Nat
  rasLost : Nat
  rasDump : Word
  rasFatal : Bool
  rpStat : Word
  /-- repairs in progress, each with the ready bit that its stack had -/
  rpBusy : List (Repair × Bool)
  retiredCores : List (Die × Fin 96)
  retiredBanks : List (Die × Fin 96 × Fin 96)
  retiredStacks : List (Fin 8)
  repairedRows : List Repair
  pwCap : Nat
  pwNow : BitVec 16
  pwTemp : BitVec 16
  throttled : Bool
  m0 : BitVec 512
  m1 : BitVec 512
  m2 : BitVec 512
  nonce : BitVec 256
  quoting : Bool
  atReady : Bool
  quote : List Byte
  bootStat : Fin 5
  bootLen : Nat
  mseq : Nat
  haltCode : Option (BitVec 11)
  powered : Bool
  /-- has `rdy.time` set since power-up (R325)? -/
  timeSet : Bool
  fatal : Bool
  /-- ports that were ready at a fatal error: they go on forwarding (R327) -/
  fatalPorts : BitVec 64
  deriving DecidableEq, Repr

/-! ## Cairn and the router -/

/-- A loaded graph (R253, R254): where its descriptor lies, what Cairn read from it and from its nodes (the records, and each node's
handle declarations), its state, whether a `GRAPH stop` waits; the lowest step with an instance not yet complete, the instances completed
from there on, in the ready pool and running; its Traverse counts (R300), and what each node's completed instances have released (R231). -/
structure Graph where
  addr : Nat
  region : Nat
  fdom : Nat
  steps : Nat
  tags : List (Tag × Nat)
  recs : List (BitVec 2048)
  decls : List (List (BitVec 128))
  state : Fin 6
  stopping : Bool
  low : Nat
  done : List (Nat × Nat)
  pool : List (Nat × Nat)
  running : List (Nat × Nat)
  travs : List ((Nat × CtxId) × Nat)
  clk : List (Nat × Clock)
  deriving DecidableEq, Repr

/-- A contribution to a reduction group that has not been folded (R195, R316): rank, its module and job, parts in all,
those that have come. -/
structure Contrib where
  rank : Nat
  src : Fid
  frm : CtxId
  parts : Nat
  got : List (Nat × Packet)
  deriving DecidableEq, Repr

/-- An open group of the reduction memory (R297): highest index, elements minus 1, next rank to fold, accumulator, flags,
contributions that wait, members whose contribution has been folded, the ranks that a Traverse reduction goes to, channel, gang
and region; how its result ends, and the lowest lost rank; whether its result has been handed out. -/
structure Group where
  key : GroupKey
  need : Nat
  count : Nat
  next : Nat
  acc : List Byte
  flags : BitVec 5
  early : List Contrib
  folded : List (Nat × Fid × CtxId)
  dst : List (Fid × CtxId)
  vc : Fin 8
  gang : Fin 4096
  region : Nat
  code : Nat
  lostRank : Nat
  cast : Bool
  deriving DecidableEq, Repr

/-- A record of a gang's save area (R311). -/
inductive SaveItem where
  | packet (k : Packet)
  | group (g : Group)
  | entry (dst : CtxId) (z : ZReg) (e : Fid × Nat × Nat × List Byte)
  deriving DecidableEq, Repr

/-- A request of another module for a free entry of a stream register at a core (R190), and the cycle in which it reached this module. -/
structure ZReq where
  core : CoreId
  z : ZReg
  src : Fid
  since : Nat
  deriving DecidableEq, Repr

/-- A `GANG` or `GRES` in progress: its stream, whether it is `GRES`, the address of the word. -/
structure GangHold where
  ref : StreamRef
  gres : Bool
  pc : Word
  deriving DecidableEq, Repr

/-- A gang switch in progress or closed (R306-R313): its state (`gg.state`), whether its jobs have been lifted off, the markers
delivered of each member and channel, resume markers delivered, the save records in order, each with its byte offset, whether they have
been re-injected, the graphs to return to state 2, the word that it holds, and the packets delivered since its jobs
began to stop and not saved yet (R306, step 4), and address and bytes of its save area. -/
structure GangSt where
  id : Nat
  state : Fin 5
  lifted : Bool
  markers : List (Fid × Fin 8)
  resumes : List Fid
  recs : List (Nat × SaveItem)
  back : Bool
  used : Nat
  npk : Nat
  nlate : Nat
  spilled : Bool
  graphs : List Nat
  hold : Option GangHold
  after : List Packet
  area : Nat × Nat
  deriving DecidableEq, Repr

/-- What a Traverse still owes other ranks (R293-R295, R300): the job and command, the destination rank `b`, the ranks that share its
box, each with its place and whether it has announced itself, and the packets that go out once all have; or, with no packets, how many
packets of other ranks' pieces it has still to pass on. -/
structure SendSt where
  ctx : CtxId
  job : Nat
  seq : Nat
  id : Nat
  inst : Nat
  a : Nat
  b : Nat
  dsts : List (Nat × (Fid × CtxId) × Bool)
  packets : List Packet
  relays : Nat
  deriving DecidableEq, Repr

/-- The router (R284-R288, R297). `held`: packets that came before their turn; `locals`: on their way within the module; `out`:
own and third-party packets for other modules, in arrival order; `waitq`: delivered packets that flow control holds back; `sent`: what
the ports have sent, oldest first; `outbox`: what Traverses owe; `heralds`: announcements of ranks whose matching Traverse here has not
started (R300); `later`: packets of resuming gangs, which have no number yet (R319); `lostReq`: declarations written to `hub.lost` that
the same step still acts on; `arrived`: the order in which the packets of `waitq` and `heralds` came, by source, channel and number;
`gone`: the Traverses that a `GRAPH unload` has discarded, by place, identifier and instance (R288); `lateLog`: source, channel and number
of the late packets (R313); `fab`: each region's weight as its last
dispatch read it (R251, R286). -/
structure RouterSt where
  txSeq : List ((Fid × Fin 8) × BitVec 32)
  rxSeq : List ((Fid × Fin 8) × BitVec 32)
  held : List Packet
  locals : List Packet
  out : List Packet
  waitq : List Packet
  sent : List (Port × Packet)
  outbox : List SendSt
  heralds : List Packet
  later : List Packet
  lost : List Fid
  lostReq : List Fid
  lastHeard : List (Fid × Nat)
  groups : List Group
  closed : List (GroupKey × Nat)
  gangs : List GangSt
  arrived : List (Fid × Fin 8 × BitVec 32)
  gone : List (CtxId × Nat × Nat)
  lateLog : List (Fid × Fin 8 × BitVec 32)
  fab : List (Nat × Nat)
  /-- requests of other modules for entries of stream registers (R190) -/
  zreqs : List ZReq
  deriving DecidableEq, Repr

/-- What `time` a core could read in the cycle of a step (R325): the value before the step. -/
structure TimeStep where
  cycle : Nat
  old : Word
  deriving DecidableEq, Repr

/-- A write of Cairn, by virtual address, or of the hub, by physical address, that waits for an HBM stack to be ready (R323). -/
structure WaitStore where
  cairn : Bool
  addr : Nat
  bytes : List Byte
  deriving DecidableEq, Repr

/-- The whole machine. The last fields are the model's own (log 4): the cycle since power-up, the events still to come
from outside with the cycle from which each occurs, the choices among several moves that are laid down (beyond them: free), the counter of
free values, the stream whose
word is executed. -/
structure State where
  ctxs : List Ctx
  saved : List Ctx
  cores : List CoreSt
  arrays : List ArraySt
  tags : List TagSt
  mem : MemSt
  hub : HubSt
  graphs : List Graph
  /-- the cycle of Cairn's last dispatch: it makes at most one in a cycle (R255) -/
  dispatched : Option Nat
  router : RouterSt
  lateFaults : List Nat
  /-- in their order, oldest first -/
  waitStores : List WaitStore
  timeStep : Option TimeStep
  now : Nat
  script : List (Nat × Instr)
  turns : List Nat
  fresh : Nat
  cur : Option StreamRef
  deriving DecidableEq, Repr

/-- Why the machine stops. -/
inductive Fault where
  /-- Raised by a meaning run with no stream to issue its word (`State.cur` names none): `step` never does so.
  Safe: no run reaches it. -/
  | noStream
  deriving DecidableEq, Repr

/-- Why a step has no meaning. -/
inductive Refusal where
  /-- Raised by an arm of `exec` whose instruction is not modelled yet. Safe. -/
  | notModelled (mnemonic : String)
  /-- Raised by an event that the rules do not allow in the state it is met in (a completion of something that is not in
  progress): such a step does not exist. Safe: it allows no behaviour. -/
  | notEnabled (event : String)
  deriving DecidableEq, Repr

/-! ## Reset -/

/-- The streams of a job, in the order of Table 10.2. -/
def allStreams : List StreamId := [.C, .A, .L, .S, .N]

/-- A stream that was never forked, at its reset values (Table 2.3). -/
def Stream.reset (role : Fin 4) : Stream where
  s := Vector.replicate 64 0
  b := Vector.replicate 8 0
  c := Vector.replicate 8 false
  pc := 0
  role := role
  round := 0
  fflags := 0
  satfp := false
  epc := 0
  ecause := 0
  eaddr := 0
  ebr := 0
  agebound := 512
  wdog := 2000000
  mode := false
  xfer := none
  slots := 0
  flight := []
  run := .off
  stopped := false
  joined := []
  taped := none
  aged := 0
  firstAt := 0
  laterAt := 0
  clk := []

/-- The default roles of Table 10.2: C 1, A 1, L 0, S 2, N 0. -/
def defaultRole : StreamId → Fin 4
  | .C => 1
  | .A => 1
  | .L => 0
  | .S => 2
  | .N => 0

/-- A closed stream register (R188). -/
def ZState.reset : ZState where
  isOpen := false
  peer := 0
  peerCtx := none
  peerZ := 0
  vc := 0
  buf := []
  granted := 0
  lent := []

/-- The reset values of Table 8.4. -/
def DrainRegs.reset : DrainRegs where
  bias := []
  act := [(0xFF800000, 0x3F800000, 0)]
  clo := 0xFF800000
  chi := 0x7F800000
  tt := none

/-- A context at job start, before its handles are allocated and its C stream is started (R16, R22). -/
def Ctx.reset (id : CtxId) (job : Nat) (card : Card) : Ctx where
  id := id
  job := job
  card := card
  st := #v[Stream.reset 1, Stream.reset 1, Stream.reset 0, Stream.reset 2, Stream.reset 0]
  v := Vector.replicate 32 0
  p := Vector.replicate 16 0
  z := Vector.replicate 16 ZState.reset
  handles := []
  g := Vector.replicate 15 none
  gAt := Vector.replicate 15 0
  dregs := []
  status := Vector.replicate 32 0
  acc := []
  slot0 := none
  slot1 := none
  drain := DrainRegs.reset
  plans := Vector.replicate 16 none
  cmds := []
  grants := Vector.replicate 4 0
  vxc := none
  leaseCmds := 32
  leaseCycles := 4096
  dmode := 0
  tinfo := 0
  tapeBase := 0
  tapePos := 0
  tapeLim := 0
  tagView := Vector.replicate 8 ⟨none, false⟩
  order := 0
  atSup := false
  frozen := false
  untaken := false
  pendingTrap := none
  cellNow := []
  cellClk := []
  vxcClk := []
  waitClk := []
  doneClk := []
  baseClk := []

/-- A bank format register at reset (Table 7.2). -/
def Bank.reset : Bank := ⟨none, 3, 0⟩

/-- A core at reset. -/
def CoreSt.reset (id : CoreId) : CoreSt where
  id := id
  banks := Vector.replicate 96 Bank.reset
  pool := 512
  last := 9
  quiet := 0
  used := false
  micro := []
  waitClk := []

/-- An array at power-up (R167). -/
def ArraySt.reset (cl : Fin 64) : ArraySt where
  cluster := cl
  holder := none
  requests := []
  credit := Vector.replicate 4 0
  lastWin := 3
  started := 0
  since := 0
  idleUntil := 0
  timeout := none

/-- A filter slot at power-up: it passes no colour (DESIGN CHOICE, log 20). -/
def Filter.reset : Filter := ⟨none, none⟩

/-- A port at power-up. -/
def PortSt.reset : PortSt where
  cfg := 0
  mem0 := 0
  mem1 := 0
  retries := 0
  lanes := Vector.replicate 8 ⟨0, 0, false, false, Filter.reset, Filter.reset⟩
  req := 0
  grant := 0
  supply := true
  heard := []
  credit := []
  lastWin := none
  turn := []

/-- The hub at power-up. -/
def HubSt.reset : HubSt where
  rcbase := 0
  chkstat := 0
  sproot := 0
  strap := 0
  gangbase := 0
  fwdw := 64
  routes := []
  ports := Vector.replicate 64 PortSt.reset
  mail := Vector.replicate 64 ⟨[], false, 0, 0⟩
  rdyHub := 0
  rdyClus := 0
  rdyCore := Vector.replicate 4 0
  rdyPort := 0
  tmNow := 0
  tmAdj := 0
  tmFrac := 0
  tmStat := 0
  tmRx := 0
  tmTx := 0
  rasBase := 0
  rasLen := 0
  rasHead := 0
  rasTail := 0
  rasLost := 0
  rasDump := 0
  rasFatal := false
  rpStat := 0
  rpBusy := []
  retiredCores := []
  retiredBanks := []
  retiredStacks := []
  repairedRows := []
  pwCap := 3200
  pwNow := 0
  pwTemp := 0
  throttled := false
  m0 := 0
  m1 := 0
  m2 := 0
  nonce := 0
  quoting := false
  atReady := false
  quote := []
  bootStat := 0
  bootLen := 0
  mseq := 0
  haltCode := none
  powered := false
  timeSet := false
  fatal := false
  fatalPorts := 0

/-- The cores of a module (R1, R249). -/
def allCores : List CoreId :=
  .sup :: (List.finRange 4).flatMap fun d => (List.finRange 96).map fun k => .core d k

/-- The module right after power is applied, before its boot ROM has run (R14, R323): no job, nothing ready, memory with
nothing listed. Log 13 says how a program comes to run from here. -/
def State.reset : State where
  ctxs := []
  saved := []
  cores := allCores.map CoreSt.reset
  arrays := (List.finRange 64).map ArraySt.reset
  tags := []
  mem := {
    hbm := [], lineKey := [], keys := [], dieLines := [], tlb := [], poison := [], chk := [], race := [], atomClk := [], hostWrites := [] }
  hub := HubSt.reset
  graphs := []
  dispatched := none
  router := {
    txSeq := [], rxSeq := [], held := [], locals := [], out := [], waitq := [], sent := [], outbox := [], heralds := [], later := []
    lost := [], lostReq := [], lastHeard := [], groups := [], closed := [], gangs := [], arrived := [], gone := [], lateLog := [], fab := [], zreqs := [] }
  lateFaults := []
  waitStores := []
  timeStep := none
  now := 0
  script := []
  turns := []
  fresh := 0
  cur := none

end Sys2Proof.Machine
end

