-- ==== Sys2Proof/Machine/Flags.lean ====
section
/-! DEFINITION. Number formats, rounding and the flags of `fflags` (spec/03_number_formats.md): decoding and encoding of the
float formats, exact sums, products and quotients rounded once, conversions of R40, BX blocks (R41-R44), the divider (R55). -/

namespace Sys2Proof.Machine

/-! ## Flags (Table 2.4) -/

abbrev FFlags := BitVec 5

def fNone : FFlags := 0
def fNV : FFlags := 16
def fDZ : FFlags := 8
def fOF : FFlags := 4
def fUF : FFlags := 2
def fNX : FFlags := 1

/-- Rounding modes (R37), by the code of `round`. -/
inductive Rm where
  | rne | rz | ru | rd
  deriving DecidableEq, Repr

def rmOf : Fin 4 → Rm
  | 0 => .rne | 1 => .rz | 2 => .ru | 3 => .rd

/-! ## Rounding integers -/

/-- `m / 2^sh` rounded to an integer, for a magnitude of a sign, and whether it was inexact. -/
def roundShift (rm : Rm) (neg : Bool) (m sh : Nat) : Nat × Bool :=
  let q := m / 2 ^ sh
  let r := m % 2 ^ sh
  let up := match rm with
    | .rne => decide (2 ^ sh < 2 * r) || (2 * r == 2 ^ sh && q % 2 == 1)
    | .rz => false
    | .ru => !neg && r != 0
    | .rd => neg && r != 0
  if r = 0 then (q, false) else (if up then q + 1 else q, true)

/-- `m × 2^e` as a multiple of `2^q`, rounded. -/
def roundTo (rm : Rm) (neg : Bool) (m : Nat) (e q : Int) : Nat × Bool :=
  if q ≤ e then (m * 2 ^ (e - q).toNat, false) else roundShift rm neg m (q - e).toNat

/-! ## Float formats (Table 3.1, Table 3.3) -/

/-- A float format: exponent bits, fraction bits, bias, the largest finite encoding, whether it has infinities, the canonical
NaN (Table 3.2). -/
structure FloatFmt where
  eb : Nat
  mb : Nat
  bias : Nat
  maxFin : Nat
  hasInf : Bool
  nan : Nat
  fp8 : Bool

def f64 : FloatFmt := ⟨11, 52, 1023, 0x7FEFFFFFFFFFFFFF, true, 0x7FF8000000000000, false⟩
def f32 : FloatFmt := ⟨8, 23, 127, 0x7F7FFFFF, true, 0x7FC00000, false⟩
def f16 : FloatFmt := ⟨5, 10, 15, 0x7BFF, true, 0x7E00, false⟩
def bf16 : FloatFmt := ⟨8, 7, 127, 0x7F7F, true, 0x7FC0, false⟩
def e4m3 : FloatFmt := ⟨4, 3, 7, 0x7E, false, 0x7F, true⟩
def e5m2 : FloatFmt := ⟨5, 2, 15, 0x7B, true, 0x7E, true⟩

/-- Bits of a format. -/
def FloatFmt.width (f : FloatFmt) : Nat := 1 + f.eb + f.mb

/-- The sign bit, set. -/
def FloatFmt.signBit (f : FloatFmt) (neg : Bool) : Nat := if neg then 2 ^ (f.eb + f.mb) else 0

/-- Value of an encoding (R35, R38). An FP8 NaN is quiet. -/
def FloatFmt.decode (f : FloatFmt) (x : Nat) : Num :=
  let neg := bitN x (f.eb + f.mb)
  let ex := x / 2 ^ f.mb % 2 ^ f.eb
  let fr := x % 2 ^ f.mb
  let mag := x % 2 ^ (f.eb + f.mb)
  if ex = 0 then .fin neg fr (1 - (f.bias : Int) - f.mb)
  else if mag ≤ f.maxFin then .fin neg (2 ^ f.mb + fr) ((ex : Int) - f.bias - f.mb)
  else if f.hasInf && fr == 0 then .inf neg
  else .nan (!f.fp8 && decide (fr < 2 ^ (f.mb - 1)))

/-- What an overflow delivers (R37, R39). -/
def FloatFmt.overflow (f : FloatFmt) (rm : Rm) (satfp neg : Bool) : Nat :=
  let toMax := match rm with
    | .rne => false
    | .rz => true
    | .ru => neg
    | .rd => !neg
  if toMax || (f.fp8 && satfp) then f.signBit neg + f.maxFin
  else if f.hasInf then f.signBit neg + (2 ^ f.eb - 1) * 2 ^ f.mb
  else f.nan

/-- A finite value rounded into a format, with its flags (R37, R39). -/
def FloatFmt.round (f : FloatFmt) (rm : Rm) (satfp neg : Bool) (m : Nat) (e : Int) : Nat × FFlags :=
  if m = 0 then (f.signBit neg, fNone)
  else
    let top : Int := e + bitLen m - 1
    let emin : Int := 1 - f.bias
    let base : Int := max top emin
    let r := roundTo rm neg m e (base - f.mb)
    let mag := (base - emin).toNat * 2 ^ f.mb + r.1
    if f.maxFin < mag then (f.overflow rm satfp neg, fOF ||| fNX)
    else
      let u := roundTo rm neg m e (top - f.mb)
      let tiny := decide (top < emin) && !(decide (top = emin - 1) && u.1 == 2 ^ (f.mb + 1))
      (f.signBit neg + mag, if r.2 then (if tiny then fUF ||| fNX else fNX) else fNone)

/-- A value into a format, as a conversion (R36, R39): an infinite input into FP8 converts as an overflow. -/
def FloatFmt.convert (f : FloatFmt) (rm : Rm) (satfp : Bool) : Num → Nat × FFlags
  | .nan sig => (f.nan, if sig then fNV else fNone)
  | .inf neg =>
    if f.fp8 then
      let r := f.overflow rm satfp neg
      (r, if f.hasInf && r == f.signBit neg + (2 ^ f.eb - 1) * 2 ^ f.mb then fNone else fOF ||| fNX)
    else (f.overflow .rne false neg, fNone)
  | .fin neg m e => f.round rm satfp neg m e

/-- The result of arithmetic into its format: an exact infinity stays one. -/
def FloatFmt.result (f : FloatFmt) (rm : Rm) (satfp : Bool) : Num → Nat × FFlags
  | .nan _ => (f.nan, fNone)
  | .inf neg => (f.overflow .rne false neg, fNone)
  | .fin neg m e => f.round rm satfp neg m e

/-! ## Exact arithmetic on values -/

def Num.isNan : Num → Bool
  | .nan _ => true
  | _ => false

def Num.isSig : Num → Bool
  | .nan s => s
  | _ => false

def Num.isZero : Num → Bool
  | .fin _ m _ => m == 0
  | _ => false

def Num.isInf : Num → Bool
  | .inf _ => true
  | _ => false

def Num.sign : Num → Bool
  | .nan _ => false
  | .inf n => n
  | .fin n _ _ => n

def Num.neg : Num → Num
  | .nan s => .nan s
  | .inf n => .inf (!n)
  | .fin n m e => .fin (!n) m e

def Num.abs : Num → Num
  | .nan s => .nan s
  | .inf _ => .inf false
  | .fin _ m e => .fin false m e

/-- +0. -/
def Num.zero : Num := .fin false 0 0

/-- A signed magnitude as an integer. -/
def signed (neg : Bool) (m : Nat) : Int := if neg then -(m : Int) else m

/-- `x × 2^k`. -/
def Num.scale (k : Int) : Num → Num
  | .fin n m e => .fin n m (e + k)
  | x => x

/-- Exact sum of two finite values, with the sign of an exact zero as the rounding mode gives it. -/
def addFin (rm : Rm) (n1 : Bool) (m1 : Nat) (e1 : Int) (n2 : Bool) (m2 : Nat) (e2 : Int) : Num :=
  if m1 = 0 ∧ m2 = 0 then .fin (if n1 = n2 then n1 else decide (rm = .rd)) 0 0
  else
    let e := min e1 e2
    let x := signed n1 m1 * (2 : Int) ^ (e1 - e).toNat + signed n2 m2 * (2 : Int) ^ (e2 - e).toNat
    if x = 0 then .fin (decide (rm = .rd)) 0 0 else .fin (decide (x < 0)) x.natAbs e

/-- The flag of NaN operands: signalling ones set NV (R36). -/
def sigFlag (xs : List Num) : FFlags := if xs.any Num.isSig then fNV else fNone

/-- Exact sum, NaN with NV for ∞ − ∞. -/
def Num.add (rm : Rm) (x y : Num) : Num × FFlags :=
  match x, y with
  | .nan _, _ => (.nan false, sigFlag [x, y])
  | _, .nan _ => (.nan false, sigFlag [x, y])
  | .inf a, .inf b => if a = b then (.inf a, fNone) else (.nan false, fNV)
  | .inf a, .fin _ _ _ => (.inf a, fNone)
  | .fin _ _ _, .inf b => (.inf b, fNone)
  | .fin n1 m1 e1, .fin n2 m2 e2 => (addFin rm n1 m1 e1 n2 m2 e2, fNone)

/-- Exact product, NaN with NV for 0 × ∞. -/
def Num.mul (x y : Num) : Num × FFlags :=
  match x, y with
  | .nan _, _ => (.nan false, sigFlag [x, y])
  | _, .nan _ => (.nan false, sigFlag [x, y])
  | .inf a, .inf b => (.inf (a != b), fNone)
  | .inf a, .fin n m _ => if m = 0 then (.nan false, fNV) else (.inf (a != n), fNone)
  | .fin n m _, .inf b => if m = 0 then (.nan false, fNV) else (.inf (n != b), fNone)
  | .fin n1 m1 e1, .fin n2 m2 e2 => (.fin (n1 != n2) (m1 * m2) (e1 + e2), fNone)

/-- `x × y + z` exactly, rounded once; 0 × ∞ gives NaN and sets NV also beside a quiet NaN (R108). -/
def Num.fma (rm : Rm) (x y z : Num) : Num × FFlags :=
  let p := x.mul y
  let s := Num.add rm p.1 z
  (s.1, p.2 ||| s.2)

/-- A magnitude with one more bit that says whether something lies below it. -/
def stick (m : Nat) (inexact : Bool) : Nat := 2 * m + if inexact then 1 else 0

/-- Quotient, to `p` bits or more and a sticky bit, which rounds into any format of less than `p` bits as the exact one. -/
def Num.div (p : Nat) (x y : Num) : Num × FFlags :=
  match x, y with
  | .nan _, _ => (.nan false, sigFlag [x, y])
  | _, .nan _ => (.nan false, sigFlag [x, y])
  | .inf _, .inf _ => (.nan false, fNV)
  | .inf a, .fin n _ _ => (.inf (a != n), fNone)
  | .fin n _ _, .inf b => (.fin (n != b) 0 0, fNone)
  | .fin n1 m1 e1, .fin n2 m2 e2 =>
    if m2 = 0 then (if m1 = 0 then (.nan false, fNV) else (.inf (n1 != n2), fDZ))
    else
      let k := p + bitLen m2
      let a := m1 * 2 ^ k
      (.fin (n1 != n2) (stick (a / m2) (a % m2 != 0)) (e1 - e2 - k - 1), fNone)

/-- ⌊√n⌋, bit by bit: `fuel` bits from bit `fuel − 1`. -/
def isqrtGo (n : Nat) : Nat → Nat → Nat
  | 0, r => r
  | b + 1, r => if (r + 2 ^ b) * (r + 2 ^ b) ≤ n then isqrtGo n b (r + 2 ^ b) else isqrtGo n b r

def isqrt (n : Nat) : Nat := isqrtGo n (bitLen n / 2 + 1) 0

/-- Square root, to `p` bits or more and a sticky bit. -/
def Num.sqrt (p : Nat) (x : Num) : Num × FFlags :=
  match x with
  | .nan _ => (.nan false, sigFlag [x])
  | .inf n => if n then (.nan false, fNV) else (.inf false, fNone)
  | .fin n m e =>
    if m = 0 then (.fin n 0 0, fNone)
    else if n then (.nan false, fNV)
    else
      let odd := (e % 2 != 0)
      let e1 : Int := if odd then e - 1 else e
      let a := (if odd then 2 * m else m) * 2 ^ (2 * p)
      let r := isqrt a
      (.fin false (stick r (r * r != a)) (e1 / 2 - p - 1), fNone)

/-- Compare two values that are no NaN: less. -/
def Num.lt (x y : Num) : Bool :=
  match x, y with
  | .inf a, .inf b => a && !b
  | .inf a, .fin _ _ _ => a
  | .fin _ _ _, .inf b => !b
  | .fin n1 m1 e1, .fin n2 m2 e2 =>
    let e := min e1 e2
    decide (signed n1 m1 * (2 : Int) ^ (e1 - e).toNat < signed n2 m2 * (2 : Int) ^ (e2 - e).toNat)
  | _, _ => false

/-- Compare two values that are no NaN: equal (−0 = +0). -/
def Num.eq (x y : Num) : Bool := !x.isNan && !y.isNan && !x.lt y && !y.lt x

/-! ## Values of binary32 and binary64 held as values -/

/-- Round a value into a format and take it back as a value: `rne32`, `rn64` of Table 0.3. -/
def FloatFmt.rn (f : FloatFmt) (x : Num) : Num × FFlags :=
  let r := f.result .rne false x
  (f.decode r.1, r.2)

/-! ## Integers -/

/-- A value rounded to an integer; none for NaN and infinities. -/
def Num.toInt (rm : Rm) : Num → Option (Int × Bool)
  | .fin n m e => let r := roundTo rm n m e 0; some (signed n r.1, r.2)
  | _ => none

/-- Range of an integer format. -/
def intLo (isSigned : Bool) (w : Nat) : Int := if isSigned then -(2 ^ (w - 1) : Nat) else 0
def intHi (isSigned : Bool) (w : Nat) : Int := if isSigned then (2 ^ (w - 1) : Nat) - 1 else (2 ^ w : Nat) - 1

/-- A value into an integer format (R40): beyond the range the nearest end with NV; NaN 0 with NV; inexact NX. -/
def toIntFmt (rm : Rm) (isSigned : Bool) (w : Nat) (x : Num) : Nat × FFlags :=
  match x with
  | .nan _ => (0, fNV)
  | .inf n => (wrapN w (if n then intLo isSigned w else intHi isSigned w), fNV)
  | .fin n m e =>
    let r := roundTo rm n m e 0
    let v := signed n r.1
    if v < intLo isSigned w then (wrapN w (intLo isSigned w), fNV)
    else if intHi isSigned w < v then (wrapN w (intHi isSigned w), fNV)
    else (wrapN w v, if r.2 then fNX else fNone)

/-- An integer as a value. -/
def numOfInt (v : Int) : Num := .fin (decide (v < 0)) v.natAbs 0

/-- An integer into an integer format (R40). -/
def intToInt (isSigned : Bool) (w : Nat) (v : Int) : Nat × FFlags :=
  if v < intLo isSigned w then (wrapN w (intLo isSigned w), fNV)
  else if intHi isSigned w < v then (wrapN w (intHi isSigned w), fNV)
  else (wrapN w v, fNone)

/-! ## The divider (R55, Table 3.5) -/

/-- Signed division of `w`-bit operands: quotient, remainder, flags. -/
def divSigned (w a b : Nat) : Nat × Nat × FFlags :=
  let x := sextN w a
  let y := sextN w b
  if y = 0 then (if 0 ≤ x then 1 else 2 ^ w - 1, a % 2 ^ w, fDZ)
  else if x = -(2 ^ (w - 1) : Nat) ∧ y = -1 then (2 ^ (w - 1), 0, fNone)
  else (wrapN w (Int.tdiv x y), wrapN w (x - Int.tdiv x y * y), fNone)

/-- Unsigned division. -/
def divUnsigned (w a b : Nat) : Nat × Nat × FFlags :=
  if b % 2 ^ w = 0 then (2 ^ w - 1, a % 2 ^ w, fDZ)
  else (a % 2 ^ w / (b % 2 ^ w), a % 2 ^ w % (b % 2 ^ w), fNone)

/-! ## Element formats (Table 3.1) -/

/-- What an element format is. -/
inductive EKind where
  | int (isSigned : Bool) (w : Nat)
  | flt (f : FloatFmt)
  | bx (eight : Bool)

def ekind (f : Fin 16) : EKind :=
  match f.val with
  | 0 => .int false 8 | 1 => .int true 8 | 2 => .int false 16 | 3 => .int true 16
  | 4 => .int false 32 | 5 => .int true 32 | 6 => .int false 64 | 7 => .int true 64
  | 8 => .flt f16 | 9 => .flt bf16 | 10 => .flt f32 | 11 => .flt f64
  | 12 => .flt e4m3 | 13 => .flt e5m2 | 14 => .bx true | _ => .bx false

/-- Bytes of an element; 0 for the BX formats. -/
def ewidth (f : Fin 16) : Nat :=
  match ekind f with
  | .int _ w => w / 8
  | .flt g => g.width / 8
  | .bx _ => 0

/-- Is it a BX format? -/
def isBx (f : Fin 16) : Bool :=
  match ekind f with
  | .bx _ => true
  | _ => false

/-- Bytes of a BX block: 34 or 18. -/
def bxBytes (f : Fin 16) : Nat := if f = 14 then 34 else 18

/-- Bytes of a row of `cols` elements (R132). -/
def rowBytes (f : Fin 16) (cols : Nat) : Nat :=
  if isBx f then (cols + 31) / 32 * bxBytes f else cols * ewidth f

/-- Element of a non-BX format as a value. -/
def elemNum (f : Fin 16) (bits : Nat) : Num :=
  match ekind f with
  | .int sg w => numOfInt (if sg then sextN w bits else (bits % 2 ^ w : Nat))
  | .flt g => g.decode bits
  | .bx _ => .zero

/-- A value into a non-BX format by R40 (RNE), from a source that is an integer format or not. -/
def numElem (f : Fin 16) (satfp fromInt : Bool) (x : Num) : Nat × FFlags :=
  match ekind f with
  | .int sg w =>
    if fromInt then
      match x with
      | .fin n m _ => intToInt sg w (signed n m)
      | _ => (0, fNV)
    else toIntFmt .rne sg w x
  | .flt g => g.convert .rne satfp x
  | .bx _ => (0, fNone)

/-- Is it an integer format? -/
def isInt (f : Fin 16) : Bool :=
  match ekind f with
  | .int _ _ => true
  | _ => false

/-! ## BX blocks (R41-R44) -/

/-- Element `j` of a BX block (R42). -/
def bxElem (f : Fin 16) (blk : List Byte) (j : Nat) : Num :=
  let e0 := (blk.getD 0 0).toNat
  let e1 := (blk.getD 1 0).toNat
  if f = 14 then
    let b := (blk.getD (2 + j) 0).toNat
    let e := if bitN b 6 then e1 else e0
    if e = 255 then .nan false else .fin (bitN b 7) (b % 64) ((e : Int) - 132)
  else
    let b := (blk.getD (2 + j / 2) 0).toNat / (if j % 2 = 0 then 1 else 16) % 16
    let e := if bitN b 2 then e1 else e0
    if e = 255 then .nan false else .fin (bitN b 3) (b % 4) ((e : Int) - 128)

/-- `lim(e)` of R44, as a value. -/
def bxLim (eight : Bool) (e : Nat) : Num := if eight then .fin false 127 ((e : Int) - 133) else .fin false 7 ((e : Int) - 129)

/-- Exponent of the step `q(e)`. -/
def bxQ (eight : Bool) (e : Nat) : Int := if eight then (e : Int) - 132 else (e : Int) - 128

/-- Smallest `e` from `e` on, `fuel` of them, with `amax < lim(e)`; 254 if there is none. -/
def bxE0 (eight : Bool) (amax : Num) (e : Nat) : Nat → Nat
  | 0 => 254
  | n + 1 => if amax.lt (bxLim eight e) then e else bxE0 eight amax (e + 1) n

/-- The largest finite magnitude, +0 if there is none. -/
def numMax (xs : List Num) : Num :=
  xs.foldl (fun a x => if x.isNan || x.isInf then a else if a.lt x.abs then x.abs else a) .zero

/-- One element of R44: sign, selector, magnitude, flags. -/
def bxEncElem (eight hasnan : Bool) (e0 e1 : Nat) (x : Num) : Bool × Bool × Nat × FFlags :=
  let mmax := if eight then 63 else 3
  match x with
  | .nan sig => (false, true, 0, if sig then fNV else fNone)
  | .inf n => (n, false, mmax, fOF ||| fNX)
  | .fin n m e =>
    let sel := !hasnan && x.abs.lt (bxLim eight e1)
    let ee := if sel then e1 else e0
    let r := (roundTo .rne n m e (bxQ eight ee)).1
    let m' := if mmax < r then mmax else r
    let y : Num := .fin false m' (bxQ eight ee)
    (n, sel, m',
      (if mmax < r then fOF else fNone) ||| (if y.eq x.abs then fNone else fNX) |||
      (if m' = 0 ∧ m ≠ 0 then fUF else fNone))

/-- Pack pairs of 4-bit elements. -/
def packNibbles : List Nat → List Byte
  | a :: b :: r => BitVec.ofNat 8 (a + 16 * b) :: packNibbles r
  | [a] => [BitVec.ofNat 8 a]
  | [] => []

/-- A block of 32 values, already scaled, as BX bytes with its flags (R44). -/
def bxEncode (f : Fin 16) (split : Nat) (xs : List Num) : List Byte × FFlags :=
  let eight := decide (f = 14)
  let hasnan := xs.any Num.isNan
  let e0 := if xs.any Num.isInf then 254 else bxE0 eight (numMax xs) 0 255
  let e1 := if hasnan then 255 else e0 - split
  let es := xs.map (bxEncElem eight hasnan e0 e1)
  let codes := es.map fun t =>
    if eight then (if t.1 then 128 else 0) + (if t.2.1 then 64 else 0) + t.2.2.1
    else (if t.1 then 8 else 0) + (if t.2.1 then 4 else 0) + t.2.2.1
  (BitVec.ofNat 8 e0 :: BitVec.ofNat 8 e1 ::
      (if eight then codes.map (BitVec.ofNat 8) else packNibbles codes),
    es.foldl (fun a t => a ||| t.2.2.2) fNone)

end Sys2Proof.Machine
end

