-- ==== Sys2Proof/WellFormed.lean ====
section
/-! DEFINITION. Which instruction terms a word can name: the range checks of Table 4.1 row 6 that the
operand types of `Instr` do not already rule out (spec/04_instruction_words.md, R62-R69). -/

namespace Sys2Proof

/-- Types of the elementwise words F D I N L B E M (Table 4.5). -/
def VType.any (_ : VType) : Bool := true

/-- F D B (`VFMA`, `VFMS`, `VCMPUN`). -/
def VType.isFDB : VType → Bool
  | .F => true | .D => true | .B => true | _ => false

/-- F D I L B E M (`VABS`, `VNEG`): every type but N. -/
def VType.notN : VType → Bool
  | .N => false | _ => true

/-- F D I N L (`VDIV`, the reductions). -/
def VType.isFDINL : VType → Bool
  | .F => true | .D => true | .I => true | .N => true | .L => true | _ => false

/-- I N L (`VREM`, logic and shifts). -/
def VType.isINL : VType → Bool
  | .I => true | .N => true | .L => true | _ => false

/-- F D (`VSQRT`). -/
def VType.isFD : VType → Bool
  | .F => true | .D => true | _ => false

/-- F (`VRCP` to `VTANH`). -/
def VType.isF : VType → Bool
  | .F => true | _ => false

/-- F D I N L B (the compares). -/
def VType.isCmp : VType → Bool
  | .E => false | .M => false | _ => true

/-- F I N (`VSCAN`). -/
def VType.isFIN : VType → Bool
  | .F => true | .I => true | .N => true | _ => false

/-- `q` and `acc` of a drain together are illegal (R174, R176). -/
def drainFnOk (f : BitVec 4) : Bool := !(f.getLsbD 2 && f.getLsbD 3)

/-- A wide lane move names an even lane (R121). -/
def laneOk (l : Fin 64) (w : Bool) : Bool := !w || l.val % 2 == 0

/-- An even register of a pair (R92, R96). -/
def evenReg (d : SReg) : Bool := d.val % 2 == 0

/-- The instruction is one that a word of the opcode map names. Events, and words whose operand types
already hold every range, are well formed as they stand. -/
def Instr.wf : Instr → Bool
  | .lq d _ _ => evenReg d
  | .sq v _ _ => evenReg v
  | .casq d _ b => evenReg d && evenReg b
  | .vfma _ _ _ t _ _ => t.isFDB
  | .vfms _ _ _ t _ _ => t.isFDB
  | .vabs _ _ t _ _ => t.notN
  | .vneg _ _ t _ _ => t.notN
  | .vdiv _ _ _ t _ _ => t.isFDINL
  | .vrem _ _ _ t _ _ => t.isINL
  | .vsqrt _ _ t _ _ => t.isFD
  | .vrcp _ _ t _ _ => t.isF
  | .vrsq _ _ t _ _ => t.isF
  | .vexp2 _ _ t _ _ => t.isF
  | .vlog2 _ _ t _ _ => t.isF
  | .vsin _ _ t _ _ => t.isF
  | .vcos _ _ t _ _ => t.isF
  | .vtanh _ _ t _ _ => t.isF
  | .vand _ _ _ t _ _ => t.isINL
  | .vor _ _ _ t _ _ => t.isINL
  | .vxor _ _ _ t _ _ => t.isINL
  | .vsll _ _ _ t _ _ => t.isINL
  | .vsrl _ _ _ t _ _ => t.isINL
  | .vsra _ _ _ t _ _ => t.isINL
  | .vcvt _ _ src t _ _ => src != t
  | .vcmpeq _ _ _ t _ => t.isCmp
  | .vcmplt _ _ _ t _ => t.isCmp
  | .vcmple _ _ _ t _ => t.isCmp
  | .vcmpun _ _ _ t _ => t.isFDB
  | .vredadd _ _ t _ _ => t.isFDINL
  | .vredmax _ _ t _ _ => t.isFDINL
  | .vredmin _ _ t _ _ => t.isFDINL
  | .vscan _ _ t _ _ => t.isFIN
  | .vins _ _ l w => laneOk l w
  | .vext _ _ l w => laneOk l w
  | .drain _ _ _ f => drainFnOk f
  | .drainm _ _ _ f => drainFnOk f
  | .rwfill _ _ k => k.val != 0
  | .rwfree _ _ k => k.val != 0
  | _ => true

end Sys2Proof
end

