-- ==== Sys2Proof/Decode.lean ====
section
/-! DEFINITION. The decoder of instruction words and micro-ops, and the encoder, both written from the
opcode map and the operand formats of spec/04_instruction_words.md (Tables 4.2 to 4.11) and from Table 8.8. -/

namespace Sys2Proof

/-- Why a word is no instruction, in the order of Table 4.1: check 4 (reason 0), check 5 (reason 1),
check 6 (reason 2), check 7 (reason 6). -/
inductive DecodeError where
  | unassigned | reserved | range | guard
  deriving DecidableEq, Repr

/-- The reason code of Table 4.1. -/
def DecodeError.reason : DecodeError → Fin 8
  | .unassigned => 0
  | .reserved => 1
  | .range => 2
  | .guard => 6

/-- Bits `lo + n - 1` down to `lo` of a word. -/
def fld (w lo n : Nat) : Nat := w / 2 ^ lo % 2 ^ n

/-- A field as a number below `2 ^ n`. -/
def fin (w lo n : Nat) : Fin (2 ^ n) := ⟨fld w lo n, Nat.mod_lt _ (Nat.two_pow_pos n)⟩

/-- An immediate field. -/
def imm (w lo n : Nat) : BitVec n := BitVec.ofNat n (fld w lo n)

/-- A one-bit field. -/
def flag (w lo : Nat) : Bool := fld w lo 1 == 1

/-- Check 5, then check 6, of Table 4.1. -/
def chk (reservedOk : Bool) (i : Option Instr) : Except DecodeError Instr :=
  if reservedOk then (match i with | some j => .ok j | none => .error .range) else .error .reserved

/-- A term that check 6 accepts: one that is well formed. -/
def wfd (i : Instr) : Option Instr := if i.wf then some i else none

/-- The guard field of a Q word (R63); none for 1_0000. -/
def guardOf (w : Nat) : Option Guard :=
  if h : fld w 18 4 = 0 then (if flag w 22 then none else some .always)
  else
    have hb : fld w 18 4 - 1 < 15 := by
      have : fld w 18 4 < 16 := Nat.mod_lt _ (by decide)
      omega
    if flag w 22 then some (.onFalse ⟨fld w 18 4 - 1, hb⟩) else some (.onTrue ⟨fld w 18 4 - 1, hb⟩)

/-- Checks 5, 6 and 7 of a Q word. -/
def chkQ (w : Nat) (reservedOk : Bool) (i : Guard → Option Instr) : Except DecodeError Instr :=
  match guardOf w with
  | some g => chk reservedOk (i g)
  | none =>
    match chk reservedOk (i .always) with
    | .ok _ => .error .guard
    | .error e => .error e

/-- Type codes (Table 4.3). -/
def vtypeOf : Nat → VType
  | 0 => .F | 1 => .D | 2 => .I | 3 => .N | 4 => .L | 5 => .B | 6 => .E | _ => .M

def VType.code : VType → Nat
  | .F => 0 | .D => 1 | .I => 2 | .N => 3 | .L => 4 | .B => 5 | .E => 6 | .M => 7

/-- The numbers of Table 2.3. -/
def sysRegOf : Nat → Option SysReg
  | 0x00 => some .pc | 0x01 => some .role | 0x02 => some .round | 0x03 => some .fflags
  | 0x04 => some .satfp | 0x05 => some .epc | 0x06 => some .ecause | 0x07 => some .eaddr
  | 0x08 => some .ebr | 0x09 => some .agebound | 0x0A => some .leaselen | 0x0B => some .time
  | 0x0C => some .step | 0x0D => some .wdog | 0x0E => some .vbusy | 0x0F => some .dmode
  | 0x10 => some .mode | 0x11 => some .tinfo | _ => none

def SysReg.num : SysReg → Nat
  | .pc => 0x00 | .role => 0x01 | .round => 0x02 | .fflags => 0x03 | .satfp => 0x04 | .epc => 0x05
  | .ecause => 0x06 | .eaddr => 0x07 | .ebr => 0x08 | .agebound => 0x09 | .leaselen => 0x0A
  | .time => 0x0B | .step => 0x0C | .wdog => 0x0D | .vbusy => 0x0E | .dmode => 0x0F | .mode => 0x10
  | .tinfo => 0x11

def amoOf : Nat → Option AmoOp
  | 0 => some .swap | 1 => some .add | 2 => some .and | 3 => some .or | 4 => some .xor
  | 5 => some .min | 6 => some .max | 7 => some .minu | 8 => some .maxu | _ => none

def AmoOp.code : AmoOp → Nat
  | .swap => 0 | .add => 1 | .and => 2 | .or => 3 | .xor => 4 | .min => 5 | .max => 6
  | .minu => 7 | .maxu => 8

def scopeOf : Nat → Option Scope
  | 0 => some .stream | 1 => some .core | 2 => some .cluster | 3 => some .die | 4 => some .module
  | 5 => some .fabric | _ => none

def Scope.code : Scope → Nat
  | .stream => 0 | .core => 1 | .cluster => 2 | .die => 3 | .module => 4 | .fabric => 5

def pathOf : Nat → Option Path
  | 0 => some .scratch | 1 => some .l1 | 2 => some .l2 | 3 => some .hbm | 4 => some .fabric | _ => none

def Path.code : Path → Nat
  | .scratch => 0 | .l1 => 1 | .l2 => 2 | .hbm => 3 | .fabric => 4

def forkStreamOf : Nat → Option ForkStream
  | 2 => some .a | 3 => some .l | 4 => some .s | 5 => some .n | _ => none

def ForkStream.code : ForkStream → Nat
  | .a => 2 | .l => 3 | .s => 4 | .n => 5

def forkRoleOf : Nat → ForkRole
  | 0 => .loader | 1 => .arith | 2 => .epilogue | _ => .default

def ForkRole.code : ForkRole → Nat
  | .loader => 0 | .arith => 1 | .epilogue => 2 | .default => 3

def dmodeOf : Nat → Option DMode
  | 0 => some .primal | 1 => some .record | 2 => some .reverse | _ => none

def DMode.code : DMode → Nat
  | .primal => 0 | .record => 1 | .reverse => 2

def pushOpOf : Nat → Option PushOp
  | 0 => some .add | 1 => some .max | 2 => some .min | 3 => some .add64 | _ => none

def PushOp.code : PushOp → Nat
  | .add => 0 | .max => 1 | .min => 2 | .add64 => 3

/-- The guard slot named in a field whose value 0 is out of range (R68, R178). -/
def gslotOf (n : Nat) : Option GSlot :=
  if h : 1 ≤ n ∧ n ≤ 15 then some ⟨n - 1, by omega⟩ else none

/-- Engine 0 (C), Table 4.4. -/
def decodeC (op w : Nat) : Except DecodeError Instr :=
  match op with
  | 0x01 => chk (fld w 0 23 == 0) (some .nop)
  | 0x02 => chk (fld w 0 5 == 0) (some (.add (fin w 17 6) (fin w 11 6) (fin w 5 6)))
  | 0x03 => chk (fld w 0 5 == 0) (some (.sub (fin w 17 6) (fin w 11 6) (fin w 5 6)))
  | 0x04 => chk (fld w 0 5 == 0) (some (.and (fin w 17 6) (fin w 11 6) (fin w 5 6)))
  | 0x05 => chk (fld w 0 5 == 0) (some (.or (fin w 17 6) (fin w 11 6) (fin w 5 6)))
  | 0x06 => chk (fld w 0 5 == 0) (some (.xor (fin w 17 6) (fin w 11 6) (fin w 5 6)))
  | 0x07 => chk (fld w 0 5 == 0) (some (.sll (fin w 17 6) (fin w 11 6) (fin w 5 6)))
  | 0x08 => chk (fld w 0 5 == 0) (some (.srl (fin w 17 6) (fin w 11 6) (fin w 5 6)))
  | 0x09 => chk (fld w 0 5 == 0) (some (.sra (fin w 17 6) (fin w 11 6) (fin w 5 6)))
  | 0x0A => chk (fld w 0 5 == 0) (some (.slt (fin w 17 6) (fin w 11 6) (fin w 5 6)))
  | 0x0B => chk (fld w 0 5 == 0) (some (.sltu (fin w 17 6) (fin w 11 6) (fin w 5 6)))
  | 0x0C => chk (fld w 1 4 == 0) (some (if flag w 0 then .minu (fin w 17 6) (fin w 11 6) (fin w 5 6) else .min (fin w 17 6) (fin w 11 6) (fin w 5 6)))
  | 0x0D => chk (fld w 1 4 == 0) (some (if flag w 0 then .maxu (fin w 17 6) (fin w 11 6) (fin w 5 6) else .max (fin w 17 6) (fin w 11 6) (fin w 5 6)))
  | 0x0E => chk true (match fld w 0 5 with
      | 0 => some (.mul (fin w 17 6) (fin w 11 6) (fin w 5 6)) | 1 => some (.mulh (fin w 17 6) (fin w 11 6) (fin w 5 6)) | 2 => some (.mulhu (fin w 17 6) (fin w 11 6) (fin w 5 6)) | _ => none)
  | 0x0F => chk (fld w 1 4 == 0) (some (if flag w 0 then .rems (fin w 17 6) (fin w 11 6) (fin w 5 6) else .divs (fin w 17 6) (fin w 11 6) (fin w 5 6)))
  | 0x10 => chk (fld w 1 4 == 0) (some (if flag w 0 then .remn (fin w 17 6) (fin w 11 6) (fin w 5 6) else .divn (fin w 17 6) (fin w 11 6) (fin w 5 6)))
  | 0x11 => chk true (some (.addi (fin w 17 6) (fin w 11 6) (imm w 0 11)))
  | 0x12 => chk true (some (.andi (fin w 17 6) (fin w 11 6) (imm w 0 11)))
  | 0x13 => chk true (some (.ori (fin w 17 6) (fin w 11 6) (imm w 0 11)))
  | 0x14 => chk true (some (.xori (fin w 17 6) (fin w 11 6) (imm w 0 11)))
  | 0x15 => chk true (if fld w 6 5 == 0 then some (.slli (fin w 17 6) (fin w 11 6) (fin w 0 6)) else none)
  | 0x16 => chk true (if fld w 6 5 == 0 then some (.srli (fin w 17 6) (fin w 11 6) (fin w 0 6)) else none)
  | 0x17 => chk true (if fld w 6 5 == 0 then some (.srai (fin w 17 6) (fin w 11 6) (fin w 0 6)) else none)
  | 0x18 => chk true (some (.slti (fin w 17 6) (fin w 11 6) (imm w 0 11)))
  | 0x19 => chk true (some (.sltiu (fin w 17 6) (fin w 11 6) (imm w 0 11)))
  | 0x1A => chk true (some (.li (fin w 17 6) (imm w 0 17)))
  | 0x1B => chk true (some (.lsi (fin w 17 6) (imm w 0 17)))
  | 0x1C => chk (fld w 20 3 == 0) (match fld w 0 5 with
      | 0 => some (.cmpeq (fin w 17 3) (fin w 11 6) (fin w 5 6))
      | 1 => some (.cmpne (fin w 17 3) (fin w 11 6) (fin w 5 6))
      | 2 => some (.cmplt (fin w 17 3) (fin w 11 6) (fin w 5 6))
      | 3 => some (.cmpltu (fin w 17 3) (fin w 11 6) (fin w 5 6))
      | 4 => some (.cmpge (fin w 17 3) (fin w 11 6) (fin w 5 6))
      | 5 => some (.cmpgeu (fin w 17 3) (fin w 11 6) (fin w 5 6))
      | _ => none)
  | 0x1D => chk (fld w 11 6 == 0) ((sysRegOf (fld w 0 11)).map (.srr (fin w 17 6)))
  | 0x1E => chk (fld w 17 6 == 0) ((sysRegOf (fld w 0 11)).map (.srw (fin w 11 6)))
  | 0x1F => chk (fld w 20 3 == 0 && fld w 14 3 == 0 && fld w 8 3 == 0) (match fld w 0 5 with
      | 0 => some (.cand (fin w 17 3) (fin w 11 3) (fin w 5 3))
      | 1 => some (.cor (fin w 17 3) (fin w 11 3) (fin w 5 3))
      | 2 => some (.cxor (fin w 17 3) (fin w 11 3) (fin w 5 3))
      | 3 => some (.candn (fin w 17 3) (fin w 11 3) (fin w 5 3))
      | _ => none)
  | 0x23 => chk (fld w 20 3 == 0) (some (.bpt (fin w 17 3) (imm w 0 17)))
  | 0x24 => chk (fld w 20 3 == 0) (some (.bptr (fin w 17 3) (fin w 11 6) (imm w 0 11)))
  | 0x25 => chk (fld w 20 3 == 0 && fld w 0 5 == 0) (some (.bjt (fin w 17 3) (fin w 11 6) (fin w 5 6)))
  | 0x26 => chk (fld w 17 6 == 0 && fld w 14 3 == 0 && fld w 8 3 == 0 && (fld w 0 5 != 2 || fld w 5 3 == 0))
      (match fld w 0 5 with
      | 0 => some (.btr (fin w 11 3) (fin w 5 3)) | 1 => some (.btrFalse (fin w 11 3) (fin w 5 3)) | 2 => some (.btrAlways (fin w 11 3)) | _ => none)
  | 0x27 => chk (fld w 14 3 == 0 && fld w 8 3 == 0 && (fld w 0 5 != 2 || fld w 5 3 == 0))
      (match fld w 0 5 with
      | 0 => some (.btrl (fin w 17 6) (fin w 11 3) (fin w 5 3)) | 1 => some (.btrlFalse (fin w 17 6) (fin w 11 3) (fin w 5 3)) | 2 => some (.btrlAlways (fin w 17 6) (fin w 11 3)) | _ => none)
  | 0x28 => chk (fld w 20 3 == 0 && fld w 15 2 == 0 && fld w 0 11 == 0) (some (.vany (fin w 17 3) (fin w 11 4)))
  | 0x29 => chk (fld w 20 3 == 0 && fld w 15 2 == 0 && fld w 0 11 == 0) (some (.vall (fin w 17 3) (fin w 11 4)))
  | 0x2A => chk true (some (.lb (fin w 17 6) (fin w 11 6) (imm w 0 11)))
  | 0x2B => chk true (some (.lbu (fin w 17 6) (fin w 11 6) (imm w 0 11)))
  | 0x2C => chk true (some (.lh (fin w 17 6) (fin w 11 6) (imm w 0 11)))
  | 0x2D => chk true (some (.lhu (fin w 17 6) (fin w 11 6) (imm w 0 11)))
  | 0x2E => chk true (some (.lw (fin w 17 6) (fin w 11 6) (imm w 0 11)))
  | 0x2F => chk true (some (.lwu (fin w 17 6) (fin w 11 6) (imm w 0 11)))
  | 0x30 => chk true (some (.ld (fin w 17 6) (fin w 11 6) (imm w 0 11)))
  | 0x31 => chk true (some (.sb (fin w 17 6) (fin w 11 6) (imm w 0 11)))
  | 0x32 => chk true (some (.sh (fin w 17 6) (fin w 11 6) (imm w 0 11)))
  | 0x33 => chk true (some (.sw (fin w 17 6) (fin w 11 6) (imm w 0 11)))
  | 0x34 => chk true (some (.sd (fin w 17 6) (fin w 11 6) (imm w 0 11)))
  | 0x35 => chk true (wfd (.lq (fin w 17 6) (fin w 11 6) (imm w 0 11)))
  | 0x36 => chk true (wfd (.sq (fin w 17 6) (fin w 11 6) (imm w 0 11)))
  | 0x37 => chk (fld w 4 1 == 0) ((amoOf (fld w 0 4)).map (.amow (fin w 17 6) (fin w 11 6) (fin w 5 6)))
  | 0x38 => chk (fld w 4 1 == 0) ((amoOf (fld w 0 4)).map (.amod (fin w 17 6) (fin w 11 6) (fin w 5 6)))
  | 0x39 => chk (fld w 0 5 == 0) (some (.casw (fin w 17 6) (fin w 11 6) (fin w 5 6)))
  | 0x3A => chk (fld w 0 5 == 0) (some (.casd (fin w 17 6) (fin w 11 6) (fin w 5 6)))
  | 0x3B => chk (fld w 0 5 == 0) (wfd (.casq (fin w 17 6) (fin w 11 6) (fin w 5 6)))
  | 0x3C => chk (fld w 17 6 == 0 && fld w 7 10 == 0) ((scopeOf (fld w 0 3)).map (.fence (imm w 3 4)))
  | 0x3D => chk (fld w 17 6 == 0 && fld w 0 11 == 0) (some (.waitt (fin w 11 6)))
  | 0x3E => chk (fld w 0 17 == 0) (some (.rdtime (fin w 17 6)))
  | 0x3F => chk (fld w 17 6 == 0 && fld w 16 1 == 0) (some (.trap (imm w 0 16)))
  | _ => .error .unassigned

/-- Engine 1 (V), Table 4.5. -/
def decodeV (op w : Nat) : Except DecodeError Instr :=
  match op with
  | 0x01 => chk true (wfd (.vadd (fin w 18 5) (fin w 13 5) (fin w 8 5) (vtypeOf (fld w 5 3)) (fin w 1 4) (flag w 0)))
  | 0x02 => chk true (wfd (.vsub (fin w 18 5) (fin w 13 5) (fin w 8 5) (vtypeOf (fld w 5 3)) (fin w 1 4) (flag w 0)))
  | 0x03 => chk true (wfd (.vmul (fin w 18 5) (fin w 13 5) (fin w 8 5) (vtypeOf (fld w 5 3)) (fin w 1 4) (flag w 0)))
  | 0x04 => chk true (wfd (.vmin (fin w 18 5) (fin w 13 5) (fin w 8 5) (vtypeOf (fld w 5 3)) (fin w 1 4) (flag w 0)))
  | 0x05 => chk true (wfd (.vmax (fin w 18 5) (fin w 13 5) (fin w 8 5) (vtypeOf (fld w 5 3)) (fin w 1 4) (flag w 0)))
  | 0x06 => chk true (wfd (.vfma (fin w 18 5) (fin w 13 5) (fin w 8 5) (vtypeOf (fld w 5 3)) (fin w 1 4) (flag w 0)))
  | 0x07 => chk true (wfd (.vfms (fin w 18 5) (fin w 13 5) (fin w 8 5) (vtypeOf (fld w 5 3)) (fin w 1 4) (flag w 0)))
  | 0x08 => chk (fld w 8 5 == 0) (wfd (.vabs (fin w 18 5) (fin w 13 5) (vtypeOf (fld w 5 3)) (fin w 1 4) (flag w 0)))
  | 0x09 => chk (fld w 8 5 == 0) (wfd (.vneg (fin w 18 5) (fin w 13 5) (vtypeOf (fld w 5 3)) (fin w 1 4) (flag w 0)))
  | 0x0A => chk true (wfd (.vdiv (fin w 18 5) (fin w 13 5) (fin w 8 5) (vtypeOf (fld w 5 3)) (fin w 1 4) (flag w 0)))
  | 0x0B => chk true (wfd (.vrem (fin w 18 5) (fin w 13 5) (fin w 8 5) (vtypeOf (fld w 5 3)) (fin w 1 4) (flag w 0)))
  | 0x0C => chk (fld w 8 5 == 0) (wfd (.vsqrt (fin w 18 5) (fin w 13 5) (vtypeOf (fld w 5 3)) (fin w 1 4) (flag w 0)))
  | 0x0D => chk (fld w 8 5 == 0) (wfd (.vrcp (fin w 18 5) (fin w 13 5) (vtypeOf (fld w 5 3)) (fin w 1 4) (flag w 0)))
  | 0x0E => chk (fld w 8 5 == 0) (wfd (.vrsq (fin w 18 5) (fin w 13 5) (vtypeOf (fld w 5 3)) (fin w 1 4) (flag w 0)))
  | 0x0F => chk (fld w 8 5 == 0) (wfd (.vexp2 (fin w 18 5) (fin w 13 5) (vtypeOf (fld w 5 3)) (fin w 1 4) (flag w 0)))
  | 0x10 => chk (fld w 8 5 == 0) (wfd (.vlog2 (fin w 18 5) (fin w 13 5) (vtypeOf (fld w 5 3)) (fin w 1 4) (flag w 0)))
  | 0x11 => chk (fld w 8 5 == 0) (wfd (.vsin (fin w 18 5) (fin w 13 5) (vtypeOf (fld w 5 3)) (fin w 1 4) (flag w 0)))
  | 0x12 => chk (fld w 8 5 == 0) (wfd (.vcos (fin w 18 5) (fin w 13 5) (vtypeOf (fld w 5 3)) (fin w 1 4) (flag w 0)))
  | 0x13 => chk (fld w 8 5 == 0) (wfd (.vtanh (fin w 18 5) (fin w 13 5) (vtypeOf (fld w 5 3)) (fin w 1 4) (flag w 0)))
  | 0x14 => chk true (wfd (.vand (fin w 18 5) (fin w 13 5) (fin w 8 5) (vtypeOf (fld w 5 3)) (fin w 1 4) (flag w 0)))
  | 0x15 => chk true (wfd (.vor (fin w 18 5) (fin w 13 5) (fin w 8 5) (vtypeOf (fld w 5 3)) (fin w 1 4) (flag w 0)))
  | 0x16 => chk true (wfd (.vxor (fin w 18 5) (fin w 13 5) (fin w 8 5) (vtypeOf (fld w 5 3)) (fin w 1 4) (flag w 0)))
  | 0x17 => chk true (wfd (.vsll (fin w 18 5) (fin w 13 5) (fin w 8 5) (vtypeOf (fld w 5 3)) (fin w 1 4) (flag w 0)))
  | 0x18 => chk true (wfd (.vsrl (fin w 18 5) (fin w 13 5) (fin w 8 5) (vtypeOf (fld w 5 3)) (fin w 1 4) (flag w 0)))
  | 0x19 => chk true (wfd (.vsra (fin w 18 5) (fin w 13 5) (fin w 8 5) (vtypeOf (fld w 5 3)) (fin w 1 4) (flag w 0)))
  | 0x1A => chk (fld w 8 2 == 0) (wfd (.vcvt (fin w 18 5) (fin w 13 5) (vtypeOf (fld w 10 3)) (vtypeOf (fld w 5 3)) (fin w 1 4) (flag w 0)))
  | 0x1B => chk (fld w 22 1 == 0 && fld w 0 1 == 0) (wfd (.vcmpeq (fin w 18 4) (fin w 13 5) (fin w 8 5) (vtypeOf (fld w 5 3)) (fin w 1 4)))
  | 0x1C => chk (fld w 22 1 == 0 && fld w 0 1 == 0) (wfd (.vcmplt (fin w 18 4) (fin w 13 5) (fin w 8 5) (vtypeOf (fld w 5 3)) (fin w 1 4)))
  | 0x1D => chk (fld w 22 1 == 0 && fld w 0 1 == 0) (wfd (.vcmple (fin w 18 4) (fin w 13 5) (fin w 8 5) (vtypeOf (fld w 5 3)) (fin w 1 4)))
  | 0x1E => chk (fld w 22 1 == 0 && fld w 0 1 == 0) (wfd (.vcmpun (fin w 18 4) (fin w 13 5) (fin w 8 5) (vtypeOf (fld w 5 3)) (fin w 1 4)))
  | 0x1F => chk (fld w 0 1 == 0) (wfd (.vsel (fin w 18 5) (fin w 13 5) (fin w 8 5) (vtypeOf (fld w 5 3)) (fin w 1 4)))
  | 0x20 => chk (fld w 22 1 == 0 && fld w 17 1 == 0 && fld w 12 1 == 0 && fld w 0 8 == 0)
      (some (.vpand (fin w 18 4) (fin w 13 4) (fin w 8 4)))
  | 0x21 => chk (fld w 22 1 == 0 && fld w 17 1 == 0 && fld w 12 1 == 0 && fld w 0 8 == 0)
      (some (.vpor (fin w 18 4) (fin w 13 4) (fin w 8 4)))
  | 0x22 => chk (fld w 22 1 == 0 && fld w 17 1 == 0 && fld w 12 1 == 0 && fld w 0 8 == 0)
      (some (.vpxor (fin w 18 4) (fin w 13 4) (fin w 8 4)))
  | 0x23 => chk (fld w 22 1 == 0 && fld w 17 1 == 0 && fld w 0 13 == 0) (some (.vpnot (fin w 18 4) (fin w 13 4)))
  | 0x24 => chk true (wfd (.vperm (fin w 18 5) (fin w 13 5) (fin w 8 5) (vtypeOf (fld w 5 3)) (fin w 1 4) (flag w 0)))
  | 0x25 => chk (fld w 8 5 == 0) (wfd (.vredadd (fin w 18 5) (fin w 13 5) (vtypeOf (fld w 5 3)) (fin w 1 4) (flag w 0)))
  | 0x26 => chk (fld w 8 5 == 0) (wfd (.vredmax (fin w 18 5) (fin w 13 5) (vtypeOf (fld w 5 3)) (fin w 1 4) (flag w 0)))
  | 0x27 => chk (fld w 8 5 == 0) (wfd (.vredmin (fin w 18 5) (fin w 13 5) (vtypeOf (fld w 5 3)) (fin w 1 4) (flag w 0)))
  | 0x28 => chk (fld w 8 5 == 0) (wfd (.vscan (fin w 18 5) (fin w 13 5) (vtypeOf (fld w 5 3)) (fin w 1 4) (flag w 0)))
  | 0x29 => chk (fld w 6 6 == 0 && fld w 0 5 == 0) (some (.vsplat (fin w 18 5) (fin w 12 6) (flag w 5)))
  | 0x2A => chk (fld w 0 5 == 0) (wfd (.vins (fin w 18 5) (fin w 12 6) (fin w 6 6) (flag w 5)))
  | 0x2B => chk (fld w 0 5 == 0) (wfd (.vext (fin w 18 5) (fin w 12 6) (fin w 6 6) (flag w 5)))
  | 0x2C => chk true (some (.vldh (fin w 18 5) (fin w 12 6) (fin w 4 8) (fin w 1 3) (flag w 0)))
  | 0x2D => chk true (some (.vsth (fin w 18 5) (fin w 12 6) (fin w 4 8) (fin w 1 3) (flag w 0)))
  | 0x2E => chk (fld w 0 1 == 0) (some (.vldm (fin w 18 5) (fin w 12 6) (imm w 4 8) (fin w 1 3)))
  | 0x2F => chk (fld w 0 1 == 0) (some (.vstm (fin w 18 5) (fin w 12 6) (imm w 4 8) (fin w 1 3)))
  | 0x30 => chk (fld w 8 5 == 0) (wfd (.vmov (fin w 18 5) (fin w 13 5) (vtypeOf (fld w 5 3)) (fin w 1 4) (flag w 0)))
  | 0x31 => chk (fld w 17 6 == 0 && fld w 0 5 == 0) (some (.vxcGather (fin w 11 6) (fin w 5 6)))
  | 0x32 => chk (fld w 0 23 == 0) (some .vfence)
  | _ => .error .unassigned

/-- Engine 2 (A), Table 4.7. -/
def decodeA (op w : Nat) : Except DecodeError Instr :=
  match op with
  | 0x01 => chkQ w (fld w 0 18 == 0) fun g => some (.lacq g)
  | 0x02 => chkQ w (fld w 0 18 == 0) fun g => some (.lrel g)
  | 0x03 => chkQ w (fld w 1 3 == 0) fun g => some (.bload g (fin w 10 8) (fin w 4 6) (flag w 0))
  | 0x04 => chkQ w (fld w 2 2 == 0) fun g => some (.mma g (fin w 10 8) (fin w 4 6) (flag w 1) (flag w 0))
  | 0x05 => chkQ w true fun g => wfd (.drain g (fin w 10 8) (fin w 4 6) (imm w 0 4))
  | 0x06 => chkQ w (fld w 0 4 == 0) fun g => some (.dbias g (fin w 10 8) (fin w 4 6))
  | 0x07 => chkQ w (fld w 0 4 == 0) fun g => some (.dact g (fin w 10 8) (fin w 4 6))
  | 0x08 => chkQ w (fld w 10 8 == 0 && fld w 0 4 == 0) fun g => some (.dtt g (fin w 4 6))
  | 0x09 => chkQ w (fld w 0 4 == 0) fun g => some (.dclamp g (fin w 10 8) (fin w 4 6))
  | 0x0A => chkQ w true fun g => wfd (.drainm g (fin w 10 8) (fin w 4 6) (imm w 0 4))
  | 0x0B => chkQ w (fld w 10 3 == 0) fun g => some (.stats g (fin w 13 5) (fin w 4 6) (imm w 0 4))
  | 0x0C => chkQ w (fld w 10 3 == 0 && fld w 7 3 == 0) fun g => some (.statc g (fin w 13 5) (fin w 4 3) (imm w 0 4))
  | 0x0D => chkQ w (fld w 10 3 == 0 && fld w 8 2 == 0) fun g =>
      (gslotOf (fld w 4 4)).map fun n => .statg g (fin w 13 5) n (imm w 0 4)
  | 0x0E => chkQ w true fun g => some (.fft g (fin w 10 8) (fin w 4 6) (fin w 0 4))
  | 0x0F => chkQ w true fun g => some (.ifft g (fin w 10 8) (fin w 4 6) (fin w 0 4))
  | 0x10 => chkQ w true fun g => some (.shtf g (fin w 10 8) (fin w 4 6) (fin w 0 4))
  | 0x11 => chkQ w true fun g => some (.shti g (fin w 10 8) (fin w 4 6) (fin w 0 4))
  | 0x12 => chkQ w true fun g => some (.plan g (fin w 10 8) (fin w 4 6) (fin w 0 4))
  | 0x13 => chkQ w (fld w 2 2 == 0) fun g => if flag w 0 then none else some (.mma3 g (fin w 10 8) (fin w 4 6) (flag w 1))
  | 0x14 => chkQ w (fld w 0 4 == 0) fun g => some (.layerf g (fin w 10 8) (fin w 4 6))
  | 0x15 => chkQ w (fld w 0 4 == 0) fun g => some (.layerd g (fin w 10 8) (fin w 4 6))
  | 0x16 => chkQ w (fld w 0 4 == 0) fun g => some (.layerw g (fin w 10 8) (fin w 4 6))
  | 0x17 => chkQ w (fld w 0 4 == 0) fun g => some (.layeru g (fin w 10 8) (fin w 4 6))
  | _ => .error .unassigned

/-- Engine 3 (L), Table 4.6. -/
def decodeL (op w : Nat) : Except DecodeError Instr :=
  match op with
  | 0x01 => chkQ w (fld w 0 4 == 0) fun g => some (.copy g (fin w 10 8) (fin w 4 6))
  | 0x02 => chkQ w (fld w 0 4 == 0) fun g => some (.chain g (fin w 10 8) (fin w 4 6))
  | 0x04 => chkQ w (fld w 0 4 == 0) fun g => some (.retn g (fin w 10 8) (fin w 4 6))
  | 0x03 => chkQ w (fld w 2 2 == 0) fun g => if fld w 0 2 ≤ 1 then some (.pref g (fin w 10 8) (fin w 4 6) (flag w 0)) else none
  | 0x05 => chkQ w (fld w 1 3 == 0) fun g => some (.invr g (fin w 10 8) (fin w 4 6) (flag w 0))
  | _ => .error .unassigned

/-- Engine 4 (S), Table 4.6. -/
def decodeS (op w : Nat) : Except DecodeError Instr :=
  match op with
  | 0x01 => chkQ w (fld w 0 4 == 0) fun g => some (.copyo g (fin w 10 8) (fin w 4 6))
  | 0x02 => chkQ w (fld w 0 4 == 0) fun g => some (.chaino g (fin w 10 8) (fin w 4 6))
  | 0x03 => chkQ w (fld w 0 4 == 0) fun g => some (.copya g (fin w 10 8) (fin w 4 6))
  | 0x04 => chkQ w (fld w 0 4 == 0) fun g => some (.chaina g (fin w 10 8) (fin w 4 6))
  | 0x05 => chkQ w (fld w 1 3 == 0) fun g => some (.offl g (fin w 10 8) (fin w 4 6) (flag w 0))
  | 0x06 => chkQ w (fld w 1 3 == 0) fun g => some (.wbr g (fin w 10 8) (fin w 4 6) (flag w 0))
  | _ => .error .unassigned

/-- Engine 5 (N), Table 4.9. -/
def decodeNq (op w : Nat) : Except DecodeError Instr :=
  match op with
  | 0x01 => chkQ w true fun g => some (.zpop g (fin w 10 8) (fin w 4 6) (fin w 0 4))
  | 0x02 => chkQ w true fun g => some (.zpush g (fin w 10 8) (fin w 4 6) (fin w 0 4))
  | 0x03 => chkQ w true fun g => some (.zopen g (fin w 10 8) (fin w 4 6) (fin w 0 4))
  | 0x04 => chkQ w (fld w 4 14 == 0) fun g => some (.zclose g (fin w 0 4))
  | 0x05 => chkQ w (fld w 0 4 == 0) fun g => some (.tune g (fin w 10 8) (fin w 4 6))
  | 0x06 => chkQ w (fld w 0 4 == 0) fun g => some (.trav g (fin w 10 8) (fin w 4 6))
  | 0x08 => chkQ w (fld w 0 4 == 0) fun g => some (.ncomb g (fin w 10 8) (fin w 4 6))
  | 0x07 => chkQ w true fun g => (pushOpOf (fld w 0 4)).map (.pushr g (fin w 10 8) (fin w 4 6))
  | _ => .error .unassigned

/-- Engine 6 (Y), Table 4.10. -/
def decodeY (op w : Nat) : Except DecodeError Instr :=
  match op with
  | 0x01 => chk true (some (.pinit (fin w 15 8) (fin w 6 9) (fin w 0 6)))
  | 0x02 => chk true (some (.pinitr (fin w 15 8) (fin w 6 9) (fin w 0 6)))
  | 0x06 => chk true (some (.rinit (fin w 15 8) (fin w 6 9) (fin w 0 6)))
  | 0x07 => chk true (some (.rclaim (fin w 15 8) (fin w 6 9) (fin w 0 6)))
  | 0x08 => chk true (some (.rcommit (fin w 15 8) (fin w 6 9) (fin w 0 6)))
  | 0x0B => chk true (some (.rfree (fin w 15 8) (fin w 6 9) (fin w 0 6)))
  | 0x03 => chk (fld w 0 6 == 0) (some (.parrive (fin w 15 8) (fin w 6 9)))
  | 0x04 => chk (fld w 0 6 == 0) (some (.pdrop (fin w 15 8) (fin w 6 9)))
  | 0x05 => chk (fld w 1 5 == 0) (some (.pwait (fin w 15 8) (fin w 6 9) (flag w 0)))
  | 0x09 => chk true (wfd (.rwfill (fin w 15 8) (fin w 6 9) (fin w 0 6)))
  | 0x0A => chk true (wfd (.rwfree (fin w 15 8) (fin w 6 9) (fin w 0 6)))
  | 0x0C => chk (fld w 0 20 == 0) (some (.barr (fin w 20 3)))
  | 0x0D => chk (fld w 0 20 == 0) (some (.bara (fin w 20 3)))
  | 0x0E => chk (fld w 0 20 == 0) (some (.bwait (fin w 20 3)))
  | 0x0F => chk (fld w 0 20 == 0) (some (.bdrop (fin w 20 3)))
  | 0x10 => chk (fld w 0 16 == 0) ((gslotOf (fld w 19 4)).map fun g => .gset g (fin w 16 3))
  | 0x11 => chk (fld w 16 3 == 0 && fld w 0 15 == 0) ((gslotOf (fld w 19 4)).map fun g => .gseti g (flag w 15))
  | 0x12 => chk (fld w 0 19 == 0) ((gslotOf (fld w 19 4)).map .gclr)
  | 0x14 => chk true ((forkStreamOf (fld w 20 3)).map fun x => .fork x (forkRoleOf (fld w 18 2)) (imm w 0 18))
  | 0x15 => chk (fld w 1 22 == 0) (some (if flag w 0 then .rdvFin else .rdv))
  | 0x16 => chk (fld w 0 20 == 0) ((pathOf (fld w 20 3)).map .waitp)
  | 0x17 => chk (fld w 0 9 == 0) (some (.halloc (fin w 15 8) (fin w 9 6)))
  | 0x18 => chk (fld w 0 15 == 0) (some (.hfree (fin w 15 8)))
  | 0x19 => chk (fld w 0 9 == 0) (some (.hfmt (fin w 15 8) (fin w 9 6)))
  | 0x20 => chk (fld w 0 11 == 0) (some (.dreg (fin w 17 6) (fin w 11 6)))
  | 0x21 => chk (fld w 0 17 == 0) (some (.dunreg (fin w 17 6)))
  | 0x22 => chk (fld w 2 21 == 0) ((dmodeOf (fld w 0 2)).map .dmode)
  | 0x23 => chk (fld w 0 17 == 0) (some (.tread (fin w 17 6)))
  | 0x24 => chk (fld w 0 17 == 0) (some (.tlim (fin w 17 6)))
  | 0x25 => chk (fld w 0 17 == 0) (some (.tset (fin w 17 6)))
  | 0x29 => chk (fld w 0 17 == 0) (some (.sstep (fin w 17 6)))
  | 0x2A => chk (fld w 0 17 == 0) (some (.sskip (fin w 17 6)))
  | 0x28 => chk (fld w 0 11 == 0) (some (.sread (fin w 17 6) (fin w 11 6)))
  | _ => .error .unassigned

/-- Engine 7 (K), Table 4.11. -/
def decodeK (op w : Nat) : Except DecodeError Instr :=
  match op with
  | 0x01 => chk (fld w 0 23 == 0) (some .eret)
  | 0x02 => chk true ((sysRegOf (fld w 0 11)).map (.csrr (fin w 17 6) (fin w 11 6)))
  | 0x03 => chk true ((sysRegOf (fld w 0 11)).map (.csrw (fin w 17 6) (fin w 11 6)))
  | 0x04 => chk (fld w 17 6 == 0) (match fld w 0 11 with
      | 0 => some (.tlbiPage (fin w 11 6)) | 1 => some (.tlbiKey (fin w 11 6)) | 2 => some (.tlbiAll (fin w 11 6)) | _ => none)
  | 0x05 => chk (fld w 17 6 == 0 && fld w 0 11 == 0) (some (.keyset (fin w 11 6)))
  | 0x06 => chk (fld w 17 6 == 0 && fld w 0 11 == 0) (some (.gang (fin w 11 6)))
  | 0x07 => chk (fld w 17 6 == 0 && fld w 0 11 == 0) (some (.gres (fin w 11 6)))
  | 0x08 => chk (fld w 17 6 == 0) (match fld w 0 11 with
      | 0 => some (.graphLoad (fin w 11 6)) | 1 => some (.graphStart (fin w 11 6)) | 2 => some (.graphStop (fin w 11 6))
      | 3 => some (.graphUnload (fin w 11 6)) | _ => none)
  | 0x09 => chk (fld w 6 5 == 0) (some (.mbx (fin w 17 6) (fin w 11 6) (fin w 0 6)))
  | 0x0A => chk (fld w 17 6 == 0 && fld w 8 3 == 0) (some (.mcload (fin w 11 6) (fin w 0 8)))
  | 0x0B => chk (fld w 11 12 == 0) (some (.halt (imm w 0 11)))
  | _ => .error .unassigned

/-- The decoder (R56): bits [31:29] name the engine, bits [28:23] the major opcode. The five rows of `VXC`
are one word (R126): it decodes to its first row, and the kind that `s[a]` holds at issue names the row
(`Machine.vxcRow`). -/
def decode (w : Nat) : Except DecodeError Instr :=
  match fld w 29 3 with
  | 0 => decodeC (fld w 23 6) w
  | 1 => decodeV (fld w 23 6) w
  | 2 => decodeA (fld w 23 6) w
  | 3 => decodeL (fld w 23 6) w
  | 4 => decodeS (fld w 23 6) w
  | 5 => decodeNq (fld w 23 6) w
  | 6 => decodeY (fld w 23 6) w
  | _ => decodeK (fld w 23 6) w

/-- A commands a micro-op may run, by opcode (Table 8.8). -/
def arrOpOf : Nat → Option ArrOp
  | 0x03 => some .bload | 0x04 => some .mma | 0x05 => some .drain | 0x06 => some .dbias
  | 0x07 => some .dact | 0x08 => some .dtt | 0x09 => some .dclamp | 0x0A => some .drainm
  | 0x13 => some .mma3 | _ => none

def ArrOp.code : ArrOp → Nat
  | .bload => 0x03 | .mma => 0x04 | .drain => 0x05 | .dbias => 0x06 | .dact => 0x07 | .dtt => 0x08
  | .dclamp => 0x09 | .drainm => 0x0A | .mma3 => 0x13

/-- The decoder of micro-ops (Table 8.8); none is a microcode fault (R184). -/
def decodeUop (u : Nat) : Option Instr :=
  match fld u 60 4 with
  | 0 => if fld u 0 42 = 0
      then (arrOpOf (fld u 54 6)).map fun o => .uopArr o (imm u 50 4) (fin u 46 4) (fin u 42 4) else none
  | 1 => if fld u 32 24 = 0 then some (.uopSet (fin u 56 4) (imm u 0 32)) else none
  | 2 => if fld u 32 20 = 0 then some (.uopAdd (fin u 56 4) (fin u 52 4) (imm u 0 32)) else none
  | 3 => if fld u 14 42 = 0 then some (.uopLoop (fin u 56 4) (imm u 0 14)) else none
  | 4 => if fld u 0 60 = 0 then some .uopSafe else none
  | 5 => if fld u 0 60 = 0 then some .uopEnd else none
  | _ => none

/-- The host's question: the instruction read from a table row's word. Every word of the map is 32 bits
(R56); a 64-bit number is a micro-op. -/
def decodeTableWord (nbits w : Nat) : Option Instr :=
  if nbits ≤ 32 then (match decode (w % 2 ^ 32) with | .ok i => some i | .error _ => none)
  else decodeUop (w % 2 ^ 64)

/-- The guard field (R63). -/
def Guard.code : Guard → Nat
  | .always => 0
  | .onTrue g => g.val + 1
  | .onFalse g => g.val + 17

/-- Word with engine `e`, opcode `op` and operand bits `x`. -/
def wordOf (e op x : Nat) : Nat := e * 2 ^ 29 + op * 2 ^ 23 + x

/-- RR operands (Table 4.2). -/
def rr (d a b fn : Nat) : Nat := d * 2 ^ 17 + a * 2 ^ 11 + b * 2 ^ 5 + fn
/-- RI operands. -/
def ri (d a i : Nat) : Nat := d * 2 ^ 17 + a * 2 ^ 11 + i
/-- V3 operands. -/
def v3 (d a b t p z : Nat) : Nat := d * 2 ^ 18 + a * 2 ^ 13 + b * 2 ^ 8 + t * 2 ^ 5 + p * 2 + z
/-- VS operands. -/
def vs (v s l w : Nat) : Nat := v * 2 ^ 18 + s * 2 ^ 12 + l * 2 ^ 6 + w * 2 ^ 5
/-- VM operands. -/
def vm (v s x p c : Nat) : Nat := v * 2 ^ 18 + s * 2 ^ 12 + x * 2 ^ 4 + p * 2 + c
/-- Q operands. -/
def qw (g : Guard) (h s fn : Nat) : Nat := g.code * 2 ^ 18 + h * 2 ^ 10 + s * 2 ^ 4 + fn
/-- YH operands. -/
def yh (h r x : Nat) : Nat := h * 2 ^ 15 + r * 2 ^ 6 + x

/-- The word of an instruction (Tables 4.2 to 4.11); none for an event or a micro-op, which is no word. -/
def encode : Instr → Option Nat
  | .nop => some (wordOf 0 0x01 0)
  | .add d a b => some (wordOf 0 0x02 (rr d a b 0))
  | .sub d a b => some (wordOf 0 0x03 (rr d a b 0))
  | .and d a b => some (wordOf 0 0x04 (rr d a b 0))
  | .or d a b => some (wordOf 0 0x05 (rr d a b 0))
  | .xor d a b => some (wordOf 0 0x06 (rr d a b 0))
  | .sll d a b => some (wordOf 0 0x07 (rr d a b 0))
  | .srl d a b => some (wordOf 0 0x08 (rr d a b 0))
  | .sra d a b => some (wordOf 0 0x09 (rr d a b 0))
  | .slt d a b => some (wordOf 0 0x0A (rr d a b 0))
  | .sltu d a b => some (wordOf 0 0x0B (rr d a b 0))
  | .min d a b => some (wordOf 0 0x0C (rr d a b 0))
  | .minu d a b => some (wordOf 0 0x0C (rr d a b 1))
  | .max d a b => some (wordOf 0 0x0D (rr d a b 0))
  | .maxu d a b => some (wordOf 0 0x0D (rr d a b 1))
  | .mul d a b => some (wordOf 0 0x0E (rr d a b 0))
  | .mulh d a b => some (wordOf 0 0x0E (rr d a b 1))
  | .mulhu d a b => some (wordOf 0 0x0E (rr d a b 2))
  | .divs d a b => some (wordOf 0 0x0F (rr d a b 0))
  | .rems d a b => some (wordOf 0 0x0F (rr d a b 1))
  | .divn d a b => some (wordOf 0 0x10 (rr d a b 0))
  | .remn d a b => some (wordOf 0 0x10 (rr d a b 1))
  | .addi d a i => some (wordOf 0 0x11 (ri d a i.toNat))
  | .andi d a i => some (wordOf 0 0x12 (ri d a i.toNat))
  | .ori d a i => some (wordOf 0 0x13 (ri d a i.toNat))
  | .xori d a i => some (wordOf 0 0x14 (ri d a i.toNat))
  | .slli d a i => some (wordOf 0 0x15 (ri d a i))
  | .srli d a i => some (wordOf 0 0x16 (ri d a i))
  | .srai d a i => some (wordOf 0 0x17 (ri d a i))
  | .slti d a i => some (wordOf 0 0x18 (ri d a i.toNat))
  | .sltiu d a i => some (wordOf 0 0x19 (ri d a i.toNat))
  | .li d i => some (wordOf 0 0x1A (d * 2 ^ 17 + i.toNat))
  | .lsi d i => some (wordOf 0 0x1B (d * 2 ^ 17 + i.toNat))
  | .cmpeq c a b => some (wordOf 0 0x1C (rr c a b 0))
  | .cmpne c a b => some (wordOf 0 0x1C (rr c a b 1))
  | .cmplt c a b => some (wordOf 0 0x1C (rr c a b 2))
  | .cmpltu c a b => some (wordOf 0 0x1C (rr c a b 3))
  | .cmpge c a b => some (wordOf 0 0x1C (rr c a b 4))
  | .cmpgeu c a b => some (wordOf 0 0x1C (rr c a b 5))
  | .srr d n => some (wordOf 0 0x1D (ri d 0 n.num))
  | .srw a n => some (wordOf 0 0x1E (ri 0 a n.num))
  | .cand d a b => some (wordOf 0 0x1F (rr d a b 0))
  | .cor d a b => some (wordOf 0 0x1F (rr d a b 1))
  | .cxor d a b => some (wordOf 0 0x1F (rr d a b 2))
  | .candn d a b => some (wordOf 0 0x1F (rr d a b 3))
  | .bpt b i => some (wordOf 0 0x23 (b * 2 ^ 17 + i.toNat))
  | .bptr b a i => some (wordOf 0 0x24 (ri b a i.toNat))
  | .bjt b a i => some (wordOf 0 0x25 (rr b a i 0))
  | .btr b c => some (wordOf 0 0x26 (rr 0 b c 0))
  | .btrFalse b c => some (wordOf 0 0x26 (rr 0 b c 1))
  | .btrAlways b => some (wordOf 0 0x26 (rr 0 b 0 2))
  | .btrl l b c => some (wordOf 0 0x27 (rr l b c 0))
  | .btrlFalse l b c => some (wordOf 0 0x27 (rr l b c 1))
  | .btrlAlways l b => some (wordOf 0 0x27 (rr l b 0 2))
  | .vany c p => some (wordOf 0 0x28 (ri c p 0))
  | .vall c p => some (wordOf 0 0x29 (ri c p 0))
  | .lb d a i => some (wordOf 0 0x2A (ri d a i.toNat))
  | .lbu d a i => some (wordOf 0 0x2B (ri d a i.toNat))
  | .lh d a i => some (wordOf 0 0x2C (ri d a i.toNat))
  | .lhu d a i => some (wordOf 0 0x2D (ri d a i.toNat))
  | .lw d a i => some (wordOf 0 0x2E (ri d a i.toNat))
  | .lwu d a i => some (wordOf 0 0x2F (ri d a i.toNat))
  | .ld d a i => some (wordOf 0 0x30 (ri d a i.toNat))
  | .sb d a i => some (wordOf 0 0x31 (ri d a i.toNat))
  | .sh d a i => some (wordOf 0 0x32 (ri d a i.toNat))
  | .sw d a i => some (wordOf 0 0x33 (ri d a i.toNat))
  | .sd d a i => some (wordOf 0 0x34 (ri d a i.toNat))
  | .lq d a i => some (wordOf 0 0x35 (ri d a i.toNat))
  | .sq d a i => some (wordOf 0 0x36 (ri d a i.toNat))
  | .amow d a b o => some (wordOf 0 0x37 (rr d a b o.code))
  | .amod d a b o => some (wordOf 0 0x38 (rr d a b o.code))
  | .casw d a b => some (wordOf 0 0x39 (rr d a b 0))
  | .casd d a b => some (wordOf 0 0x3A (rr d a b 0))
  | .casq d a b => some (wordOf 0 0x3B (rr d a b 0))
  | .fence k s => some (wordOf 0 0x3C (k.toNat * 2 ^ 3 + s.code))
  | .waitt a => some (wordOf 0 0x3D (ri 0 a 0))
  | .rdtime d => some (wordOf 0 0x3E (ri d 0 0))
  | .trap i => some (wordOf 0 0x3F i.toNat)
  | .vadd d a b t p z => some (wordOf 1 0x01 (v3 d a b t.code p z.toNat))
  | .vsub d a b t p z => some (wordOf 1 0x02 (v3 d a b t.code p z.toNat))
  | .vmul d a b t p z => some (wordOf 1 0x03 (v3 d a b t.code p z.toNat))
  | .vmin d a b t p z => some (wordOf 1 0x04 (v3 d a b t.code p z.toNat))
  | .vmax d a b t p z => some (wordOf 1 0x05 (v3 d a b t.code p z.toNat))
  | .vfma d a b t p z => some (wordOf 1 0x06 (v3 d a b t.code p z.toNat))
  | .vfms d a b t p z => some (wordOf 1 0x07 (v3 d a b t.code p z.toNat))
  | .vabs d a t p z => some (wordOf 1 0x08 (v3 d a 0 t.code p z.toNat))
  | .vneg d a t p z => some (wordOf 1 0x09 (v3 d a 0 t.code p z.toNat))
  | .vdiv d a b t p z => some (wordOf 1 0x0A (v3 d a b t.code p z.toNat))
  | .vrem d a b t p z => some (wordOf 1 0x0B (v3 d a b t.code p z.toNat))
  | .vsqrt d a t p z => some (wordOf 1 0x0C (v3 d a 0 t.code p z.toNat))
  | .vrcp d a t p z => some (wordOf 1 0x0D (v3 d a 0 t.code p z.toNat))
  | .vrsq d a t p z => some (wordOf 1 0x0E (v3 d a 0 t.code p z.toNat))
  | .vexp2 d a t p z => some (wordOf 1 0x0F (v3 d a 0 t.code p z.toNat))
  | .vlog2 d a t p z => some (wordOf 1 0x10 (v3 d a 0 t.code p z.toNat))
  | .vsin d a t p z => some (wordOf 1 0x11 (v3 d a 0 t.code p z.toNat))
  | .vcos d a t p z => some (wordOf 1 0x12 (v3 d a 0 t.code p z.toNat))
  | .vtanh d a t p z => some (wordOf 1 0x13 (v3 d a 0 t.code p z.toNat))
  | .vand d a b t p z => some (wordOf 1 0x14 (v3 d a b t.code p z.toNat))
  | .vor d a b t p z => some (wordOf 1 0x15 (v3 d a b t.code p z.toNat))
  | .vxor d a b t p z => some (wordOf 1 0x16 (v3 d a b t.code p z.toNat))
  | .vsll d a b t p z => some (wordOf 1 0x17 (v3 d a b t.code p z.toNat))
  | .vsrl d a b t p z => some (wordOf 1 0x18 (v3 d a b t.code p z.toNat))
  | .vsra d a b t p z => some (wordOf 1 0x19 (v3 d a b t.code p z.toNat))
  | .vcvt d a src t p z => some (wordOf 1 0x1A (v3 d a (src.code * 2 ^ 2) t.code p z.toNat))
  | .vcmpeq d a b t p => some (wordOf 1 0x1B (v3 d a b t.code p 0))
  | .vcmplt d a b t p => some (wordOf 1 0x1C (v3 d a b t.code p 0))
  | .vcmple d a b t p => some (wordOf 1 0x1D (v3 d a b t.code p 0))
  | .vcmpun d a b t p => some (wordOf 1 0x1E (v3 d a b t.code p 0))
  | .vsel d a b t p => some (wordOf 1 0x1F (v3 d a b t.code p 0))
  | .vpand d a b => some (wordOf 1 0x20 (v3 d a b 0 0 0))
  | .vpor d a b => some (wordOf 1 0x21 (v3 d a b 0 0 0))
  | .vpxor d a b => some (wordOf 1 0x22 (v3 d a b 0 0 0))
  | .vpnot d a => some (wordOf 1 0x23 (v3 d a 0 0 0 0))
  | .vperm d a b t p z => some (wordOf 1 0x24 (v3 d a b t.code p z.toNat))
  | .vredadd d a t p z => some (wordOf 1 0x25 (v3 d a 0 t.code p z.toNat))
  | .vredmax d a t p z => some (wordOf 1 0x26 (v3 d a 0 t.code p z.toNat))
  | .vredmin d a t p z => some (wordOf 1 0x27 (v3 d a 0 t.code p z.toNat))
  | .vscan d a t p z => some (wordOf 1 0x28 (v3 d a 0 t.code p z.toNat))
  | .vsplat v s w => some (wordOf 1 0x29 (vs v s 0 w.toNat))
  | .vins v s l w => some (wordOf 1 0x2A (vs v s l w.toNat))
  | .vext v s l w => some (wordOf 1 0x2B (vs v s l w.toNat))
  | .vldh v s x p c => some (wordOf 1 0x2C (vm v s x p c.toNat))
  | .vsth v s x p c => some (wordOf 1 0x2D (vm v s x p c.toNat))
  | .vldm v s x p => some (wordOf 1 0x2E (vm v s x.toNat p 0))
  | .vstm v s x p => some (wordOf 1 0x2F (vm v s x.toNat p 0))
  | .vmov d a t p z => some (wordOf 1 0x30 (v3 d a 0 t.code p z.toNat))
  | .vxcGather a b => some (wordOf 1 0x31 (rr 0 a b 0))
  | .vxcScatter a b => some (wordOf 1 0x31 (rr 0 a b 0))
  | .vxcHandleGather a b => some (wordOf 1 0x31 (rr 0 a b 0))
  | .vxcHandleScatter a b => some (wordOf 1 0x31 (rr 0 a b 0))
  | .vxcTableLookup a b => some (wordOf 1 0x31 (rr 0 a b 0))
  | .vfence => some (wordOf 1 0x32 0)
  | .lacq g => some (wordOf 2 0x01 (qw g 0 0 0))
  | .lrel g => some (wordOf 2 0x02 (qw g 0 0 0))
  | .bload g h s k => some (wordOf 2 0x03 (qw g h s k.toNat))
  | .mma g h s z k => some (wordOf 2 0x04 (qw g h s (z.toNat * 2 + k.toNat)))
  | .drain g h s f => some (wordOf 2 0x05 (qw g h s f.toNat))
  | .dbias g h s => some (wordOf 2 0x06 (qw g h s 0))
  | .dact g h s => some (wordOf 2 0x07 (qw g h s 0))
  | .dtt g s => some (wordOf 2 0x08 (qw g 0 s 0))
  | .dclamp g h s => some (wordOf 2 0x09 (qw g h s 0))
  | .drainm g h s f => some (wordOf 2 0x0A (qw g h s f.toNat))
  | .stats g e d m => some (wordOf 2 0x0B (qw g (e * 2 ^ 3) d m.toNat))
  | .statc g e c m => some (wordOf 2 0x0C (qw g (e * 2 ^ 3) c m.toNat))
  | .statg g e n m => some (wordOf 2 0x0D (qw g (e * 2 ^ 3) (n + 1) m.toNat))
  | .fft g h s k => some (wordOf 2 0x0E (qw g h s k))
  | .ifft g h s k => some (wordOf 2 0x0F (qw g h s k))
  | .shtf g h s k => some (wordOf 2 0x10 (qw g h s k))
  | .shti g h s k => some (wordOf 2 0x11 (qw g h s k))
  | .plan g h s k => some (wordOf 2 0x12 (qw g h s k))
  | .mma3 g h s z => some (wordOf 2 0x13 (qw g h s (z.toNat * 2)))
  | .layerf g h s => some (wordOf 2 0x14 (qw g h s 0))
  | .layerd g h s => some (wordOf 2 0x15 (qw g h s 0))
  | .layerw g h s => some (wordOf 2 0x16 (qw g h s 0))
  | .layeru g h s => some (wordOf 2 0x17 (qw g h s 0))
  | .copy g h s => some (wordOf 3 0x01 (qw g h s 0))
  | .chain g h s => some (wordOf 3 0x02 (qw g h s 0))
  | .retn g h s => some (wordOf 3 0x04 (qw g h s 0))
  | .pref g h s l => some (wordOf 3 0x03 (qw g h s l.toNat))
  | .invr g h s l => some (wordOf 3 0x05 (qw g h s l.toNat))
  | .copyo g h s => some (wordOf 4 0x01 (qw g h s 0))
  | .chaino g h s => some (wordOf 4 0x02 (qw g h s 0))
  | .copya g h s => some (wordOf 4 0x03 (qw g h s 0))
  | .chaina g h s => some (wordOf 4 0x04 (qw g h s 0))
  | .offl g h s k => some (wordOf 4 0x05 (qw g h s k.toNat))
  | .wbr g h s l => some (wordOf 4 0x06 (qw g h s l.toNat))
  | .zpop g h s z => some (wordOf 5 0x01 (qw g h s z))
  | .zpush g h s z => some (wordOf 5 0x02 (qw g h s z))
  | .zopen g h s z => some (wordOf 5 0x03 (qw g h s z))
  | .zclose g z => some (wordOf 5 0x04 (qw g 0 0 z))
  | .tune g h s => some (wordOf 5 0x05 (qw g h s 0))
  | .trav g h s => some (wordOf 5 0x06 (qw g h s 0))
  | .ncomb g h s => some (wordOf 5 0x08 (qw g h s 0))
  | .pushr g h s o => some (wordOf 5 0x07 (qw g h s o.code))
  | .pinit h r x => some (wordOf 6 0x01 (yh h r x))
  | .pinitr h r x => some (wordOf 6 0x02 (yh h r x))
  | .rinit h r x => some (wordOf 6 0x06 (yh h r x))
  | .rclaim h r x => some (wordOf 6 0x07 (yh h r x))
  | .rcommit h r x => some (wordOf 6 0x08 (yh h r x))
  | .rwfill h r x => some (wordOf 6 0x09 (yh h r x))
  | .rwfree h r x => some (wordOf 6 0x0A (yh h r x))
  | .rfree h r x => some (wordOf 6 0x0B (yh h r x))
  | .parrive h r => some (wordOf 6 0x03 (yh h r 0))
  | .pdrop h r => some (wordOf 6 0x04 (yh h r 0))
  | .pwait h r p => some (wordOf 6 0x05 (yh h r p.toNat))
  | .barr t => some (wordOf 6 0x0C (t * 2 ^ 20))
  | .bara t => some (wordOf 6 0x0D (t * 2 ^ 20))
  | .bwait t => some (wordOf 6 0x0E (t * 2 ^ 20))
  | .bdrop t => some (wordOf 6 0x0F (t * 2 ^ 20))
  | .gset g c => some (wordOf 6 0x10 ((g + 1) * 2 ^ 19 + c * 2 ^ 16))
  | .gseti g v => some (wordOf 6 0x11 ((g + 1) * 2 ^ 19 + v.toNat * 2 ^ 15))
  | .gclr g => some (wordOf 6 0x12 ((g + 1) * 2 ^ 19))
  | .fork x r o => some (wordOf 6 0x14 (x.code * 2 ^ 20 + r.code * 2 ^ 18 + o.toNat))
  | .rdv => some (wordOf 6 0x15 0)
  | .rdvFin => some (wordOf 6 0x15 1)
  | .waitp p => some (wordOf 6 0x16 (p.code * 2 ^ 20))
  | .halloc h s => some (wordOf 6 0x17 (h * 2 ^ 15 + s * 2 ^ 9))
  | .hfree h => some (wordOf 6 0x18 (h * 2 ^ 15))
  | .hfmt h s => some (wordOf 6 0x19 (h * 2 ^ 15 + s * 2 ^ 9))
  | .dreg x y => some (wordOf 6 0x20 (ri x y 0))
  | .dunreg x => some (wordOf 6 0x21 (ri x 0 0))
  | .dmode m => some (wordOf 6 0x22 m.code)
  | .tread x => some (wordOf 6 0x23 (ri x 0 0))
  | .tlim x => some (wordOf 6 0x24 (ri x 0 0))
  | .tset x => some (wordOf 6 0x25 (ri x 0 0))
  | .sstep x => some (wordOf 6 0x29 (ri x 0 0))
  | .sskip x => some (wordOf 6 0x2A (ri x 0 0))
  | .sread x y => some (wordOf 6 0x28 (ri x y 0))
  | .eret => some (wordOf 7 0x01 0)
  | .csrr d a n => some (wordOf 7 0x02 (ri d a n.num))
  | .csrw d a n => some (wordOf 7 0x03 (ri d a n.num))
  | .tlbiPage a => some (wordOf 7 0x04 (ri 0 a 0))
  | .tlbiKey a => some (wordOf 7 0x04 (ri 0 a 1))
  | .tlbiAll a => some (wordOf 7 0x04 (ri 0 a 2))
  | .keyset a => some (wordOf 7 0x05 (ri 0 a 0))
  | .gang a => some (wordOf 7 0x06 (ri 0 a 0))
  | .gres a => some (wordOf 7 0x07 (ri 0 a 0))
  | .graphLoad a => some (wordOf 7 0x08 (ri 0 a 0))
  | .graphStart a => some (wordOf 7 0x08 (ri 0 a 1))
  | .graphStop a => some (wordOf 7 0x08 (ri 0 a 2))
  | .graphUnload a => some (wordOf 7 0x08 (ri 0 a 3))
  | .mbx d a m => some (wordOf 7 0x09 (ri d a m))
  | .mcload a g => some (wordOf 7 0x0A (ri 0 a g))
  | .halt i => some (wordOf 7 0x0B i.toNat)
  | _ => none

/-- The 64-bit word of a micro-op (Table 8.8); none for any other instruction. -/
def encodeUop : Instr → Option Nat
  | .uopArr op fn ka kb => some (op.code * 2 ^ 54 + fn.toNat * 2 ^ 50 + ka * 2 ^ 46 + kb * 2 ^ 42)
  | .uopSet kd i => some (1 * 2 ^ 60 + kd * 2 ^ 56 + i.toNat)
  | .uopAdd kd ka i => some (2 * 2 ^ 60 + kd * 2 ^ 56 + ka * 2 ^ 52 + i.toNat)
  | .uopLoop kd t => some (3 * 2 ^ 60 + kd * 2 ^ 56 + t.toNat)
  | .uopSafe => some (4 * 2 ^ 60)
  | .uopEnd => some (5 * 2 ^ 60)
  | _ => none

/-- The five `VXC` rows share one word: the row its decoder names. -/
def Instr.decoded : Instr → Instr
  | .vxcScatter a b => .vxcGather a b
  | .vxcHandleGather a b => .vxcGather a b
  | .vxcHandleScatter a b => .vxcGather a b
  | .vxcTableLookup a b => .vxcGather a b
  | i => i

end Sys2Proof
end

