-- ==== Sys2Proof/Machine/Memory.lean ====
section
/-! DEFINITION. Sparse byte stores in canonical form, HBM with its keys, the copies of die-private lines, the page walk,
the checks of an access (R93, R260-R262) and the race checker (R236-R238). -/

namespace Sys2Proof.Machine

/-! ## Sparse bytes -/

/-- What an unlisted byte of HBM or of a handle reads as: 0 (R133 for handles; log 1 for HBM). -/
def unlistedByte : Byte := 0

/-- One byte of a sparse store. -/
def Memory.get : List Host.Cell → Nat → Byte
  | [], _ => unlistedByte
  | (a, b) :: m, x => if x = a then b else Memory.get m x

/-- Store one byte, keeping the canonical form. -/
def Memory.set : List Host.Cell → Nat → Byte → List Host.Cell
  | [], x, v => if v = unlistedByte then [] else [(x, v)]
  | (a, b) :: m, x, v =>
    if x < a then (if v = unlistedByte then (a, b) :: m else (x, v) :: (a, b) :: m)
    else if x = a then (if v = unlistedByte then m else (a, v) :: m)
    else (a, b) :: Memory.set m x v

/-- The canonical form: addresses strictly rising (above `lo`), no entry equal to what an unlisted address reads as. -/
def Memory.wfFrom : Nat → List Host.Cell → Bool
  | _, [] => true
  | lo, (a, b) :: m => decide (lo ≤ a) && b != unlistedByte && Memory.wfFrom (a + 1) m

/-- The canonical form of a sparse store. -/
def Memory.wf (m : List Host.Cell) : Bool := Memory.wfFrom 0 m

/-- `n` bytes from `a`. -/
def Memory.gets (m : List Host.Cell) (a : Nat) : Nat → List Byte
  | 0 => []
  | n + 1 => Memory.get m a :: Memory.gets m (a + 1) n

/-- Store bytes from `a`. -/
def Memory.sets (m : List Host.Cell) (a : Nat) : List Byte → List Host.Cell
  | [] => m
  | b :: bs => Memory.sets (Memory.set m a b) (a + 1) bs

/-- Value of an association list, with a default. -/
def assocGet {α β : Type} [DecidableEq α] (d : β) : List (α × β) → α → β
  | [], _ => d
  | (k, v) :: l, x => if x = k then v else assocGet d l x

/-- Value of an association list. -/
def assocFind {α β : Type} [DecidableEq α] : List (α × β) → α → Option β
  | [], _ => none
  | (k, v) :: l, x => if x = k then some v else assocFind l x

/-- Set a key of an association list. -/
def assocSet {α β : Type} [DecidableEq α] : List (α × β) → α → β → List (α × β)
  | [], x, v => [(x, v)]
  | (k, w) :: l, x, v => if x = k then (k, v) :: l else (k, w) :: assocSet l x v

/-- Remove a key of an association list. -/
def assocDel {α β : Type} [DecidableEq α] : List (α × β) → α → List (α × β)
  | [], _ => []
  | (k, w) :: l, x => if x = k then assocDel l x else (k, w) :: assocDel l x

/-! ## HBM and keys -/

/-- One byte of HBM as an access through key `k` reads it: the stored byte where its line was stored under the same key, or
never; else the decryption of the stored line under `k` (R208, log 2). -/
def hbmByte (m : MemSt) (k : KeyPair) (pa : Nat) : Byte :=
  match assocFind m.lineKey (pa / 128) with
  | none => Memory.get m.hbm pa
  | some k0 =>
    if k0 = k then Memory.get m.hbm pa
    else Config.recrypt k0 k (pa / 128 * 128) (Memory.gets m.hbm (pa / 128 * 128) 128) (pa % 128)

/-- The 128 bytes of a line from byte `i` as they decrypt under another key. -/
def recryptFrom (k0 k : KeyPair) (a : Nat) (bs : List Byte) (i : Nat) : Nat → List Byte
  | 0 => []
  | n + 1 => Config.recrypt k0 k a bs i :: recryptFrom k0 k a bs (i + 1) n

/-- Bring a line under key `k` before part of it is written. -/
def rekey (m : MemSt) (k : KeyPair) (line : Nat) : MemSt :=
  match assocFind m.lineKey line with
  | none => { m with lineKey := assocSet m.lineKey line k }
  | some k0 =>
    if k0 = k then m
    else { m with
      hbm := Memory.sets m.hbm (line * 128) (recryptFrom k0 k (line * 128) (Memory.gets m.hbm (line * 128) 128) 0 128)
      lineKey := assocSet m.lineKey line k }

/-- Store one byte of HBM through key `k`. -/
def hbmSetByte (m : MemSt) (k : KeyPair) (pa : Nat) (b : Byte) : MemSt :=
  let m' := rekey m k (pa / 128)
  { m' with hbm := Memory.set m'.hbm pa b }

/-- `n` bytes of HBM. -/
def hbmGets (m : MemSt) (k : KeyPair) (pa : Nat) : Nat → List Byte
  | 0 => []
  | n + 1 => hbmByte m k pa :: hbmGets m k (pa + 1) n

/-- Store bytes of HBM. -/
def hbmSets (m : MemSt) (k : KeyPair) (pa : Nat) : List Byte → MemSt
  | [] => m
  | b :: bs => hbmSets (hbmSetByte m k pa b) k (pa + 1) bs

/-- Lines wholly covered by a write from `pa` of `n` bytes: such a write ends the poison of a line (R327). -/
def unpoison (m : MemSt) (pa n : Nat) : MemSt :=
  match m.poison with
  | [] => m
  | l => { m with poison := l.filter fun x => !(decide (pa ≤ x * 128) && decide (x * 128 + 128 ≤ pa + n)) }

/-! ## Die copies of die-private lines (R239) -/

/-- Is it the copy of this line at this die? -/
def DieLine.is (d : Die) (line : Nat) (x : DieLine) : Bool := decide (x.die = d) && x.line == line

/-- A die's copy of a line, if it holds one. -/
def dieFind (m : MemSt) (d : Die) (line : Nat) : Option DieLine := m.dieLines.find? (DieLine.is d line)

/-- A die's copy of a line, filled from HBM where the die holds none. -/
def dieFill (m : MemSt) (d : Die) (line idx : Nat) (k : KeyPair) : MemSt × DieLine :=
  match dieFind m d line with
  | some x => (m, x)
  | none =>
    let x : DieLine := ⟨d, line, hbmGets m k (line * 128) 128, 0, idx, m.poison.contains line⟩
    ({ m with dieLines := x :: m.dieLines }, x)

/-- Replace a die's copy. -/
def diePut (m : MemSt) (x : DieLine) : MemSt :=
  { m with dieLines := m.dieLines.map fun y => if y.is x.die x.line then x else y }

/-- One byte as a die reads it. -/
def dieByte (m : MemSt) (d : Die) (k : KeyPair) (pa : Nat) : Byte :=
  match dieFind m d (pa / 128) with
  | some x => x.bytes.getD (pa % 128) 0
  | none => hbmByte m k pa

def dieGets (m : MemSt) (d : Die) (k : KeyPair) (pa : Nat) : Nat → List Byte
  | 0 => []
  | n + 1 => dieByte m d k pa :: dieGets m d k (pa + 1) n

/-- A copy with one byte stored and marked dirty. -/
def DieLine.setByte (x : DieLine) (i : Nat) (b : Byte) : DieLine :=
  { x with bytes := x.bytes.set i b, dirty := x.dirty ||| BitVec.ofNat 128 (2 ^ i) }

/-- A write covers a byte range of a die: its copies of the lines wholly inside are good again (R327). -/
def cureCopies (m : MemSt) (d : Die) (pa n : Nat) : MemSt :=
  if m.dieLines.any (fun x => x.bad) then
    { m with dieLines := m.dieLines.map fun x =>
        if x.die = d ∧ pa ≤ x.line * 128 ∧ x.line * 128 + 128 ≤ pa + n then { x with bad := false } else x }
  else m

/-- A line is poisoned, and with it every copy of it: each later read of it meets the error (R327). -/
def poisonCopies (m : MemSt) (line : Nat) : MemSt :=
  { m with poison := line :: m.poison, dieLines := m.dieLines.map fun x => if x.line = line then { x with bad := true } else x }

/-- Store one byte into a die's copy, marking it dirty. -/
def dieSetByte (m : MemSt) (d : Die) (idx : Nat) (k : KeyPair) (pa : Nat) (b : Byte) : MemSt :=
  let r := dieFill m d (pa / 128) idx k
  diePut r.1 (r.2.setByte (pa % 128) b)

def dieSets (m : MemSt) (d : Die) (idx : Nat) (k : KeyPair) (pa : Nat) : List Byte → MemSt
  | [] => m
  | b :: bs => dieSets (dieSetByte m d idx k pa b) d idx k (pa + 1) bs

/-- The lines from `line` on, `n` of them, that a read leaves in the die's caches. -/
def dieFills (m : MemSt) (d : Die) (idx : Nat) (k : KeyPair) (line : Nat) : Nat → MemSt
  | 0 => m
  | n + 1 => dieFills (dieFill m d line idx k).1 d idx k (line + 1) n

/-- The dirty bytes of a die's copy, from byte `i` on, written to HBM (R149: merged by the per-byte mask). -/
def mergeDirty (m : MemSt) (k : KeyPair) (x : DieLine) (i : Nat) : List Byte → MemSt
  | [] => m
  | b :: bs =>
    mergeDirty (if x.dirty.getLsbD i then hbmSetByte m k (x.line * 128 + i) b else m) k x (i + 1) bs

/-- Write a die's dirty bytes of a line back to HBM under the key its index holds; the copy stays, clean. An index that
holds no key any more writes nothing back: `KEYSET` has written such lines back before it erased the key (R208). -/
def writeBack (m : MemSt) (d : Die) (line : Nat) : MemSt :=
  match dieFind m d line with
  | none => m
  | some x =>
    match assocFind m.keys x.key with
    | none => m
    | some k =>
      let n := diePut (mergeDirty m k x 0 x.bytes) { x with dirty := 0 }
      if x.dirty = BitVec.allOnes 128 ∧ x.bad = false then unpoison n (line * 128) 128 else n

/-- Drop a die's copy of a line. -/
def dropLine (m : MemSt) (d : Die) (line : Nat) : MemSt :=
  { m with dieLines := m.dieLines.filter fun y => !(y.is d line) }

/-! ## Page tables -/

/-- Answer of an access: a value, a failing check (cause code, detail, `eaddr`), or a wait for an HBM stack that is not
ready (R323). -/
inductive Got (α : Type) where
  | ok (a : α)
  | fail (code detail eaddr : Nat)
  | stall

/-- Go on with the value of an access. -/
def Got.bind {α β : Type} (x : Got α) (f : α → Got β) : Got β :=
  match x with
  | .ok a => f a
  | .fail c d e => .fail c d e
  | .stall => .stall

/-- Is an access to the page performed on HBM itself? One to a module-coherent page is, and one to a page that no cache holds (R239,
Table 13.10). -/
def Leaf.direct (l : Leaf) : Bool := l.coh || l.cache == 2

/-- Does a write also reach HBM at once? Write-through to the next level in use: from the L2, where it is the only level, to HBM
(Table 13.10; from an L1 it is to the die's L2, which the copy of the die stands for, log 91). -/
def Leaf.through (l : Leaf) : Bool := l.wp && l.cache == 1

/-- Page size by code (Table 13.9): 0 for a reserved code. -/
def pageSize : Nat → Nat
  | 0 => 2 ^ 12
  | 1 => 2 ^ 16
  | 2 => 2 ^ 21
  | 3 => 2 ^ 26
  | 4 => 2 ^ 31
  | _ => 0

/-- Replicas by code (Table 13.9). -/
def pageReplicas : Nat → Nat
  | 1 => 16
  | 3 => 32
  | 4 => 2
  | _ => 1

/-- Table level (0: VA bits [20:12], 1: [29:21], 2: [38:30], 3: [47:39], 4: [51:48]) at which a leaf stands. -/
def pageLevel : Nat → Nat
  | 0 => 0
  | 1 => 0
  | 2 => 1
  | 3 => 1
  | _ => 2

/-- Size of HBM (R247). -/
def hbmSize : Nat := 2 ^ 39

/-- Is the HBM stack of a physical address ready, or retired (R323)? -/
def stackReady (h : HubSt) (pa : Nat) : Bool :=
  h.rdyHub.getLsbD (12 + pa / 2 ^ 36 % 8) || h.retiredStacks.any fun j => j.val == pa / 2 ^ 36 % 8

/-- A registered race-metadata page holds the frame (R238, R248). -/
def chkRegistered (m : MemSt) (pa size : Nat) : Bool :=
  m.chk.any fun r => decide (r.1 ≤ pa) && decide (pa + size ≤ r.1 + r.2)

/-- The leaf of an entry found at level `lvl`, or none where R261 finds a translation fault. -/
def leafOf (m : MemSt) (lvl e : Nat) : Option Leaf :=
  let code := bitsN e 4 2
  let size := pageSize code
  let l : Leaf := {
    dev := bitN e 63, x := bitN e 62, w := bitN e 61, key := bitsN e 60 49, diff := bitN e 48, chk := bitN e 47
    sc := bitN e 46, pa := bitsN e 45 12 * 4096, coh := bitN e 11, wp := bitN e 7, cache := bitsN e 6 5, size := size }
  if !bitN e 0 || !bitN e 1 || size == 0 || pageLevel code != lvl || bitsN e 6 5 == 3 || l.pa % size != 0 then none
  else if l.sc && (!l.coh || l.chk) then none
  else if l.chk && (!l.coh || !chkRegistered m l.pa size) then none
  else if l.dev && (bitsN e 48 46 != 0 || bitsN e 10 5 != 0 || !l.coh) then none
  else some l

/-- The key of the accesses the hub, Cairn and the walkers make by physical address: that of key index 0 (log 2). -/
def hubKey (m : MemSt) : KeyPair := assocGet (0, 0) m.keys 0

/-- An 8-byte table entry: the walkers read tables coherently, past the die copies (R262). -/
def tableEntry (m : MemSt) (pa : Nat) : Nat := leValue (hbmGets m (hubKey m) pa 8)

/-- Lowest VA bit that indexes a level. -/
def levelShift (lvl : Nat) : Nat := 12 + 9 * lvl

/-- The entries of the replicas of a page, from `pa` on. -/
def replicaEntries (m : MemSt) (pa : Nat) : Nat → List Nat
  | 0 => []
  | n + 1 => tableEntry m pa :: replicaEntries m (pa + 8) n

/-- The entry an access uses: where the replicas of one page differ, one of them (R260), by a free choice (log 7). An entry of a size
that its level does not allow has no replicas (R261). -/
def pickReplica (m : MemSt) (free lvl table idx : Nat) : Nat :=
  let e := tableEntry m (table + 8 * idx)
  let n := pageReplicas (bitsN e 4 2)
  if n ≤ 1 || !bitN e 0 || !bitN e 1 || pageSize (bitsN e 4 2) == 0 || pageLevel (bitsN e 4 2) != lvl then e
  else
    let es := replicaEntries m (table + 8 * (idx / n * n)) n
    if es.all (· == e) then e else es.getD (Config.choice (free + 1 + table * 512 + idx) % n) e

/-- Index of an address in a table of a level. -/
def tableIndex (va lvl : Nat) : Nat := va / 2 ^ levelShift lvl % 512

/-- The walk of a virtual address (R260), from level `lvl` down: the entry of the leaf and its level, none on a translation
fault. A table outside HBM counts as no entry (log 31); one on a stack that is not ready is waited for (R323), and a poisoned line of one
is an uncorrectable error (R327). -/
def walk (m : MemSt) (h : HubSt) (free va : Nat) : Nat → Nat → Got (Option (Nat × Nat))
  | 0, table =>
    if hbmSize ≤ table then .ok none
    else if !stackReady h table then .stall
    else if m.poison.contains ((table + 8 * tableIndex va 0) / 128) then .fail 14 0 va
    else
      let e := pickReplica m free 0 table (tableIndex va 0)
      if bitN e 0 && bitN e 1 then .ok (some (e, 0)) else .ok none
  | lvl + 1, table =>
    if hbmSize ≤ table then .ok none
    else if !stackReady h table then .stall
    else if m.poison.contains ((table + 8 * tableIndex va (lvl + 1)) / 128) then .fail 14 0 va
    else
      let e := pickReplica m free (lvl + 1) table (tableIndex va (lvl + 1))
      if !bitN e 0 then .ok none
      else if bitN e 1 then .ok (some (e, lvl + 1))
      else if bitsN e 63 46 != 0 || bitsN e 11 2 != 0 then .ok none
      else walk m h free va lvl (bitsN e 45 12 * 4096)

/-! ## Agents and accesses -/

/-- Who makes an access: its context, the engine code that names it to others (R237), its number and clock for the race
checker (R236), whether it is a command, where its walks start, its region and default key, its die (none: supervisor core 0). `races`: it
is a source of events (R228). -/
structure Who where
  cx : CtxId
  eng : Nat
  agent : Nat
  cmd : Bool
  clk : Clock
  root : Nat
  region : Option Nat
  key : Nat
  die : Option Die
  races : Bool

/-- Kinds of accesses. -/
inductive Kind where
  | load
  | store
  /-- an atomic pair (R228) -/
  | atomic
  | fetch
  /-- no event of its own (R228): the checks of `DREG`, `PREF`, `WBR` and `INVR` -/
  | probe
  deriving DecidableEq, Repr

def Kind.writes : Kind → Bool
  | .store => true
  | .atomic => true
  | _ => false

/-- Is it an event for the race checker? -/
def Kind.event : Kind → Bool
  | .fetch => false
  | .probe => false
  | _ => true

/-- The cached translation that covers an address, of the region (R262). -/
def tlbFind (m : MemSt) (region : Option Nat) (va : Nat) : Option TlbEntry :=
  m.tlb.find? fun t => decide (t.region = region) && decide (t.page ≤ va) && decide (va < t.page + t.size)

/-- Translation of an address (R260-R262): the leaf used, and the memory with the translation cached. Where a cached entry
and the tables differ, or the tables cannot be read, an access that finds the cached one uses either, by a free choice (log 7). -/
def translate (m : MemSt) (h : HubSt) (free : Nat) (w : Who) (va : Nat) : Got (MemSt × Option Leaf) :=
  if 2 ^ 52 ≤ va then .ok (m, none)
  else
    match tlbFind m w.region va with
    | some t =>
      let old := leafOf m (pageLevel (bitsN t.leaf 4 2)) t.leaf
      let cached := decide (Config.choice (free + 2 ^ 60 + va / 4096) % 2 = 0)
      (match walk m h free va 4 w.root with
      | .ok (some (e, lvl)) => .ok (m, if e = t.leaf then old else if cached then old else leafOf m lvl e)
      | .ok none => .ok (m, if cached then old else none)
      | _ => .ok (m, old))
    | none =>
      (walk m h free va 4 w.root).bind fun r =>
        match r with
        | none => .ok (m, none)
        | some (e, lvl) =>
          match leafOf m lvl e with
          | none => .ok (m, none)
          | some l => .ok ({ m with tlb := ⟨w.region, va / l.size * l.size, l.size, e⟩ :: m.tlb }, some l)

/-! ## Race checker -/

/-- How far `a` is known to have come. -/
def Clock.get (c : Clock) (a : Nat) : Nat := assocGet 0 c a

/-- The later of two clocks at each agent. -/
def Clock.join (c : Clock) : Clock → Clock
  | [] => c
  | (a, n) :: d => Clock.join (if Clock.get c a < n then assocSet c a n else c) d

/-- The clock of an agent whose events so far are covered by what it releases now. -/
def Clock.tick (c : Clock) (a : Nat) : Clock := assocSet c a (Clock.get c a + 1)

/-- Name of an agent in `ecause.detail` (Table 11.4): bits [15] and [12:0]. Supervisor core 0 has no number there: the
core field of its name is not stated, a free value (log 9). -/
def Who.name (w : Who) : Nat :=
  (if w.cmd then 2 ^ 15 else 0) + w.cx.ctx.val * 8 + w.eng +
  (match w.cx.core with
   | .core d k => d.val * 2 ^ 11 + k.val * 2 ^ 4
   | .sup => (Config.freeWord 0).toNat % 2 ^ 9 * 2 ^ 4)

/-- The agent that an event's number belongs to: the accesses of a `VXC` have a number of their own (engine code 1), as they stand in
no order with those of the C stream until a `VFENCE` (R130, R228), but they are that stream's. -/
def agentOf (a : Nat) : Nat := if a % 8 = 1 then a - 1 else a

/-- The first earlier event on a granule that conflicts and is not `hb`-before (R236). -/
def raceFind (m : MemSt) (w : Who) (k : Kind) (g : Nat) : Option RaceEv :=
  m.race.find? fun e =>
    e.granule == g && agentOf e.agent != agentOf w.agent && (e.write || k.writes) && !(e.atomic && decide (k = .atomic)) &&
    decide (Clock.get w.clk e.agent < e.tick)

/-- Race check of granules `g`, `g + 1`, … of a piece. -/
def raceCheck (m : MemSt) (w : Who) (k : Kind) (p : Piece) (g : Nat) : Nat → Got Unit
  | 0 => .ok ()
  | n + 1 =>
    match raceFind m w k g with
    | some e =>
      .fail 6 (e.name + (if k.writes then 2 ^ 14 else 0) + (if e.write then 2 ^ 13 else 0))
        (p.va + (g * 4 - p.pa))
    | none => raceCheck m w k p (g + 1) n

/-- Number of 4-byte granules that a byte range touches. -/
def granules (pa len : Nat) : Nat := if len = 0 then 0 else (pa + len - 1) / 4 - pa / 4 + 1

/-- Record an access of a checked piece. -/
def raceNote (m : MemSt) (w : Who) (k : Kind) (g : Nat) : Nat → MemSt
  | 0 => m
  | n + 1 =>
    let e : RaceEv := ⟨g, w.agent, Clock.get w.clk w.agent + 1, k.writes, decide (k = .atomic), w.name⟩
    raceNote { m with race := e :: m.race.filter fun x =>
      !(x.granule == g && x.agent == w.agent && x.write == e.write && x.atomic == e.atomic) } w k (g + 1) n

/-! ## Checks of an access (R93) -/

/-- Is a physical address in a device window of R247? -/
def inHostWindow (pa : Nat) : Bool := decide (0x200000000000 ≤ pa) && decide (pa < 0x300000000000)
def inHubWindow (pa : Nat) : Bool := decide (0x3FFFFFFF0000 ≤ pa) && decide (pa < 0x400000000000)

/-- The die whose copy an access to a page is performed on (R239): none where it is performed on HBM. -/
def Who.copyOf (w : Who) (l : Leaf) : Option Die := if l.direct then none else w.die

/-- The checks of one page of an access, in the order of R93: translation, protection (with the windows of R247 and the
alignment rule of device pages), key, race. -/
def checkPiece (m : MemSt) (h : HubSt) (free : Nat) (w : Who) (k : Kind) (dev8 : Bool) (va len : Nat) :
    Got (MemSt × Piece) :=
  (translate m h free w va).bind fun r =>
    match r.2 with
    | none => .fail 4 0 va
    | some l =>
      let pa := l.pa + va % l.size
      if (k.writes && !l.w) || (decide (k = .fetch) && !l.x) || (l.dev && w.region.isSome) then .fail 5 0 va
      else if l.dev && !(inHostWindow pa || inHubWindow pa || decide (pa < hbmSize)) then .fail 5 0 va
      else if !l.dev && decide (hbmSize ≤ pa) then .fail 5 0 va
      else if l.dev && !(dev8 && va % 8 == 0) then .fail 3 0 va
      else
        let idx := if l.key = 0 then w.key else l.key
        let p : Piece := ⟨va, len, l, pa, idx, (0, 0)⟩
        if hbmSize ≤ pa then .ok (r.1, p)
        else
          match assocFind m.keys idx with
          | none => .fail 15 0 va
          | some kp =>
            let q := { p with key := kp }
            (if l.chk && k.event && w.races then raceCheck m w k q (pa / 4) (granules pa len) else .ok ()).bind fun _ => .ok (r.1, q)

/-- Bytes up to the end of the 4 KiB frame. -/
def frameRest (va : Nat) : Nat := 4096 - va % 4096

/-- The checks of an access, page by page in ascending address order. `fuel`: pages at most. -/
def checkPieces (m : MemSt) (h : HubSt) (free : Nat) (w : Who) (k : Kind) (dev8 : Bool) (va len : Nat) :
    Nat → Got (MemSt × List Piece)
  | 0 => .ok (m, [])
  | fuel + 1 =>
    if len = 0 then .ok (m, [])
    else
      let n := min len (frameRest va)
      (checkPiece m h free w k dev8 va n).bind fun r =>
        (checkPieces r.1 h (free + 2) w k dev8 ((va + n) % 2 ^ 64) (len - n) fuel).bind fun t =>
          .ok (t.1, r.2 :: t.2)

/-- Does a read of a line meet an uncorrectable error (R327)? Whatever part of it is read: a write covers the whole line, or it stays
poisoned. -/
def lineBad (m : MemSt) (d : Option Die) (line : Nat) : Bool :=
  match d.bind fun d => dieFind m d line with
  | some x => x.bad
  | none => m.poison.contains line

/-- The lowest address of a physical range at which a read meets a poisoned line; `n` lines from `line` on. -/
def badFrom (m : MemSt) (d : Option Die) (pa line : Nat) : Nat → Option Nat
  | 0 => none
  | n + 1 =>
    if lineBad m d line then some (max pa (line * 128)) else badFrom m d pa (line + 1) n

/-- Number of lines that a byte range touches. -/
def linesIn (pa len : Nat) : Nat := if len = 0 then 0 else (pa + len - 1) / 128 - pa / 128 + 1

/-- Are the frames of an access that has passed its checks there: on a stack that is ready (R323), and for a read not poisoned (R327)? -/
def piecesReady (m : MemSt) (h : HubSt) (w : Who) (k : Kind) : List Piece → Got Unit
  | [] => .ok ()
  | p :: ps =>
    if hbmSize ≤ p.pa then piecesReady m h w k ps
    else if h.retiredStacks.any (fun j => j.val == p.pa / 2 ^ 36) then .fail 14 0 p.va
    else if !stackReady h p.pa then .stall
    else
      match (if k != .store && k != .probe then badFrom m (w.copyOf p.leaf) p.pa (p.pa / 128) (linesIn p.pa p.len) else none) with
      | some a => .fail 14 0 (p.va + (a - p.pa))
      | none => piecesReady m h w k ps

/-- The checks of an access of `len` bytes at `va`: R93 on every page, before any byte is read; then its frames. One that is not aligned is
none of those that a device page takes, whichever page it begins in (R247). -/
def checkAccess (m : MemSt) (h : HubSt) (free : Nat) (w : Who) (k : Kind) (dev8 : Bool) (va len : Nat) :
    Got (MemSt × List Piece) :=
  (checkPieces m h free w k (dev8 && va % 8 == 0) va len (len / 4096 + 2)).bind fun r =>
    (piecesReady r.1 h w k r.2).bind fun _ => .ok r

/-! ## Performing an access -/

/-- The bytes of a piece of HBM. -/
def readPiece (m : MemSt) (w : Who) (p : Piece) : List Byte :=
  match w.copyOf p.leaf with
  | some d => dieGets m d p.key p.pa p.len
  | none => hbmGets m p.key p.pa p.len

/-- What reading a piece leaves behind: the lines in the die's caches of a die-private page (R239), the event on a checked
page (R236). -/
def noteRead (m : MemSt) (w : Who) (k : Kind) (p : Piece) : MemSt :=
  let m1 := match w.copyOf p.leaf with
    | some d => dieFills m d p.idx p.key (p.pa / 128) (linesIn p.pa p.len)
    | none => m
  if p.leaf.chk && k.event && w.races then raceNote m1 w k (p.pa / 4) (granules p.pa p.len) else m1

/-- Key of a granule for the clocks that atomics pass on: of one die's copy where the page is die-private (R98). -/
def atomKey (w : Who) (p : Piece) (g : Nat) : Nat :=
  match w.copyOf p.leaf with
  | some d => (d.val + 1) * 2 ^ 60 + g
  | none => g

/-- A plain write ends what an earlier atomic write of the same granules released (Table 11.3). -/
def dropAtom (m : MemSt) (w : Who) (p : Piece) : MemSt :=
  match m.atomClk with
  | [] => m
  | l => { m with atomClk := l.filter fun e =>
      !(decide (atomKey w p (p.pa / 4) ≤ e.1) && decide (e.1 < atomKey w p (p.pa / 4) + granules p.pa p.len)) }

/-- What the last atomic writes of `n` granules released. -/
def atomSeen (m : MemSt) (w : Who) (p : Piece) (g : Nat) : Nat → Clock
  | 0 => []
  | n + 1 => Clock.join (assocGet [] m.atomClk (atomKey w p g)) (atomSeen m w p (g + 1) n)

/-- Release a clock at `n` granules. -/
def atomRelease (m : MemSt) (w : Who) (p : Piece) (c : Clock) (g : Nat) : Nat → MemSt
  | 0 => m
  | n + 1 => atomRelease { m with atomClk := assocSet m.atomClk (atomKey w p g) c } w p c (g + 1) n

/-- Write the lines from `line` on through to HBM. -/
def throughLines (m : MemSt) (d : Die) (line : Nat) : Nat → MemSt
  | 0 => m
  | n + 1 => throughLines (writeBack m d line) d (line + 1) n

/-- Store the bytes of a piece. -/
def writePiece (m0 : MemSt) (w : Who) (k : Kind) (p : Piece) (bs : List Byte) : MemSt :=
  let m := if k = .atomic then m0 else dropAtom m0 w p
  let m1 := match w.copyOf p.leaf with
    | some d =>
      let n := cureCopies (dieSets m d p.idx p.key p.pa bs) d p.pa p.len
      if p.leaf.through then throughLines n d (p.pa / 128) (linesIn p.pa p.len) else n
    | none => unpoison (hbmSets m p.key p.pa bs) p.pa p.len
  if p.leaf.chk && w.races then raceNote m1 w k (p.pa / 4) (granules p.pa p.len) else m1

/-- Read every piece, in order. -/
def readPieces (m : MemSt) (w : Who) (k : Kind) : List Piece → List Byte × MemSt
  | [] => ([], m)
  | p :: ps =>
    let r := readPieces (noteRead m w k p) w k ps
    (readPiece m w p ++ r.1, r.2)

/-- Write every piece, in order. -/
def writePieces (m : MemSt) (w : Who) (k : Kind) : List Piece → List Byte → MemSt
  | [], _ => m
  | p :: ps, bs => writePieces (writePiece m w k p (bs.take p.len)) w k ps (bs.drop p.len)

end Sys2Proof.Machine
end

