-- ==== Sys2Proof/Machine/Ops.lean ====
section
/-! DEFINITION. The shared operations: finding and updating contexts, streams, cores and handles; registers and results in
flight (R28, R29); the error log (R328); issuing a word; taking an exception (R223-R225) and returning from one (R206). -/

namespace Sys2Proof

/-- Is it supervisor core 0 (R249)? -/
def CoreId.isSup : CoreId → Bool
  | .sup => true
  | .core _ _ => false

/-- Kind of a core, numbered as `zb.core` (Table 9.2): cluster × 6 + k, with G-cores at k = 0 to 3 and X-cores at k = 4, 5. -/
def CoreId.isG : CoreId → Bool
  | .sup => false
  | .core _ k => decide (k.val % 6 < 4)

def CoreId.isX : CoreId → Bool
  | .sup => false
  | .core _ k => decide (4 ≤ k.val % 6)

/-- The cluster of a core, 0 to 63 over the module: die × 16 + cluster on the die. -/
def CoreId.cluster : CoreId → Option (Fin 64)
  | .sup => none
  | .core d k => some ⟨d.val * 16 + k.val / 6, by omega⟩

/-- The die of a core: none for supervisor core 0, which is on the hub die. -/
def CoreId.die : CoreId → Option Die
  | .sup => none
  | .core d _ => some d

/-- Engine code of a word (Table 2.2). -/
def Instr.engine : Instr → Nat
  | .vadd .. => 1 | .vsub .. => 1 | .vmul .. => 1 | .vmin .. => 1 | .vmax .. => 1 | .vfma .. => 1 | .vfms .. => 1
  | .vabs .. => 1 | .vneg .. => 1 | .vdiv .. => 1 | .vrem .. => 1 | .vsqrt .. => 1 | .vrcp .. => 1 | .vrsq .. => 1
  | .vexp2 .. => 1 | .vlog2 .. => 1 | .vsin .. => 1 | .vcos .. => 1 | .vtanh .. => 1 | .vand .. => 1 | .vor .. => 1
  | .vxor .. => 1 | .vsll .. => 1 | .vsrl .. => 1 | .vsra .. => 1 | .vcvt .. => 1 | .vcmpeq .. => 1 | .vcmplt .. => 1
  | .vcmple .. => 1 | .vcmpun .. => 1 | .vsel .. => 1 | .vpand .. => 1 | .vpor .. => 1 | .vpxor .. => 1 | .vpnot .. => 1
  | .vperm .. => 1 | .vredadd .. => 1 | .vredmax .. => 1 | .vredmin .. => 1 | .vscan .. => 1 | .vsplat .. => 1
  | .vins .. => 1 | .vext .. => 1 | .vldh .. => 1 | .vsth .. => 1 | .vldm .. => 1 | .vstm .. => 1 | .vmov .. => 1
  | .vxcGather .. => 1 | .vxcScatter .. => 1 | .vxcHandleGather .. => 1 | .vxcHandleScatter .. => 1
  | .vxcTableLookup .. => 1 | .vfence => 1
  | .lacq .. => 2 | .lrel .. => 2 | .bload .. => 2 | .mma .. => 2 | .drain .. => 2 | .dbias .. => 2 | .dact .. => 2
  | .dtt .. => 2 | .dclamp .. => 2 | .drainm .. => 2 | .stats .. => 2 | .statc .. => 2 | .statg .. => 2 | .fft .. => 2
  | .ifft .. => 2 | .shtf .. => 2 | .shti .. => 2 | .plan .. => 2 | .mma3 .. => 2 | .layerf .. => 2 | .layerd .. => 2
  | .layerw .. => 2 | .layeru .. => 2 | .uopArr .. => 2 | .uopSet .. => 2 | .uopAdd .. => 2 | .uopLoop .. => 2
  | .uopSafe => 2 | .uopEnd => 2
  | .copy .. => 3 | .chain .. => 3 | .pref .. => 3 | .retn .. => 3 | .invr .. => 3
  | .copyo .. => 4 | .chaino .. => 4 | .copya .. => 4 | .chaina .. => 4 | .offl .. => 4 | .wbr .. => 4
  | .zpop .. => 5 | .zpush .. => 5 | .zopen .. => 5 | .zclose .. => 5 | .tune .. => 5 | .trav .. => 5 | .pushr .. => 5
  | .ncomb .. => 5
  | .pinit .. => 6 | .pinitr .. => 6 | .parrive .. => 6 | .pdrop .. => 6 | .pwait .. => 6 | .rinit .. => 6
  | .rclaim .. => 6 | .rcommit .. => 6 | .rwfill .. => 6 | .rwfree .. => 6 | .rfree .. => 6 | .barr .. => 6
  | .bara .. => 6 | .bwait .. => 6 | .bdrop .. => 6 | .gset .. => 6 | .gseti .. => 6 | .gclr .. => 6 | .fork .. => 6
  | .rdv => 6 | .rdvFin => 6 | .waitp .. => 6 | .halloc .. => 6 | .hfree .. => 6 | .hfmt .. => 6 | .dreg .. => 6
  | .dunreg .. => 6 | .dmode .. => 6 | .tread .. => 6 | .tlim .. => 6 | .tset .. => 6 | .sread .. => 6 | .sstep .. => 6
  | .sskip .. => 6
  | .eret => 7 | .csrr .. => 7 | .csrw .. => 7 | .tlbiPage .. => 7 | .tlbiKey .. => 7 | .tlbiAll .. => 7 | .keyset .. => 7
  | .gang .. => 7 | .gres .. => 7 | .graphLoad .. => 7 | .graphStart .. => 7 | .graphStop .. => 7 | .graphUnload .. => 7
  | .mbx .. => 7 | .mcload .. => 7 | .halt .. => 7
  | _ => 0

/-- Major opcode of a word; 0 for an event. -/
def Instr.opcode (w : Instr) : Nat :=
  match encode w with
  | some n => fld n 23 6
  | none => 0

/-- Is it a vote word? -/
def Instr.isVote : Instr → Bool
  | .vany .. => true
  | .vall .. => true
  | _ => false

/-- Is it a transfer word? -/
def Instr.isTransfer : Instr → Bool
  | .btr .. => true | .btrFalse .. => true | .btrAlways .. => true
  | .btrl .. => true | .btrlFalse .. => true | .btrlAlways .. => true
  | _ => false

/-- May a stream in handler mode on a G-core or X-core run this K word (R205)? The selector of `CSRR` and `CSRW` is looked at by
the word itself. -/
def Instr.handlerWord : Instr → Bool
  | .eret => true
  | .csrr .. => true
  | .csrw .. => true
  | _ => false

end Sys2Proof

namespace Sys2Proof.Machine

/-! ## Parts of the state -/

/-- The state with its memory replaced. -/
def State.setMem (s : State) (m : MemSt) : State := { s with mem := m }

/-- The state with its hub replaced. -/
def State.setHub (s : State) (h : HubSt) : State := { s with hub := h }

/-- The state with its router replaced. -/
def State.setRouter (s : State) (r : RouterSt) : State := { s with router := r }

/-- The first index of the free values that a step may use (log 4). -/
def State.free (s : State) : Nat := s.fresh * 2 ^ 64

/-- The job context at a place. -/
def State.ctx (s : State) (x : CtxId) : Option Ctx := s.ctxs.find? fun c => decide (c.id = x)

/-- Replace a job context. -/
def State.putCtx (s : State) (c : Ctx) : State :=
  { s with ctxs := s.ctxs.map fun d => if d.id = c.id then c else d }

/-- The core at a place. -/
def State.core (s : State) (k : CoreId) : Option CoreSt := s.cores.find? fun c => decide (c.id = k)

/-- Replace a core. -/
def State.putCore (s : State) (c : CoreSt) : State :=
  { s with cores := s.cores.map fun d => if d.id = c.id then c else d }

/-- The place of a stream in Table 10.2. -/
def streamIdx : StreamId → Fin 5
  | .C => 0 | .A => 1 | .L => 2 | .S => 3 | .N => 4

/-- Engine code of a stream (Table 2.2). -/
def streamEng : StreamId → Nat
  | .C => 0 | .A => 2 | .L => 3 | .S => 4 | .N => 5

/-- Engine code of a queue. -/
def queueEng : Queue → Nat
  | .A => 2 | .L => 3 | .S => 4 | .N => 5

/-- The stream of an engine code. -/
def streamOfEng : Nat → Option StreamId
  | 0 => some .C | 2 => some .A | 3 => some .L | 4 => some .S | 5 => some .N | _ => none

/-- A stream of a context. -/
def Ctx.stream (c : Ctx) (x : StreamId) : Stream := c.st.get (streamIdx x)

/-- Replace a stream of a context. -/
def Ctx.putStream (c : Ctx) (x : StreamId) (t : Stream) : Ctx :=
  { c with st := c.st.set (streamIdx x).val t (streamIdx x).isLt }

/-- Update every stream of a context. -/
def Ctx.mapStreams (c : Ctx) (f : StreamId → Stream → Stream) : Ctx :=
  ((((c.putStream .C (f .C (c.stream .C))).putStream .A (f .A (c.stream .A))).putStream .L (f .L (c.stream .L))).putStream
    .S (f .S (c.stream .S))).putStream .N (f .N (c.stream .N))

/-- Replace a stream. -/
def State.putStream (s : State) (r : StreamRef) (t : Stream) : State :=
  match s.ctx r.ctx with
  | some c => s.putCtx (c.putStream r.st t)
  | none => s

/-! ## Registers and results in flight -/

/-- Reading an s register: s0 reads 0 (Table 2.1). -/
def Stream.sreg (t : Stream) (r : SReg) : Word := if r = 0 then 0 else t.s.get r

/-- Writing an s register: a write to s0 is discarded. -/
def Stream.setS (t : Stream) (r : SReg) (v : Word) : Stream :=
  if r = 0 then t else { t with s := t.s.set r.val v r.isLt }

def Stream.breg (t : Stream) (r : BReg) : Word := t.b.get r

def Stream.setB (t : Stream) (r : BReg) (v : Word) : Stream := { t with b := t.b.set r.val v r.isLt }

def Stream.creg (t : Stream) (r : CSlot) : Bool := t.c.get r

def Stream.setC (t : Stream) (r : CSlot) (v : Bool) : Stream := { t with c := t.c.set r.val v r.isLt }

/-- Write the register a result is for. A vector result stands there already. -/
def Stream.setDst (t : Stream) (d : Dst) (v : Word) : Stream :=
  match d with
  | .s r => t.setS r v
  | .b r => t.setB r v
  | .c r => t.setC r (v != 0)
  | .v _ => t
  | .p _ => t
  | .unit => t

/-- Is a result for the vector unit's registers, or of a vector word that writes none? -/
def Dst.vector : Dst → Bool
  | .v _ => true
  | .p _ => true
  | .unit => true
  | _ => false

/-- Is a result interlocked? -/
def Due.locked : Due → Bool
  | .interlocked => true
  | .divider => true
  | .unit _ => true
  | _ => false

/-- Is a result in flight that of a vector word: one for the vector unit's registers, or one of a fixed latency, as `VEXT` has (R106)? -/
def Flight.vector (f : Flight) : Bool :=
  f.dst.vector || match f.due with
    | .unit _ => true
    | _ => false

/-- Is a register the destination of an outstanding interlocked result, or of a later one behind it (R29)? -/
def Stream.interlocked (t : Stream) (d : Dst) : Bool :=
  t.flight.any fun f => decide (f.dst = d) && (f.due.locked || f.lock)

/-- Put a result in flight, with the flags of its word (R26, R28). A result for s0 is discarded (R78); its flags are not. -/
def Stream.flyFlags (t : Stream) (seq : Nat) (d : Dst) (v : Word) (fl : BitVec 5) (due : Due) : Stream :=
  if d = .s 0 ∧ fl = 0 then t
  else { t with flight := t.flight ++ [⟨seq, d, v, fl, due, t.interlocked d, false⟩] }

/-- Put a result in flight whose word sets no flag. -/
def Stream.fly (t : Stream) (seq : Nat) (d : Dst) (v : Word) (due : Due) : Stream := t.flyFlags seq d v 0 due

/-- Land a result in flight (R29): the register takes it, unless a later-issued word's result has landed there first; earlier
results for the same register become dead. The word has completed, and its flags join `fflags` (R26). -/
def Stream.land (t : Stream) (f : Flight) : Stream :=
  let t1 := { t with
    flight := t.flight.filter fun g => !(decide (g.seq = f.seq) && decide (g.dst = f.dst))
    fflags := t.fflags ||| f.flags }
  if f.dead then t1
  else { t1.setDst f.dst f.val with
    flight := t1.flight.map fun g => if g.dst = f.dst ∧ g.seq < f.seq then { g with dead := true } else g }

/-- Does a result land at a known cycle? -/
def Due.known : Due → Bool
  | .at _ => true
  | _ => false

/-- Is it the result of a vector divide, which waits for its turn in the core's divider (R82)? -/
def Flight.vdivides (f : Flight) : Bool := f.dst.vector && decide (f.due = .divider)

/-- Has a result to be there when its stream stops: an exposed one (R31), or one of a vector word (R106) that is not in the divider? -/
def Flight.landsAtStop (f : Flight) : Bool := f.due.known || (f.vector && !f.vdivides)

/-- Has a stream a vector divide in the divider? The handler's first word, and the saving of the job, wait for it (R82, R106). -/
def Stream.vdividing (t : Stream) : Bool := t.flight.any Flight.vdivides

/-- Land every exposed result in flight, in issue order (R31), and every vector result: the vector words issued before a stop complete
(R106), those in the divider in its order (`Stream.vdividing`). The results of status reads that have not executed stay. -/
def Stream.landExposed (t : Stream) : Stream :=
  (t.flight.filter Flight.landsAtStop).foldl (fun u f =>
    match u.flight.find? fun g => decide (g.seq = f.seq) && decide (g.dst = f.dst) with
    | some g => u.land g
    | none => u) t

/-! ## Handles -/

/-- The tile-table entry of a handle. -/
def Ctx.handle (c : Ctx) (h : HId) : Option Handle := c.handles.find? fun x => decide (x.id = h)

/-- Replace a handle. -/
def Ctx.putHandle (c : Ctx) (h : Handle) : Ctx :=
  { c with handles := c.handles.map fun x => if x.id = h.id then h else x }

/-- Byte offset of a row (R132). -/
def Handle.rowAt (h : Handle) (r : Nat) : Nat := r * h.pitch

/-- `n` bytes of a row from byte `o`. -/
def Handle.bytes (h : Handle) (r o n : Nat) : List Byte := Memory.gets h.data (h.rowAt r + o) n

/-- Poisoned lines, after a write of `n` bytes from byte `a`: one ends when writes have covered the whole line (R327). -/
def coverLines (a n : Nat) : List (Nat × BitVec 128) → List (Nat × BitVec 128)
  | [] => []
  | (l, w) :: r =>
    let v := (List.range n).foldl (fun v i => if (a + i) / 128 = l then v ||| BitVec.ofNat 128 (2 ^ ((a + i) % 128)) else v) w
    if v = BitVec.allOnes 128 then coverLines a n r else (l, v) :: coverLines a n r

/-- Store bytes of a row from byte `o`. Any write clears the mark of `OFFL` (R148). -/
def Handle.store (h : Handle) (r o : Nat) (bs : List Byte) : Handle :=
  { h with
    data := Memory.sets h.data (h.rowAt r + o) bs
    kept := none
    bad := coverLines (h.rowAt r + o) bs.length h.bad }

/-- Does a read of `n` bytes of a row from byte `o` meet an uncorrectable error (R327)? -/
def Handle.meets (h : Handle) (r o n : Nat) : Bool :=
  h.bad.any fun e => decide (e.1 * 128 < h.rowAt r + o + n) && decide (h.rowAt r + o < e.1 * 128 + 128)

/-! ## Who makes an access -/

/-- Number of a stream for the race checker (log 12). -/
def streamAgent (job : Nat) (x : StreamId) : Nat := job * 2 ^ 40 * 8 + streamEng x

/-- Number of the `VXC`s of a job: their accesses are in no order with the C stream's until a `VFENCE` (R130, R228). -/
def vxcAgent (job : Nat) : Nat := streamAgent job .C + 1

/-- The clock of the `VXC`s of a job. -/
def Ctx.vxcClock (c : Ctx) : Clock := Clock.join (c.stream .C).clk c.vxcClk

/-- Number of a command. -/
def cmdAgent (job seq eng : Nat) : Nat := (job * 2 ^ 40 + seq + 1) * 8 + eng

/-- The agent of a job's access: its walks start at its region's root, those of supervisor core 0 at `hub.sproot`. -/
def whoOf (s : State) (c : Ctx) (agent eng : Nat) (cmd : Bool) (clk : Clock) : Who where
  cx := c.id
  eng := eng
  agent := agent
  cmd := cmd
  clk := clk
  root := if c.id.core.isSup then s.hub.sproot.toNat else c.card.ptroot
  region := if c.id.core.isSup then none else some c.card.region
  key := if c.id.core.isSup then 0 else c.card.key
  die := c.id.core.die
  races := true

/-- A stream as an agent. -/
def whoStream (s : State) (c : Ctx) (x : StreamId) : Who :=
  whoOf s c (streamAgent c.job x) (streamEng x) false (c.stream x).clk

/-- A command as an agent. -/
def whoCmd (s : State) (c : Ctx) (d : Cmd) : Who :=
  whoOf s c (cmdAgent c.job d.seq (queueEng d.q)) (queueEng d.q) true d.clk

/-- Cairn's accesses: its reads of graph descriptors and node records start at `hub.sproot` (R249). It is no source of events (R228). -/
def whoCairn (s : State) : Who where
  cx := ⟨.sup, 0⟩
  eng := 0
  agent := 7
  cmd := false
  clk := []
  root := s.hub.sproot.toNat
  region := none
  key := 0
  die := none
  races := false

/-- The agent with the clock that the state holds for it now. -/
def Who.fresh (w : Who) (s : State) : Who :=
  match s.ctx w.cx with
  | none => w
  | some c =>
    if w.cmd then
      { w with clk := ((c.cmds.find? fun d => cmdAgent c.job d.seq (queueEng d.q) == w.agent).map Cmd.clk).getD w.clk }
    else
      if w.agent = vxcAgent c.job then { w with clk := c.vxcClock }
      else { w with clk := (([StreamId.C, .A, .L, .S, .N].find? fun x => streamAgent c.job x == w.agent).map fun x => (c.stream x).clk).getD w.clk }

/-- Give an agent a clock. That of the `VXC`s becomes the C stream's with a `VFENCE`; what a release of theirs covers of the stream is counted
at once, so that it does not cover what the stream does later. -/
def setClock (s : State) (w : Who) (k : Clock) : State :=
  match s.ctx w.cx with
  | none => s
  | some c =>
    if w.cmd then
      s.putCtx { c with cmds := c.cmds.map fun d => if cmdAgent c.job d.seq (queueEng d.q) = w.agent then { d with clk := k } else d }
    else if w.agent = vxcAgent c.job then
      let a := agentOf w.agent
      let t := c.stream .C
      s.putCtx { c.putStream .C { t with clk := assocSet t.clk a (max (Clock.get t.clk a) (Clock.get k a)) } with vxcClk := k }
    else
      s.putCtx (c.mapStreams fun x t => if streamAgent c.job x = w.agent then { t with clk := k } else t)

/-- Cairn's read in the supervisor's address space. -/
def cairnLoad (s : State) (va n : Nat) : Got (List Byte) :=
  (checkAccess s.mem s.hub s.free (whoCairn s) .load false va n).bind fun r =>
    .ok (readPieces r.1 (whoCairn s) .load r.2).1

/-- A write of Cairn or of the hub, performed now: none where it waits for a stack (R323). One of Cairn that a check refuses is lost, and one of
the hub outside HBM or on a retired stack. -/
def storeNow (s : State) (x : WaitStore) : Option State :=
  if x.cairn then
    match checkAccess s.mem s.hub s.free (whoCairn s) .store false x.addr x.bytes.length with
    | .ok r => some (s.setMem (writePieces r.1 (whoCairn s) .store r.2 x.bytes))
    | .fail _ _ _ => some s
    | .stall => none
  else if hbmSize < x.addr + x.bytes.length ∨ (s.hub.retiredStacks.any fun j => j.val == x.addr / 2 ^ 36) = true then some s
  else if stackReady s.hub x.addr && stackReady s.hub (x.addr + x.bytes.length - 1) then
    some (s.setMem (unpoison (hbmSets s.mem (hubKey s.mem) x.addr x.bytes) x.addr x.bytes.length))
  else none

/-- Do two writes of Cairn, or two of the hub, touch a byte in common? Only then must they keep their order. -/
def WaitStore.meets (x y : WaitStore) : Bool :=
  x.cairn == y.cairn && decide (x.addr < y.addr + y.bytes.length) && decide (y.addr < x.addr + x.bytes.length)

/-- A write of Cairn or of the hub: a write for one stack waits for none of another (R323). -/
def storeOrWait (s : State) (x : WaitStore) : State :=
  match (if s.waitStores.any x.meets then none else storeNow s x) with
  | some t => t
  | none => { s with waitStores := s.waitStores ++ [x] }

/-- Cairn's write in the supervisor's address space. -/
def cairnStore (s : State) (va : Nat) (bs : List Byte) : State := storeOrWait s ⟨true, va, bs⟩

/-- Bytes from a physical address on as they stand after a write of the hub that waits. -/
def WaitStore.over (x : WaitStore) (pa : Nat) (bs : List Byte) : List Byte :=
  if x.cairn || decide (x.addr + x.bytes.length ≤ pa) || decide (pa + bs.length ≤ x.addr) then bs
  else (bs.zip (List.range bs.length)).map fun b =>
    if x.addr ≤ pa + b.2 ∧ pa + b.2 < x.addr + x.bytes.length then x.bytes.getD (pa + b.2 - x.addr) b.1 else b.1

/-- Bytes at a physical address of HBM, as the hub reads them (log 2): after its own writes that wait. -/
def physLoad (s : State) (pa n : Nat) : List Byte :=
  s.waitStores.foldl (fun bs x => x.over pa bs) (hbmGets s.mem (hubKey s.mem) pa n)

/-- The hub's write at a physical address. -/
def physStore (s : State) (pa : Nat) (bs : List Byte) : State := storeOrWait s ⟨false, pa, bs⟩

/-- Are the frames of a table of 4,096 records of 64 bytes there (R323)? -/
def framesReady (h : HubSt) (pa : Nat) : Bool := stackReady h pa && stackReady h (pa + 262143)

/-- Can the gang table be read (R304, R323)? Without it nothing that carries a gang ID is handed to the router. -/
def gangReadable (s : State) : Bool := s.hub.gangbase == 0 || framesReady s.hub s.hub.gangbase.toNat

/-- Are the frames that hold the region table and the gang table there (R323)? Without them Cairn and the gang words wait. -/
def tableReady (s : State) : Bool := framesReady s.hub s.hub.rcbase.toNat && gangReadable s

/-! ## Sequence numbers and the error log -/

/-- Take the next value of the module sequence counter (R14): the new number and the state. -/
def takeSeq (s : State) : Nat × State :=
  ((s.hub.mseq + 1) % 2 ^ 64, s.setHub { s.hub with mseq := (s.hub.mseq + 1) % 2 ^ 64 })

/-- Write one RAS record (R328, Table 20.6), of a kind, with its `re.addr`, `re.loc` and `re.count`; a full ring, or one
of no slots, counts it as lost. -/
def rasLog (s : State) (kind addr loc count : Nat) : State :=
  let n := (takeSeq s).1
  let s1 := (takeSeq s).2
  let h := s1.hub
  if h.rasLen = 0 ∨ (h.rasHead + 1) % h.rasLen = h.rasTail then
    s1.setHub { h with rasLost := h.rasLost + 1 }
  else
    let rec_ := leBytes 32 (n * 2 ^ 192 + addr % 2 ^ 64 * 2 ^ 128 + loc % 2 ^ 64 * 2 ^ 64 + count % 2 ^ 16 * 2 ^ 48 +
      kind * 2 ^ 40)
    (physStore s1 (h.rasBase.toNat + 32 * h.rasHead) rec_).setHub { h with rasHead := (h.rasHead + 1) % h.rasLen }

/-! ## Graph states in memory -/

/-- Write `gd.state` ([391:384]) of a descriptor. -/
def writeGraphState (s : State) (g : Graph) (st : Fin 6) : State :=
  cairnStore { s with graphs := s.graphs.map fun x => if x.addr = g.addr then { x with state := st } else x }
    (g.addr + 48) [BitVec.ofNat 8 st.val]

/-- The graphs of a fault domain in state 2 enter state 5 (R252). -/
def faultDomain (s : State) (fdom : Nat) : State :=
  (s.graphs.filter fun g => g.state == 2 && g.fdom == fdom).foldl (fun t g => writeGraphState t g 5) s

/-! ## Fatal errors (R327) -/

/-- Bits 0 and 7 of `rdy.hub`, which a fatal error leaves set. -/
def fatalKept : BitVec 64 := 0x81

/-- The registers of a stream (Tables 2.1 and 2.3). -/
def Stream.regWords (t : Stream) : List Nat :=
  t.s.toList.map BitVec.toNat ++ t.b.toList.map BitVec.toNat ++ t.c.toList.map Bool.toNat ++
  [t.pc.toNat, t.role.val, t.round.val, t.fflags.toNat, t.satfp.toNat, t.epc.toNat, t.ecause.toNat, t.eaddr.toNat, t.ebr.toNat,
    t.agebound, t.wdog, t.mode.toNat]

/-- The registers of a context: those of its streams, and those that its streams share. -/
def Ctx.regWords (c : Ctx) : List Nat :=
  c.st.toList.flatMap Stream.regWords ++ c.v.toList.map BitVec.toNat ++ c.p.toList.map BitVec.toNat ++
  [c.dmode.val, c.tinfo.toNat, c.tapeBase.toNat, c.tapePos.toNat, c.tapeLim.toNat]

/-- What the dump of a fatal error holds: the READY block, the RAS pointers, supervisor core 0's registers, Cairn's graph states and the
router's counters, those of its ports among them. -/
def dumpHeld (s : State) : List Nat :=
  let h := s.hub
  [h.rdyHub.toNat, h.rdyClus.toNat] ++ h.rdyCore.toList.map BitVec.toNat ++ [h.rdyPort.toNat] ++
  [h.rasBase.toNat, h.rasLen, h.rasHead, h.rasTail, h.rasLost] ++
  (s.ctxs.filter fun c => c.id.core.isSup).flatMap Ctx.regWords ++
  s.graphs.flatMap (fun g => [g.addr, g.state.val]) ++
  s.router.txSeq.flatMap (fun e => [e.1.1.val, e.1.2.val, e.2.toNat]) ++ s.router.rxSeq.flatMap (fun e => [e.1.1.val, e.1.2.val, e.2.toNat]) ++
  h.ports.toList.map fun x => x.retries

/-- The management controller writes the dump. It waits for no HBM stack, whose bits the error itself clears (log 106). -/
def dumpStore (s : State) (bs : List Byte) : State :=
  let a := s.hub.rasDump.toNat
  if hbmSize < a + bs.length ∨ (s.hub.retiredStacks.any fun j => j.val == a / 2 ^ 36) = true then s
  else s.setMem (unpoison (hbmSets s.mem (hubKey s.mem) a bs) a bs.length)

/-- A fatal error: every core stops, the dump is written, the ready bits but two clear, and `ras.fatal` is set. `power`: cores and optics
keep their power; then the ports that forward go on, those of an earlier fatal error among them. How the dump lays out what it holds is not
given (log 11). -/
def fatalError (s : State) (power : Bool) : State :=
  let t := rasLog s 10 0 (2 ^ 40) 1
  let h := t.hub
  let u := dumpStore t ((List.range (min Config.dumpSize (2 ^ 24))).map (Config.dumpByte (dumpHeld t)))
  { u with
    hub := { u.hub with
      rdyHub := h.rdyHub &&& fatalKept, rdyClus := 0, rdyCore := Vector.replicate 4 0, rdyPort := 0
      fatalPorts := if !power then 0 else if h.rdyHub.getLsbD 4 then h.rdyPort ||| h.fatalPorts else h.fatalPorts, rasFatal := true, fatal := true }
    ctxs := u.ctxs.map fun (c : Ctx) => { c.mapStreams fun _ t => { t with run := .halted } with frozen := true } }

/-! ## Taking an exception -/

/-- A cause: `ecause.code`, `.detail`, `.eng`, and `eaddr`. -/
structure Cause where
  code : Nat
  detail : Nat
  eng : Nat
  eaddr : Nat

/-- `ecause` (Table 2.5). -/
def ecauseWord (c : Cause) : Word :=
  BitVec.ofNat 64 (c.detail % 2 ^ 16 * 2 ^ 16 + c.eng % 8 * 2 ^ 8 + c.code % 2 ^ 8)

/-- `tinfo` (Table 10.6). -/
def tinfoWord (qcmd : Bool) (src : StreamId) (pc : Word) : Word :=
  BitVec.ofNat 64 ((if qcmd then 2 ^ 63 else 0) + streamEng src * 2 ^ 60 + pc.toNat % 2 ^ 52 / 4 * 4)

/-- `ebr` (Table 2.6) of a stream: a pending taken transfer, with the delay-slot words still to execute. -/
def Stream.ebrWord (t : Stream) : Word :=
  match t.xfer with
  | some tgt => BitVec.ofNat 64 (2 ^ 63 + t.slots % 4 * 2 ^ 61 + tgt.toNat % 2 ^ 52 / 4 * 4)
  | none => 0

/-- Does the stream take part in a stop: is it forked, not parked and not ended? -/
def Run.live : Run → Bool
  | .off => false
  | .parked => false
  | .halted => false
  | _ => true

/-- The resume point of a stopped stream (R31): its exposed results land, `epc` receives the address of the word that has not
completed, `ebr` the pending transfer. -/
def Stream.record (t : Stream) : Stream :=
  let u := t.landExposed
  { u with epc := u.pc, ebr := u.ebrWord }

/-- Stop a live stream at its word boundary (R224). -/
def Stream.stop (t : Stream) : Stream :=
  if t.run.live && !t.stopped then { t.record with stopped := true } else t

/-- The trap's cause in a stream's registers. -/
def Stream.blame (t : Stream) (c : Cause) : Stream :=
  { t with ecause := ecauseWord c, eaddr := BitVec.ofNat 64 c.eaddr }

/-- What `pc` holds of an address: bits [63:52] and [1:0] are zero (Table 2.3). -/
def pcOf (a : Word) : Word := BitVec.ofNat 64 (a.toNat % 2 ^ 52 / 4 * 4)

/-- Enter a handler at an address in supervisor mode. -/
def Stream.enter (t : Stream) (a : Word) : Stream :=
  { t with pc := pcOf a, mode := true, xfer := none, slots := 0, run := .run, stopped := false }

/-- Take an exception: the one shared operation (R223-R225, R27, R205, R249, R252, R327). On supervisor core 0 the C stream
enters `hub.strap` (log 24 for a trap of another stream of that core); a trap before the last one is taken up is a fatal error. In a job,
every stream stops at its word boundary and
records its resume point; the trapping stream and the C stream receive the cause, `tinfo` names the word. Causes 13 and 14,
every cause raised in supervisor mode, and every cause of a job without a handler go to the supervisor: the job stays
stopped, and its fault domain's graphs enter state 5. A job that is being lifted off keeps the trap for later (R309). Otherwise the C stream
enters the handler with `mode` 1. -/
def takeTrap (s : State) (ref : StreamRef) (c : Cause) (pc : Word) (qcmd : Bool) : State :=
  match s.ctx ref.ctx with
  | none => s
  | some x =>
    if x.frozen then
      s.putCtx { x with pendingTrap := x.pendingTrap.or (some ⟨ref.st, c.code, c.detail, c.eng, BitVec.ofNat 64 c.eaddr, pc, qcmd⟩) }
    else if ref.ctx.core.isSup && x.untaken then fatalError s true
    else if ref.ctx.core.isSup then
      let y := x.putStream ref.st (((x.stream ref.st).stop).blame c)
      let t := if ref.st = .C then y.stream .C else ((y.stream .C).record).blame c
      s.putCtx { y.putStream .C (t.enter s.hub.strap) with untaken := true }
    else
      let mode := (x.stream .C).mode
      let y := x.mapStreams fun _ t => t.stop
      let y := y.putStream ref.st ((y.stream ref.st).blame c)
      let y := { y.putStream .C ((y.stream .C).blame c) with tinfo := tinfoWord qcmd ref.st pc }
      if c.code = 13 ∨ c.code = 14 ∨ mode = true ∨ x.card.handler = 0 then
        faultDomain (s.putCtx { y with atSup := true }) x.card.fdom
      else s.putCtx (y.putStream .C ((y.stream .C).enter x.card.handler))

/-- A trap of the word at a stream's pc. -/
def trapWord (s : State) (ref : StreamRef) (c : Cause) : State :=
  match s.ctx ref.ctx with
  | none => s
  | some x => takeTrap s ref c (x.stream ref.st).pc false

/-! ## Returning from an exception -/

/-- Is `ebr` one that `ERET` cannot resume (R206): `pend` 1 with `dcnt` 0 or 3? -/
def badEbr (w : Word) : Bool := w.getLsbD 63 && (w.toNat / 2 ^ 61 % 4 == 0 || w.toNat / 2 ^ 61 % 4 == 3)

/-- Resume a stream from its `epc` and `ebr` (R31), its first word ready in the next cycle and later words 3 cycles after the
`ERET` (R213). -/
def Stream.resume (t : Stream) (now : Nat) : Stream :=
  let pend := t.ebr.getLsbD 63
  { t with
    pc := pcOf t.epc
    xfer := if pend then some (BitVec.ofNat 64 (t.ebr.toNat % 2 ^ 52 / 4 * 4)) else none
    slots := if pend then t.ebr.toNat / 2 ^ 61 % 4 else 0
    run := .run
    stopped := false
    joined := t.joined.filter fun j => decide (j.1.toNat = t.epc.toNat % 2 ^ 52 / 4 * 4)
    taped := t.taped.filter fun j => decide (j.1.toNat = t.epc.toNat % 2 ^ 52 / 4 * 4)
    firstAt := now + 1
    laterAt := now + 3 }

/-- Return from an exception (R206): the C stream resumes; on a G-core or X-core `mode` becomes 0 and every stream that the
trap stopped resumes, and with `mode` 0 the commands at the queue heads go on. -/
def returnTrap (s : State) (x : Ctx) : State :=
  if x.id.core.isSup then s.putCtx (x.putStream .C ((x.stream .C).resume s.now))
  else
    let y := x.mapStreams fun i t => if i != .C && t.stopped then t.resume s.now else t
    s.putCtx (y.putStream .C { (y.stream .C).resume s.now with mode := false })

/-- Would `ERET` resume a stream with a reserved `ebr.dcnt` (R206, log 25)? -/
def badResume (x : Ctx) : Bool :=
  badEbr (x.stream .C).ebr ||
  (!x.id.core.isSup && [StreamId.A, .L, .S, .N].any fun i => (x.stream i).stopped && badEbr (x.stream i).ebr)

/-! ## Issuing a word -/

/-- The stream whose word is executed, its context, the word's place in the job's issue order, and the s registers as the word found
them when it issued (R28): those of the stream, but for a word that has held it since. -/
structure At where
  ref : StreamRef
  cx : Ctx
  st : Stream
  seq : Nat
  regs : Vector Word 64

/-- An s register as a word that may hold its stream reads it. -/
def At.arg (a : At) (r : SReg) : Word := if r = 0 then 0 else a.regs.get r

/-- How a word ends: it completes and the pc moves on; it has moved the pc itself; it holds its stream; it does not issue yet, and holds
its stream until it may; it stalls on an HBM stack that is not ready; it traps, in the state it leaves. -/
inductive Res where
  | done (s : State)
  | moved (s : State)
  | hold (s : State)
  | wait
  | stall
  | trap (s : State) (c : Cause)

/-- Address of the next word in program order; bits [63:52] of `pc` are zero, so it wraps at 2^52 (log 26). -/
def nextPc (pc : Word) : Word := BitVec.ofNat 64 ((pc.toNat + 4) % 2 ^ 52)

/-- Move on to the next word, or to the target of a transfer whose last delay slot has issued (R30, R88). -/
def Stream.advance (t : Stream) : Stream :=
  match t.slots with
  | 0 => { t with pc := nextPc t.pc, run := .run }
  | 1 => { t with pc := t.xfer.getD (nextPc t.pc), xfer := none, slots := 0, run := .run }
  | n + 2 => { t with pc := nextPc t.pc, slots := n + 1, run := .run }

/-- Update a stream. -/
def State.mapStream (s : State) (r : StreamRef) (f : Stream → Stream) : State :=
  match s.ctx r.ctx with
  | some c => s.putCtx (c.putStream r.st (f (c.stream r.st)))
  | none => s

/-- A word of supervisor core 0's C stream has completed: the last trap is taken up (R327). -/
def takenUp (s : State) (ref : StreamRef) : State :=
  match s.ctx ref.ctx with
  | some c => if c.untaken && decide (ref.st = .C) then s.putCtx { c with untaken := false } else s
  | none => s

/-- What a word's end does to its stream. `s`: the state before the word. -/
def finish (s : State) (a : At) (w : Instr) : Res → State
  | .done t => (takenUp t a.ref).mapStream a.ref Stream.advance
  | .moved t => takenUp t a.ref
  | .hold t => (takenUp t a.ref).mapStream a.ref fun u =>
      match u.run with
      | .held _ => u
      | _ => { u with run := .held ⟨w, s.now, a.seq, some a.regs⟩ }
  | .wait => s.mapStream a.ref fun u =>
      match u.run with
      | .held _ => u
      | _ => { u with run := .held ⟨w, s.now, a.seq, none⟩ }
  | .stall => s.mapStream a.ref fun u => { u with run := .stalled }
  | .trap t c => trapWord t a.ref c

/-- The next place in a core's issue order: it is total, as the core issues one word per cycle (R216). -/
def nextOrder (s : State) (k : CoreId) : Nat :=
  s.ctxs.foldl (fun n d => if d.id.core = k then max n d.order else n) 0

/-- What a word that holds its stream keeps of its issue: its place in the issue order and its operands; none of one that has not issued. -/
def Stream.issued (t : Stream) : Option (Nat × Vector Word 64) :=
  match t.run with
  | .held h => h.regs.map fun v => (h.seq, v)
  | _ => none

/-- The issuing stream; the word takes the next place in the issue order. A word that has held its stream since it issued keeps its place and
its operands. -/
def State.at (s : State) : Option (At × State) :=
  match s.cur with
  | none => none
  | some ref =>
    match s.ctx ref.ctx with
    | none => none
    | some c =>
      match (c.stream ref.st).issued with
      | some h => some (⟨ref, c, c.stream ref.st, h.1, h.2⟩, s)
      | none =>
        let n := nextOrder s ref.ctx.core
        let c' := { c with order := n + 1 }
        some (⟨ref, c', c'.stream ref.st, n, (c'.stream ref.st).s⟩, s.putCtx c')

/-- Detail of an illegal-word trap (R59). -/
def illegalDetail (reason op : Nat) : Nat := reason * 2 ^ 6 + op

/-- An illegal-word trap (R58, R59). -/
def illegal (w : Instr) (reason : Nat) : Cause := ⟨1, illegalDetail reason w.opcode, w.engine, 0⟩

/-- A protection trap with a sub-reason and an object (R137). -/
def protection (w : Instr) (sub obj : Nat) : Cause := ⟨5, sub % 256 * 256 + obj % 256, w.engine, 0⟩

/-- Which A words a core kind does not execute (Table 4.8). -/
def wrongCore (k : CoreId) (w : Instr) : Bool :=
  if w.engine != 2 then false
  else
    match w with
    | .fft .. => !k.isX
    | .ifft .. => !k.isX
    | .shtf .. => !k.isX
    | .shti .. => !k.isX
    | .plan .. => !k.isX
    | _ => !k.isG

/-- Checks 1, 2, 3, 8 and 9 of Table 4.1, and the privilege rule of R205. -/
def precheck (a : At) (w : Instr) : Option Cause :=
  if (w.engine == 1 || w.isVote) && a.ref.st != .C then some (illegal w 3)
  else if w.engine == 7 && a.ref.st != .C then some (illegal w 3)
  else if w.engine == 7 && !a.st.mode then some ⟨2, 0, 7, 0⟩
  else if wrongCore a.ref.ctx.core w then some (illegal w 4)
  else if w.isTransfer && a.st.slots != 0 then some (illegal w 5)
  else if w.engine == 7 && !a.ref.ctx.core.isSup && !w.handlerWord then some ⟨2, 0, 7, 0⟩
  else none

/-- Issue a word: the checks of Table 4.1 that do not depend on its operands' values, then its body. -/
def issue (s : State) (w : Instr) (body : At → State → Res) : Host.Outcome State Fault Refusal :=
  match s.at with
  | none => .fault .noStream
  | some (a, t) =>
    match precheck a w with
    | some c => .next (trapWord t a.ref c)
    | none => .next (finish t a w (body a t))

/-! ## Bodies -/

/-- The state with the issuing stream replaced. -/
def At.put (a : At) (s : State) (t : Stream) : State := s.putStream a.ref t

/-- Complete with a result in flight: exposed, with a latency (R28). -/
def At.expose (a : At) (s : State) (d : Dst) (v : Word) (lat : Nat) : Res :=
  .done (a.put s (a.st.fly a.seq d v (.at (s.now + lat))))

/-- Complete with an interlocked result in flight. -/
def At.interlock (a : At) (s : State) (d : Dst) (v : Word) : Res :=
  .done (a.put s (a.st.fly a.seq d v .interlocked))

/-- Complete with a result of the vector unit in flight, which stands in its register already: what remains is the wait of the words that
read it, and the flags that join `fflags` when the word completes (R26, R106). -/
def At.landV (a : At) (s : State) (d : Dst) (fl : BitVec 5) (due : Due) : State :=
  s.mapStream a.ref fun t => t.flyFlags a.seq d 0 fl due

/-- Turn the answer of an access into the end of a word. -/
def Got.res {α : Type} (x : Got α) (s : State) (eng : Nat) (f : α → Res) : Res :=
  match x with
  | .ok a => f a
  | .fail c d e => .trap s ⟨c, d, eng, e⟩
  | .stall => .stall

end Sys2Proof.Machine
end

