-- ==== Sys2Proof/Machine/Shake.lean ====
section
/-! DEFINITION. SHAKE256 with a 64-byte output (FIPS 202), which R331 to R333 name as the digest of images and measurements: the
permutation on 25 lanes of 64 bits, lane x + 5y in column x and row y, and the sponge of rate 136 bytes. -/

namespace Sys2Proof.Machine

/-- The 25 lanes of the permutation. -/
abbrev Lanes := List Word

def Lanes.at (a : Lanes) (i : Nat) : Word := a.getD i 0

/-- Lanes by their number. -/
def lanesOf (f : Nat → Word) : Lanes := (List.range 25).map f

/-- The parity of a column. -/
def columnParity (a : Lanes) (x : Nat) : Word := a.at x ^^^ a.at (x + 5) ^^^ a.at (x + 10) ^^^ a.at (x + 15) ^^^ a.at (x + 20)

/-- Step theta: each lane takes in the parities of two neighbouring columns. -/
def stepTheta (a : Lanes) : Lanes :=
  let c := (List.range 5).map (columnParity a)
  lanesOf fun i => a.at i ^^^ c.getD ((i + 4) % 5) 0 ^^^ (c.getD ((i + 1) % 5) 0).rotateLeft 1

/-- By how many bits step rho turns a lane. -/
def turnOfLane (i : Nat) : Nat :=
  let rows := [[0, 1, 62, 28, 27], [36, 44, 6, 55, 20], [3, 10, 43, 25, 39], [41, 45, 15, 21, 8], [18, 2, 61, 56, 14]]
  (rows.getD (i / 5) []).getD (i % 5) 0

/-- Steps rho and pi: the lane at (x, y) comes, turned, from (x + 3y, x). -/
def stepRhoPi (a : Lanes) : Lanes :=
  lanesOf fun i =>
    let j := (i % 5 + 3 * (i / 5)) % 5 + 5 * (i % 5)
    (a.at j).rotateLeft (turnOfLane j)

/-- Step chi: each row is mixed with itself. -/
def stepChi (a : Lanes) : Lanes :=
  lanesOf fun i =>
    let row := i / 5 * 5
    a.at i ^^^ (~~~ (a.at (row + (i + 1) % 5)) &&& a.at (row + (i + 2) % 5))

/-- The constants of step iota, round by round. -/
def roundConstants : List Word :=
  [0x0000000000000001, 0x0000000000008082, 0x800000000000808A, 0x8000000080008000, 0x000000000000808B, 0x0000000080000001] ++
  [0x8000000080008081, 0x8000000000008009, 0x000000000000008A, 0x0000000000000088, 0x0000000080008009, 0x000000008000000A] ++
  [0x000000008000808B, 0x800000000000008B, 0x8000000000008089, 0x8000000000008003, 0x8000000000008002, 0x8000000000000080] ++
  [0x000000000000800A, 0x800000008000000A, 0x8000000080008081, 0x8000000000008080, 0x0000000080000001, 0x8000000080008008]

/-- One round. -/
def keccakRound (a : Lanes) (c : Word) : Lanes :=
  let b := stepChi (stepRhoPi (stepTheta a))
  b.set 0 (b.at 0 ^^^ c)

/-- The permutation: 24 rounds. -/
def keccak (a : Lanes) : Lanes := roundConstants.foldl keccakRound a

/-- Bytes that a block of the sponge takes in. -/
def shakeRate : Nat := 136

/-- A block taken in. -/
def absorb (a : Lanes) (block : List Byte) : Lanes :=
  keccak (lanesOf fun i => a.at i ^^^ BitVec.ofNat 64 (leValue ((block.drop (8 * i)).take 8)))

/-- `n` whole blocks taken in, one after another. -/
def absorbAll (a : Lanes) (bs : List Byte) : Nat → Lanes
  | 0 => a
  | n + 1 => absorbAll (absorb a (bs.take shakeRate)) (bs.drop shakeRate) n

/-- The message with the suffix 1111 and the padding, to whole blocks: as bytes, 1F, zeros, and 80 in the last byte. -/
def shakePad (bs : List Byte) : List Byte :=
  let free := shakeRate - bs.length % shakeRate
  bs ++ (if free = 1 then [0x9F] else [0x1F] ++ List.replicate (free - 2) 0 ++ [0x80])

/-- SHAKE256 with a 64-byte output, its first byte in bits [7:0]. -/
def shake256 (bs : List Byte) : BitVec 512 :=
  let p := shakePad bs
  let a := absorbAll (lanesOf fun _ => 0) p (p.length / shakeRate)
  BitVec.ofNat 512 ((List.range 8).foldl (fun n i => n + (a.at i).toNat * 2 ^ (64 * i)) 0)

end Sys2Proof.Machine
end

