-- ==== Sys2Proof/Machine/Hub.lean ====
section
/-! DEFINITION. The hub registers (Tables 13.1, 16.1, 18.1, 20.1 to 20.7): reading, writing, and what a write sets off. The
device window of the supervisor and the management port use the same operations (R247, R322). -/

namespace Sys2Proof.Machine

/-- The low `hi + 1 - lo` bits field of a word, in place: other bits zero. -/
def keepBits (v : Word) (hi lo : Nat) : Word := BitVec.ofNat 64 (bitsN v.toNat hi lo * 2 ^ lo)

/-! ## Checked capacity (R238, R248) -/

/-- The die whose stacks hold a frame. -/
def frameDie (pa : Nat) : Nat := pa / 2 ^ 37 % 4

/-- Bytes of checked pages registered on a die. -/
def chkUsed (m : MemSt) (d : Nat) : Nat :=
  (m.chk.filter fun r => frameDie r.1 == d).foldl (fun n r => n + r.2) 0

/-- `hub.chkstat` after a result about a frame. The free capacity of a frame outside HBM, which lies on no die, is not
stated: a free value (log 21). -/
def chkStatus (s : State) (m : MemSt) (code pa : Nat) : Word :=
  if pa < hbmSize then BitVec.ofNat 64 (((48 * 2 ^ 20 - chkUsed m (frameDie pa)) / 1024) * 2 ^ 32 + code)
  else BitVec.ofNat 64 ((Config.freeWord s.free).toNat / 2 ^ 32 * 2 ^ 32 + code)

/-- The race metadata of a page is cleared. -/
def clearRace (m : MemSt) (pa size : Nat) : MemSt :=
  { m with
    race := m.race.filter fun e => !(decide (pa / 4 ≤ e.granule) && decide (e.granule < (pa + size) / 4))
    atomClk := m.atomClk.filter fun e => !(decide (pa / 4 ≤ e.1) && decide (e.1 < (pa + size) / 4)) }

/-- A write to `hub.chkmap` (R248). A reserved page size code reports 4, of which Table 13.1 says nothing (log 109). A page that overlaps a
registered one of another size is code 2, and changes nothing: R248 does not say
which code it is (log 102). -/
def chkMap (s : State) (v : Word) : State :=
  let pa := bitsN v.toNat 45 12 * 4096
  let size := pageSize (bitsN v.toNat 2 0)
  let set (m : MemSt) (code : Nat) : State := (s.setMem m).setHub { s.hub with chkstat := chkStatus s m code pa }
  if size = 0 ∨ hbmSize ≤ pa ∨ pa % size ≠ 0 then set s.mem 4
  else if s.mem.chk.any fun r => decide (r.1 < pa + size) && decide (pa < r.1 + r.2) then set s.mem 2
  else if 48 * 2 ^ 20 < chkUsed s.mem (frameDie pa) + size then set s.mem 1
  else set (clearRace { s.mem with chk := (pa, size) :: s.mem.chk } pa size) 0

/-- A write to `hub.chkunmap` (R248). A reserved page size code reports 4 (log 109). -/
def chkUnmap (s : State) (v : Word) : State :=
  let pa := bitsN v.toNat 45 12 * 4096
  let size := pageSize (bitsN v.toNat 2 0)
  let set (m : MemSt) (code : Nat) : State := (s.setMem m).setHub { s.hub with chkstat := chkStatus s m code pa }
  if size = 0 ∨ hbmSize ≤ pa ∨ pa % size ≠ 0 then set s.mem 4
  else if s.mem.chk.any fun r => r.1 == pa && r.2 == size then
    set (clearRace { s.mem with chk := s.mem.chk.filter fun r => !(r.1 == pa && r.2 == size) } pa size) 0
  else set s.mem 3

/-! ## Ports and light (R279, R281, R324) -/

/-- A port of the hub. -/
def HubSt.port (h : HubSt) (p : Port) : PortSt := h.ports.get p

def HubSt.putPort (h : HubSt) (p : Port) (x : PortSt) : HubSt := { h with ports := h.ports.set p.val x p.isLt }

def PortSt.lane (x : PortSt) (l : Lane) : LaneSt := x.lanes.get l

def PortSt.putLane (x : PortSt) (l : Lane) (y : LaneSt) : PortSt := { x with lanes := x.lanes.set l.val y l.isLt }

/-- The lanes of a port. -/
def allLanes : List Lane := [0, 1, 2, 3, 4, 5, 6, 7]

/-- `pt.en`. -/
def PortSt.en (x : PortSt) : Bool := x.cfg.getLsbD 3

/-- Is a transmit lane lit (R324)? Without supply light no lane of the port is. After a fatal error the ports that were ready go on (R327). -/
def HubSt.lit (h : HubSt) (p : Port) (l : Lane) : Bool :=
  let x := h.port p
  x.req.getLsbD l.val && x.grant.getLsbD l.val && x.en && (h.rdyPort ||| h.fatalPorts).getLsbD p.val && !(x.lane l).retired && x.supply

/-- Location of a port's lane in `re.loc` (Table 20.6). -/
def laneLoc (p : Port) (l : Lane) : Nat := p.val * 2 ^ 16 + l.val * 2 ^ 22 + 2 ^ 40

/-- Change the state of a lane; a change is logged (R281). -/
def setLane (s : State) (p : Port) (l : Lane) (st : Fin 6) : State :=
  let y := (s.hub.port p).lane l
  if y.state = st then s
  else
    rasLog (s.setHub (s.hub.putPort p ((s.hub.port p).putLane l { y with state := st, fails := 0 }))) 3 0 (laneLoc p l) 1

/-- A lane that becomes lit enters TRAIN (R324). `h0`: the hub before the change. -/
def relight (h0 : HubSt) (p : Port) (s : State) : State :=
  allLanes.foldl (fun t l => if t.hub.lit p l && !h0.lit p l then setLane t p l 1 else t) s

/-- A write to `lt.req`. -/
def writeLightReq (s : State) (p : Port) (v : Word) : State :=
  relight s.hub p (s.setHub (s.hub.putPort p { s.hub.port p with req := v.setWidth 8 }))

/-- A write to `lt.grant` by the manager. -/
def writeLightGrant (s : State) (p : Port) (v : Word) : State :=
  relight s.hub p (s.setHub (s.hub.putPort p { s.hub.port p with grant := v.setWidth 8 }))

/-- A write to `pt.cfg`. -/
def writePortCfg (s : State) (p : Port) (v : Word) : State :=
  relight s.hub p (s.setHub (s.hub.putPort p { s.hub.port p with cfg := keepBits v 3 0 }))

/-- A member word: the reserved bit [14:12] of each of its four entries reads zero. -/
def memberWord (v : Word) : Word := v &&& 0x8FFF8FFF8FFF8FFF

/-- `pt.lane`. -/
def laneWord (x : PortSt) : Word :=
  BitVec.ofNat 64 (x.retries % 2 ^ 32 * 2 ^ 32 +
    allLanes.foldl (fun n l => n + (x.lane l).state.val * 2 ^ (4 * l.val)) 0)

/-! ## Retirement and repair (R329) -/

/-- `rp.stat` with a result; bit [8] while a command is in progress. -/
def rpResult (s : State) (code : Nat) (busy : Bool) : State :=
  s.setHub { s.hub with rpStat := BitVec.ofNat 64 (code + if busy then 256 else 0) }

/-- Location of a core in `re.loc`. -/
def coreLoc (d : Die) (k : Fin 96) : Nat := d.val + k.val * 4

/-- The bit of a core in `rdy.core`, kept as one 96-bit row for each die. -/
def clearCoreReady (h : HubSt) (d : Die) (k : Fin 96) : HubSt :=
  { h with rdyCore := h.rdyCore.set d.val ((h.rdyCore.get d) &&& ~~~ (BitVec.ofNat 96 (2 ^ k.val))) d.isLt }

/-- A retired core's ready bit clears when both its contexts are empty. -/
def dropRetired (s : State) (d : Die) (k : Fin 96) : State :=
  if s.hub.retiredCores.any (fun r => decide (r = (d, k))) && !(s.ctxs.any fun c => decide (c.id.core = .core d k)) then
    s.setHub (clearCoreReady s.hub d k)
  else s

/-- `rp.cmd` 1: retire a core. -/
def retireCore (s : State) (d : Die) (k : Fin 96) : State :=
  dropRetired (rpResult (rasLog (s.setHub { s.hub with retiredCores := (d, k) :: s.hub.retiredCores }) 8 0 (coreLoc d k) 1)
    0 false) d k

/-- `rp.cmd` 2: retire a bank. -/
def retireBank (s : State) (d : Die) (k b : Fin 96) : State :=
  rpResult (rasLog (s.setHub { s.hub with retiredBanks := (d, k, b) :: s.hub.retiredBanks }) 8 0
    (coreLoc d k + b.val * 2 ^ 9) 1) 0 false

/-- `rp.cmd` 3: retire a lane; it enters OFF permanently. -/
def retireLane (s : State) (p : Port) (l : Lane) : State :=
  let y := (s.hub.port p).lane l
  let s1 := s.setHub (s.hub.putPort p ((s.hub.port p).putLane l { y with retired := true }))
  rpResult (rasLog (setLane s1 p l 0) 8 0 (laneLoc p l) 1) 0 false

/-- `rp.cmd` 4: repair an HBM row. -/
def repairRow (s : State) (j : Fin 8) (row : BitVec 32) : State :=
  if Config.spareRows ≤ (s.hub.repairedRows.filter fun r => decide (r.stack = j)).length then rpResult s 1 false
  else
    rpResult (rasLog (s.setHub { s.hub with
      rdyHub := s.hub.rdyHub &&& ~~~ (BitVec.ofNat 64 (2 ^ (12 + j.val)))
      rpBusy := (⟨j, row⟩, s.hub.rdyHub.getLsbD (12 + j.val)) :: s.hub.rpBusy
      repairedRows := ⟨j, row⟩ :: s.hub.repairedRows }) 8 0 (j.val * 2 ^ 25) 1) 0 true

/-- A write to `rp.cmd`; one while a command is in progress is ignored. -/
def writeRpCmd (s : State) (v : Word) : State :=
  let n := v.toNat
  let d : Die := ⟨bitsN n 5 4, Nat.mod_lt _ (by decide)⟩
  if s.hub.rpStat.getLsbD 8 then s
  else
    match bitsN n 3 0 with
    | 1 =>
      if h : bitsN n 12 6 < 96 then
        if n / 2 ^ 13 = 0 then retireCore s d ⟨bitsN n 12 6, h⟩ else rpResult s 2 false
      else rpResult s 2 false
    | 2 =>
      if h : bitsN n 12 6 < 96 ∧ bitsN n 19 13 < 96 then
        if n / 2 ^ 20 = 0 then retireBank s d ⟨bitsN n 12 6, h.1⟩ ⟨bitsN n 19 13, h.2⟩ else rpResult s 2 false
      else rpResult s 2 false
    | 3 =>
      if bitsN n 15 4 = 0 ∧ n / 2 ^ 25 = 0 then
        retireLane s ⟨bitsN n 21 16, Nat.mod_lt _ (by decide)⟩ ⟨bitsN n 24 22, Nat.mod_lt _ (by decide)⟩
      else rpResult s 2 false
    | 4 =>
      if bitsN n 24 4 = 0 ∧ bitsN n 31 28 = 0 then
        repairRow s ⟨bitsN n 27 25, Nat.mod_lt _ (by decide)⟩ (BitVec.ofNat 32 (n / 2 ^ 32))
      else rpResult s 2 false
    | _ => rpResult s 2 false

/-! ## Time, log, power, attestation -/

/-- `tm.step` (R325): the value is added in one cycle; a read of `time` in that cycle may still see the value that the cycle found. -/
def timeStepBy (s : State) (v : Word) : State :=
  { s.setHub { s.hub with tmNow := s.hub.tmNow + keepBits v 31 0 } with
    timeStep := s.timeStep.or (some ⟨s.now, s.hub.tmNow⟩) }

/-- `tm.adj`, clamped to ±2^30. -/
def clampAdj (v : Word) : Word :=
  let x := sextN 32 v.toNat
  let y := if x < -(2 ^ 30) then -(2 ^ 30) else if (2 ^ 30) < x then 2 ^ 30 else x
  BitVec.ofNat 64 (wrapN 32 y)

/-- The slot count a write to `ras.len` stores (R328). -/
def rasSlots (v : Nat) : Nat := if v = 0 then 0 else min (max (2 ^ Nat.log2 v) 64) (2 ^ 20)

def writeRasLen (s : State) (v : Word) : State :=
  s.setHub { s.hub with rasLen := rasSlots v.toNat, rasHead := 0, rasTail := 0 }

def writeRasBase (s : State) (v : Word) : State :=
  s.setHub { s.hub with rasBase := keepBits v 45 5, rasHead := 0, rasTail := 0 }

def writeRasTail (s : State) (v : Word) : State :=
  s.setHub { s.hub with rasTail := if s.hub.rasLen = 0 then 0 else v.toNat % s.hub.rasLen }

/-- A nonce starts a quote and discards the earlier one (R332). -/
def writeNonce (s : State) (v : BitVec 256) : State :=
  s.setHub { s.hub with nonce := v, quoting := true, atReady := false, quote := [] }

/-- A nonce written by 8-byte registers: part `i`. -/
def writeNoncePart (s : State) (i : Nat) (v : Word) : State :=
  let n := s.hub.nonce.toNat
  writeNonce s (BitVec.ofNat 256 (n - bitsN n (64 * i + 63) (64 * i) * 2 ^ (64 * i) + v.toNat * 2 ^ (64 * i)))

/-- The bytes of a measurement or digest. -/
def bytes512 (v : BitVec 512) : List Byte := leBytes 64 v.toNat

/-- Extend a measurement with a digest (R331). -/
def extend (m d : BitVec 512) : BitVec 512 := shake256 (bytes512 m ++ bytes512 d)

/-! ## A module declared lost -/

/-- A write to `hub.lost`: the word or event that made it has the router act on it in the same step (R288). -/
def declareLost (s : State) (f : Fid) : State := s.setRouter { s.router with lostReq := f :: s.router.lostReq }

/-! ## Register access -/

/-- Eight bytes of a list as a register. -/
def listWord (bs : List Byte) (o : Nat) : Word := BitVec.ofNat 64 (leValue ((bs.drop o).take 8))

/-- Word `i` of a 512-bit measurement. -/
def word512 (v : BitVec 512) (i : Nat) : Word := BitVec.ofNat 64 (bitsN v.toNat (64 * i + 63) (64 * i))

/-- `hub.mbxnew`. -/
def mbxNew (h : HubSt) : Word :=
  BitVec.ofNat 64 ((List.finRange 64).foldl (fun n m => n + if (h.mail.get m).new then 2 ^ m.val else 0) 0)

/-- A port register of a block of registers with a stride. -/
def portOf (off base stride : Nat) : Port := ⟨(off - base) / stride % 64, Nat.mod_lt _ (by decide)⟩

def dieOf (n : Nat) : Die := ⟨n % 4, Nat.mod_lt _ (by decide)⟩

def fidOf (n : Nat) : Fid := ⟨n % 4096, Nat.mod_lt _ (by decide)⟩

/-- Read a hub register at a multiple of 8. Write-only registers, and offsets that name none, read zero (R7, log 27). -/
def hubRead (s : State) (off : Nat) : Word :=
  let h := s.hub
  if off = 0x0000 then h.rcbase
  else if off = 0x0018 then h.chkstat
  else if off = 0x0020 then mbxNew h
  else if off = 0x0028 then BitVec.ofNat 64 h.fwdw
  else if off = 0x0038 then h.gangbase
  else if off = 0x0040 then h.sproot
  else if off = 0x0048 then h.strap
  else if 0x1000 ≤ off ∧ off < 0x1800 then
    let x := h.port (portOf off 0x1000 32)
    match off % 32 with
    | 0 => x.cfg
    | 8 => x.mem0
    | 16 => x.mem1
    | _ => laneWord x
  else if off = 0x2000 then h.rdyHub
  else if off = 0x2008 then h.rdyClus
  else if 0x2010 ≤ off ∧ off < 0x2050 then
    let r := h.rdyCore.get (dieOf ((off - 0x2010) / 16))
    if off % 16 = 0 then r.setWidth 64 else BitVec.ofNat 64 (r.toNat / 2 ^ 64)
  else if off = 0x2050 then h.rdyPort
  else if off = 0x2200 then h.tmNow
  else if off = 0x2208 then h.tmAdj
  else if off = 0x2218 then h.tmStat
  else if off = 0x2220 then h.tmRx
  else if off = 0x2228 then h.tmTx
  else if off = 0x2300 then h.rasBase
  else if off = 0x2308 then BitVec.ofNat 64 h.rasLen
  else if off = 0x2310 then BitVec.ofNat 64 h.rasHead
  else if off = 0x2318 then BitVec.ofNat 64 h.rasTail
  else if off = 0x2320 then BitVec.ofNat 64 h.rasLost
  else if off = 0x2328 then h.rasDump
  else if off = 0x2330 then (if h.rasFatal then 1 else 0)
  else if off = 0x2408 then h.rpStat
  else if 0x2500 ≤ off ∧ off < 0x2540 then word512 h.m0 ((off - 0x2500) / 8)
  else if 0x2540 ≤ off ∧ off < 0x2580 then word512 h.m1 ((off - 0x2540) / 8)
  else if 0x2580 ≤ off ∧ off < 0x25C0 then word512 h.m2 ((off - 0x2580) / 8)
  else if 0x25C0 ≤ off ∧ off < 0x25E0 then BitVec.ofNat 64 (h.nonce.toNat / 2 ^ (8 * (off - 0x25C0)))
  else if off = 0x25E0 then (if h.atReady then 1 else 0)
  else if off = 0x2600 then BitVec.ofNat 64 h.pwCap
  else if off = 0x2608 then h.pwNow.setWidth 64
  else if off = 0x2610 then h.pwTemp.setWidth 64
  else if 0x4000 ≤ off ∧ off < 0x4400 then
    let x := h.port (portOf off 0x4000 16)
    if off % 16 = 0 then x.req.setWidth 64 else x.grant.setWidth 64
  else if 0x5000 ≤ off ∧ off < 0x6578 then (if h.atReady then listWord h.quote (off - 0x5000) else 0)
  else if 0x8000 ≤ off then assocGet 0 h.routes (fidOf ((off - 0x8000) / 8))
  else 0

/-- Write a hub register. `manager`: through the management port (R322). A read-only register, a manager's register written by
the supervisor, and an offset that names none ignore the write. `hub.fwdw`, for which Table 16.1 gives 1 to 255, keeps the low 8 bits of what is
written (log 109). -/
def hubWrite (s : State) (off : Nat) (v : Word) (manager : Bool) : State :=
  let h := s.hub
  let n := v.toNat
  if off = 0x0000 then s.setHub { h with rcbase := keepBits v 45 12 }
  else if off = 0x0008 then chkMap s v
  else if off = 0x0010 then chkUnmap s v
  else if off = 0x0028 then s.setHub { h with fwdw := if n % 256 = 0 then 1 else n % 256 }
  else if off = 0x0030 then declareLost s (fidOf n)
  else if off = 0x0038 then s.setHub { h with gangbase := keepBits v 45 12 }
  else if off = 0x0040 then s.setHub { h with sproot := keepBits v 45 12 }
  else if off = 0x0048 then s.setHub { h with strap := keepBits v 51 2 }
  else if 0x1000 ≤ off ∧ off < 0x1800 then
    let p := portOf off 0x1000 32
    match off % 32 with
    | 0 => writePortCfg s p v
    | 8 => s.setHub (h.putPort p { h.port p with mem0 := memberWord v })
    | 16 => s.setHub (h.putPort p { h.port p with mem1 := memberWord v })
    | _ => s
  else if off = 0x2200 then (if manager && !h.timeSet then s.setHub { h with tmNow := v } else s)
  else if off = 0x2208 then (if manager then s.setHub { h with tmAdj := clampAdj v } else s)
  else if off = 0x2210 then (if manager then timeStepBy s v else s)
  else if off = 0x2300 then writeRasBase s v
  else if off = 0x2308 then writeRasLen s v
  else if off = 0x2318 then writeRasTail s v
  else if off = 0x2328 then s.setHub { h with rasDump := keepBits v 45 24 }
  else if off = 0x2400 then writeRpCmd s v
  else if 0x25C0 ≤ off ∧ off < 0x25E0 then (if manager then writeNoncePart s ((off - 0x25C0) / 8) v else s)
  else if off = 0x2600 then (if manager then s.setHub { h with pwCap := min (n % 2 ^ 16) 3200 } else s)
  else if 0x4000 ≤ off ∧ off < 0x4400 then
    let p := portOf off 0x4000 16
    if off % 16 = 0 then writeLightReq s p v else if manager then writeLightGrant s p v else s
  else if 0x8000 ≤ off then s.setHub { h with routes := assocSet h.routes (fidOf ((off - 0x8000) / 8)) (keepBits v 25 0) }
  else s

/-! ## Device windows (R247) -/

/-- A read of a device window: a hub register, HBM uncached, or the host link, of whose reads nothing is stated: a free value
(log 23). -/
def devRead (s : State) (p : Piece) : Word :=
  if inHubWindow p.pa then hubRead s (p.pa - 0x3FFFFFFF0000)
  else if inHostWindow p.pa then Config.freeWord (s.free + 1)
  else BitVec.ofNat 64 (leValue (hbmGets s.mem p.key p.pa 8))

/-- A write of a device window; one to the host link becomes a write to host memory. -/
def devWrite (s : State) (p : Piece) (v : Word) : State :=
  if inHubWindow p.pa then hubWrite s (p.pa - 0x3FFFFFFF0000) v false
  else if inHostWindow p.pa then
    s.setMem { s.mem with hostWrites := s.mem.hostWrites ++ [(p.pa - 0x200000000000, v)] }
  else s.setMem (hbmSets s.mem p.key p.pa (leBytes 8 v.toNat))

/-! ## Accesses by virtual address -/

/-- Load `n` bytes at a virtual address. `dev8`: the access may name a device page (`LD`). -/
def loadVirt (s : State) (w : Who) (k : Kind) (dev8 : Bool) (va n : Nat) : Got (List Byte × State) :=
  (checkAccess s.mem s.hub s.free w k dev8 va n).bind fun r =>
    match r.2 with
    | [p] =>
      if p.leaf.dev then .ok (leBytes 8 (devRead s p).toNat, s.setMem r.1)
      else
        let t := readPieces r.1 w k r.2
        .ok (t.1, s.setMem t.2)
    | ps =>
      let t := readPieces r.1 w k ps
      .ok (t.1, s.setMem t.2)

/-- Store bytes at a virtual address. -/
def storeVirt (s : State) (w : Who) (k : Kind) (dev8 : Bool) (va : Nat) (bs : List Byte) : Got State :=
  (checkAccess s.mem s.hub s.free w k dev8 va bs.length).bind fun r =>
    match r.2 with
    | [p] =>
      if p.leaf.dev then .ok (devWrite (s.setMem r.1) p (BitVec.ofNat 64 (leValue bs)))
      else .ok (s.setMem (writePieces r.1 w k r.2 bs))
    | ps => .ok (s.setMem (writePieces r.1 w k ps bs))

/-- What the last atomic writes of an access's granules have released (Table 11.3). -/
def atomAcquire (s : State) (w : Who) (va n : Nat) : Clock :=
  match checkAccess { s.mem with race := [] } s.hub s.free w .atomic false va n with
  | .ok r => r.2.foldl (fun c p => Clock.join c (atomSeen s.mem w p (p.pa / 4) (granules p.pa p.len))) []
  | _ => []

/-- What an agent releases: its clock, counted on. A `VXC` releases the accesses of its stream before it, too (R98, R266). -/
def Who.release (w : Who) : Clock := Clock.tick (if agentOf w.agent = w.agent then w.clk else Clock.tick w.clk (agentOf w.agent)) w.agent

/-- Perform a checked atomic pair (R96, R228): the bytes read, `f`'s bytes in their place, if any, and what a write releases. -/
def atomPerform (m : MemSt) (w : Who) (ps : List Piece) (f : List Byte → Option (List Byte)) : List Byte × MemSt × Clock :=
  let old := (readPieces m w .atomic ps).1
  match f old with
  | some bs =>
    let c := w.release
    (old, ps.foldl (fun k p => atomRelease k w p c (p.pa / 4) (granules p.pa p.len)) (writePieces m w .atomic ps bs), c)
  | none => (old, (readPieces m w .atomic ps).2, w.clk)

/-- An atomic pair at a virtual address: it acquires what the last atomic writes of its bytes released, passes its checks, and
releases (R98): the bytes read, the state, and the clock of its agent after it, which the agent keeps. -/
def atomicVirt (s : State) (w : Who) (va n : Nat) (f : List Byte → Option (List Byte)) : Got (List Byte × State) :=
  let u := { w with clk := Clock.join w.clk (atomAcquire s w va n) }
  (checkAccess s.mem s.hub s.free u .atomic false va n).bind fun r =>
    let q := atomPerform r.1 u r.2 f
    .ok (q.1, setClock (s.setMem q.2.1) u q.2.2)

end Sys2Proof.Machine
end

