-- ==== Sys2Proof/Machine/Scalar.lean ====
section
/-! DEFINITION. Integer, condition-slot and system-register words of the control engine (spec/05_control_engine.md, R79-R85,
R104). -/

namespace Sys2Proof

/-- May a job's own stream write the register with `SRW` (class J)? -/
def SysReg.classJ : SysReg → Bool
  | .round => true | .fflags => true | .satfp => true | .epc => true | .ebr => true | .agebound => true
  | .leaselen => true | .wdog => true
  | .pc => false | .role => false | .ecause => false | .eaddr => false | .time => false | .step => false
  | .vbusy => false | .dmode => false | .mode => false | .tinfo => false

end Sys2Proof

namespace Sys2Proof.Machine

/-- Register-register word with an exposed result (R79). -/
def binS (a : At) (s : State) (d x y : SReg) (lat : Nat) (f : Word → Word → Word) : Res :=
  a.expose s (.s d) (f (a.st.sreg x) (a.st.sreg y)) lat

/-- Register-immediate word (R79). -/
def immS (a : At) (s : State) (d x : SReg) (y : Word) (f : Word → Word → Word) : Res :=
  a.expose s (.s d) (f (a.st.sreg x) y) 1

/-- Shift amount: bits [5:0] of b. -/
def shAmt (b : Word) : Nat := b.toNat % 64

def sll64 (a b : Word) : Word := a <<< shAmt b
def srl64 (a b : Word) : Word := a >>> shAmt b
def sra64 (a b : Word) : Word := a.sshiftRight (shAmt b)
def slt64 (a b : Word) : Word := if a.slt b then 1 else 0
def sltu64 (a b : Word) : Word := if a.ult b then 1 else 0
def min64 (a b : Word) : Word := if b.slt a then b else a
def minu64 (a b : Word) : Word := if b.ult a then b else a
def max64 (a b : Word) : Word := if a.slt b then b else a
def maxu64 (a b : Word) : Word := if a.ult b then b else a
/-- Bits 127 to 64 of the signed product. -/
def mulh64 (a b : Word) : Word := BitVec.ofInt 64 (a.toInt * b.toInt / (2 : Int) ^ 64)
/-- Bits 127 to 64 of the unsigned product. -/
def mulhu64 (a b : Word) : Word := BitVec.ofNat 64 (a.toNat * b.toNat / 2 ^ 64)

/-- Set flags of a stream (R26): they are ORed in. -/
def Stream.orFlags (t : Stream) (f : FFlags) : Stream := { t with fflags := t.fflags ||| f }

/-- A divide word (R81, R82): an interlocked result, with DZ for the issuing stream when the word completes (R26). -/
def divS (a : At) (s : State) (d : SReg) (r : Nat × FFlags) : Res :=
  .done (a.put s (a.st.flyFlags a.seq (.s d) (BitVec.ofNat 64 r.1) r.2 .divider))

/-- A condition-slot result (R83). -/
def condS (a : At) (s : State) (c : CSlot) (v : Bool) : Res := a.expose s (.c c) (if v then 1 else 0) 1

/-- NOP (R104): an issue cycle and nothing else. -/
def execNop (s : State) : Host.Outcome State Fault Refusal := issue s .nop fun _ t => .done t

/-- `ADD`: d := a + b (R79). -/
def execAdd (d a b : SReg) (s : State) : Host.Outcome State Fault Refusal :=
  issue s (.add d a b) fun w t => binS w t d a b 1 (· + ·)

/-- `SUB`: d := a − b (R79). -/
def execSub (d a b : SReg) (s : State) : Host.Outcome State Fault Refusal :=
  issue s (.sub d a b) fun w t => binS w t d a b 1 (· - ·)

/-- `AND`: bitwise and (R79). -/
def execAnd (d a b : SReg) (s : State) : Host.Outcome State Fault Refusal :=
  issue s (.and d a b) fun w t => binS w t d a b 1 (· &&& ·)

/-- `OR`: bitwise or (R79). -/
def execOr (d a b : SReg) (s : State) : Host.Outcome State Fault Refusal :=
  issue s (.or d a b) fun w t => binS w t d a b 1 (· ||| ·)

/-- `XOR`: bitwise xor (R79). -/
def execXor (d a b : SReg) (s : State) : Host.Outcome State Fault Refusal :=
  issue s (.xor d a b) fun w t => binS w t d a b 1 (· ^^^ ·)

/-- `SLL`: shift left (R79). -/
def execSll (d a b : SReg) (s : State) : Host.Outcome State Fault Refusal :=
  issue s (.sll d a b) fun w t => binS w t d a b 1 sll64

/-- `SRL`: shift right, unsigned (R79). -/
def execSrl (d a b : SReg) (s : State) : Host.Outcome State Fault Refusal :=
  issue s (.srl d a b) fun w t => binS w t d a b 1 srl64

/-- `SRA`: shift right, signed (R79). -/
def execSra (d a b : SReg) (s : State) : Host.Outcome State Fault Refusal :=
  issue s (.sra d a b) fun w t => binS w t d a b 1 sra64

/-- `SLT`: signed less (R79). -/
def execSlt (d a b : SReg) (s : State) : Host.Outcome State Fault Refusal :=
  issue s (.slt d a b) fun w t => binS w t d a b 1 slt64

/-- `SLTU`: unsigned less (R79). -/
def execSltu (d a b : SReg) (s : State) : Host.Outcome State Fault Refusal :=
  issue s (.sltu d a b) fun w t => binS w t d a b 1 sltu64

/-- `MIN`: signed minimum (R79). -/
def execMin (d a b : SReg) (s : State) : Host.Outcome State Fault Refusal :=
  issue s (.min d a b) fun w t => binS w t d a b 1 min64

/-- `MINU`: unsigned minimum (R79). -/
def execMinu (d a b : SReg) (s : State) : Host.Outcome State Fault Refusal :=
  issue s (.minu d a b) fun w t => binS w t d a b 1 minu64

/-- `MAX`: signed maximum (R79). -/
def execMax (d a b : SReg) (s : State) : Host.Outcome State Fault Refusal :=
  issue s (.max d a b) fun w t => binS w t d a b 1 max64

/-- `MAXU`: unsigned maximum (R79). -/
def execMaxu (d a b : SReg) (s : State) : Host.Outcome State Fault Refusal :=
  issue s (.maxu d a b) fun w t => binS w t d a b 1 maxu64

/-- `MUL`: low half of the product, 3 cycles (R79). -/
def execMul (d a b : SReg) (s : State) : Host.Outcome State Fault Refusal :=
  issue s (.mul d a b) fun w t => binS w t d a b 3 (· * ·)

/-- `MULH`: high half, signed, 3 cycles (R79). -/
def execMulh (d a b : SReg) (s : State) : Host.Outcome State Fault Refusal :=
  issue s (.mulh d a b) fun w t => binS w t d a b 3 mulh64

/-- `MULHU`: high half, unsigned, 3 cycles (R79). -/
def execMulhu (d a b : SReg) (s : State) : Host.Outcome State Fault Refusal :=
  issue s (.mulhu d a b) fun w t => binS w t d a b 3 mulhu64

/-- `DIVS`: signed quotient (R81). -/
def execDivs (d a b : SReg) (s : State) : Host.Outcome State Fault Refusal :=
  issue s (.divs d a b) fun w t => 
    let r := divSigned 64 (w.st.sreg a).toNat (w.st.sreg b).toNat
    divS w t d (r.1, r.2.2)

/-- `REMS`: signed remainder (R81). -/
def execRems (d a b : SReg) (s : State) : Host.Outcome State Fault Refusal :=
  issue s (.rems d a b) fun w t => 
    let r := divSigned 64 (w.st.sreg a).toNat (w.st.sreg b).toNat
    divS w t d (r.2.1, r.2.2)

/-- `DIVN`: unsigned quotient (R81). -/
def execDivn (d a b : SReg) (s : State) : Host.Outcome State Fault Refusal :=
  issue s (.divn d a b) fun w t => 
    let r := divUnsigned 64 (w.st.sreg a).toNat (w.st.sreg b).toNat
    divS w t d (r.1, r.2.2)

/-- `REMN`: unsigned remainder (R81). -/
def execRemn (d a b : SReg) (s : State) : Host.Outcome State Fault Refusal :=
  issue s (.remn d a b) fun w t => 
    let r := divUnsigned 64 (w.st.sreg a).toNat (w.st.sreg b).toNat
    divS w t d (r.2.1, r.2.2)

/-- `ADDI`: d := a + sext(imm11) (R79). -/
def execAddi (d a : SReg) (i : BitVec 11) (s : State) : Host.Outcome State Fault Refusal :=
  issue s (.addi d a i) fun w t => immS w t d a (i.signExtend 64) (· + ·)

/-- `ANDI`: and with sext(imm11) (R79). -/
def execAndi (d a : SReg) (i : BitVec 11) (s : State) : Host.Outcome State Fault Refusal :=
  issue s (.andi d a i) fun w t => immS w t d a (i.signExtend 64) (· &&& ·)

/-- `ORI`: or with sext(imm11) (R79). -/
def execOri (d a : SReg) (i : BitVec 11) (s : State) : Host.Outcome State Fault Refusal :=
  issue s (.ori d a i) fun w t => immS w t d a (i.signExtend 64) (· ||| ·)

/-- `XORI`: xor with sext(imm11) (R79). -/
def execXori (d a : SReg) (i : BitVec 11) (s : State) : Host.Outcome State Fault Refusal :=
  issue s (.xori d a i) fun w t => immS w t d a (i.signExtend 64) (· ^^^ ·)

/-- `SLTI`: signed less than sext(imm11) (R79). -/
def execSlti (d a : SReg) (i : BitVec 11) (s : State) : Host.Outcome State Fault Refusal :=
  issue s (.slti d a i) fun w t => immS w t d a (i.signExtend 64) slt64

/-- `SLTIU`: unsigned less than sext(imm11) widened (R79). -/
def execSltiu (d a : SReg) (i : BitVec 11) (s : State) : Host.Outcome State Fault Refusal :=
  issue s (.sltiu d a i) fun w t => immS w t d a (i.signExtend 64) sltu64

/-- `SLLI`: shift left by imm (R79). -/
def execSlli (d a : SReg) (i : Fin 64) (s : State) : Host.Outcome State Fault Refusal :=
  issue s (.slli d a i) fun w t => immS w t d a (BitVec.ofNat 64 i.val) sll64

/-- `SRLI`: shift right, unsigned, by imm (R79). -/
def execSrli (d a : SReg) (i : Fin 64) (s : State) : Host.Outcome State Fault Refusal :=
  issue s (.srli d a i) fun w t => immS w t d a (BitVec.ofNat 64 i.val) srl64

/-- `SRAI`: shift right, signed, by imm (R79). -/
def execSrai (d a : SReg) (i : Fin 64) (s : State) : Host.Outcome State Fault Refusal :=
  issue s (.srai d a i) fun w t => immS w t d a (BitVec.ofNat 64 i.val) sra64

/-- `LI`: d := sext(imm17) (R80). -/
def execLi (d : SReg) (i : BitVec 17) (s : State) : Host.Outcome State Fault Refusal :=
  issue s (.li d i) fun w t => w.expose t (.s d) (i.signExtend 64) 1

/-- `LSI`: d := d × 2^17 + imm17 (R80). -/
def execLsi (d : SReg) (i : BitVec 17) (s : State) : Host.Outcome State Fault Refusal :=
  issue s (.lsi d i) fun w t => w.expose t (.s d) ((w.st.sreg d <<< 17) ||| i.setWidth 64) 1

/-- `CMPEQ`: equal (R83). -/
def execCmpeq (c : CSlot) (a b : SReg) (s : State) : Host.Outcome State Fault Refusal :=
  issue s (.cmpeq c a b) fun w t => condS w t c (w.st.sreg a == w.st.sreg b)

/-- `CMPNE`: not equal (R83). -/
def execCmpne (c : CSlot) (a b : SReg) (s : State) : Host.Outcome State Fault Refusal :=
  issue s (.cmpne c a b) fun w t => condS w t c (w.st.sreg a != w.st.sreg b)

/-- `CMPLT`: signed less (R83). -/
def execCmplt (c : CSlot) (a b : SReg) (s : State) : Host.Outcome State Fault Refusal :=
  issue s (.cmplt c a b) fun w t => condS w t c ((w.st.sreg a).slt (w.st.sreg b))

/-- `CMPLTU`: unsigned less (R83). -/
def execCmpltu (c : CSlot) (a b : SReg) (s : State) : Host.Outcome State Fault Refusal :=
  issue s (.cmpltu c a b) fun w t => condS w t c ((w.st.sreg a).ult (w.st.sreg b))

/-- `CMPGE`: signed not less (R83). -/
def execCmpge (c : CSlot) (a b : SReg) (s : State) : Host.Outcome State Fault Refusal :=
  issue s (.cmpge c a b) fun w t => condS w t c (!(w.st.sreg a).slt (w.st.sreg b))

/-- `CMPGEU`: unsigned not less (R83). -/
def execCmpgeu (c : CSlot) (a b : SReg) (s : State) : Host.Outcome State Fault Refusal :=
  issue s (.cmpgeu c a b) fun w t => condS w t c (!(w.st.sreg a).ult (w.st.sreg b))

/-- `CAND`: ca and cb (R83). -/
def execCand (d a b : CSlot) (s : State) : Host.Outcome State Fault Refusal :=
  issue s (.cand d a b) fun w t => condS w t d (w.st.creg a && w.st.creg b)

/-- `COR`: ca or cb (R83). -/
def execCor (d a b : CSlot) (s : State) : Host.Outcome State Fault Refusal :=
  issue s (.cor d a b) fun w t => condS w t d (w.st.creg a || w.st.creg b)

/-- `CXOR`: ca xor cb (R83). -/
def execCxor (d a b : CSlot) (s : State) : Host.Outcome State Fault Refusal :=
  issue s (.cxor d a b) fun w t => condS w t d (w.st.creg a != w.st.creg b)

/-- `CANDN`: ca and not cb (R83). -/
def execCandn (d a b : CSlot) (s : State) : Host.Outcome State Fault Refusal :=
  issue s (.candn d a b) fun w t => condS w t d (w.st.creg a && !w.st.creg b)

/-! ## System registers (Table 2.3) -/

/-- `time` as a word of this cycle reads it (R101, R325): in the cycle of a time step the old or the new value, by a free choice of the
cycle, so that the cores of the module read one value in it (log 4). -/
def readTime (s : State) : Word :=
  match s.timeStep with
  | some x => if x.cycle = s.now ∧ Config.choice (2 ^ 63 + s.now) % 2 = 0 then x.old else s.hub.tmNow
  | none => s.hub.tmNow

/-- Reading a system register (Table 2.3) of a stream `t` of a context `c`. `pc` is given by the caller: the next word's
address. DESIGN CHOICE (log 93): `vbusy`, whose scope in Table 2.3 is the C stream, reads the same in every stream of the job: whether its
`VXC` is in progress. -/
def readSys (s : State) (c : Ctx) (t : Stream) (pc : Word) : SysReg → Word
  | .pc => pc
  | .role => BitVec.ofNat 64 t.role.val
  | .round => BitVec.ofNat 64 t.round.val
  | .fflags => t.fflags.setWidth 64
  | .satfp => if t.satfp then 1 else 0
  | .epc => t.epc
  | .ecause => t.ecause
  | .eaddr => t.eaddr
  | .ebr => t.ebr
  | .agebound => BitVec.ofNat 64 t.agebound
  | .leaselen => BitVec.ofNat 64 (c.leaseCmds * 2 ^ 16 + c.leaseCycles)
  | .time => readTime s
  | .step => c.card.step.setWidth 64
  | .wdog => BitVec.ofNat 64 t.wdog
  | .vbusy => if c.vxc.isSome then 1 else 0
  | .dmode => BitVec.ofNat 64 c.dmode.val
  | .mode => if t.mode then 1 else 0
  | .tinfo => c.tinfo

/-- `ebr` with its reserved bits zero (Table 2.6). -/
def ebrMask (v : Word) : Word := v &&& 0xE00FFFFFFFFFFFFC

/-- Writing a register of class J, with the floors of R84; the others keep their value. -/
def writeSys (c : Ctx) (x : StreamId) (n : SysReg) (v : Word) : Ctx :=
  let t := c.stream x
  match n with
  | .round => c.putStream x { t with round := ⟨v.toNat % 4, Nat.mod_lt _ (by decide)⟩ }
  | .fflags => c.putStream x { t with fflags := v.setWidth 5 }
  | .satfp => c.putStream x { t with satfp := v.getLsbD 0 }
  | .epc => c.putStream x { t with epc := v }
  | .ebr => c.putStream x { t with ebr := ebrMask v }
  | .agebound => c.putStream x { t with agebound := max (v.toNat % 2 ^ 16) 64 }
  | .wdog => c.putStream x { t with wdog := max (v.toNat % 2 ^ 32) 1024 }
  | .leaselen => { c with
      leaseCmds := if v.toNat / 2 ^ 16 % 256 = 0 then 1 else v.toNat / 2 ^ 16 % 256
      leaseCycles := max (v.toNat % 2 ^ 16) 256 }
  | .pc => c | .role => c | .ecause => c | .eaddr => c | .time => c | .step => c | .vbusy => c | .dmode => c
  | .mode => c | .tinfo => c

/-- Has a V word of a stream not completed yet (R85, R106)? -/
def vectorPending (c : Ctx) (x : StreamId) : Bool :=
  (x == .C && c.vxc.isSome) || (c.stream x).flight.any Flight.vector

/-- Body of `SRR` (R84, R85): a read of `fflags` waits for every V word of the stream. -/
def srrBody (d : SReg) (n : SysReg) (w : At) (t : State) : Res :=
  if n = .fflags ∧ vectorPending w.cx w.ref.st = true then .hold t
  else w.expose t (.s d) (readSys t w.cx w.st w.st.advance.pc n) 1

/-- `SRR` (R84). -/
def execSrr (d : SReg) (n : SysReg) (s : State) : Host.Outcome State Fault Refusal := issue s (.srr d n) (srrBody d n)

/-- Body of `SRW` (R84): a job's write to a register of class JR is a privilege trap (R25); on supervisor core 0 it is ignored. -/
def srwBody (a : SReg) (n : SysReg) (w : At) (t : State) : Res :=
  if n.classJ then .done (t.putCtx (writeSys w.cx w.ref.st n (w.st.sreg a)))
  else if w.ref.ctx.core.isSup then .done t
  else .trap t ⟨2, 0, 0, 0⟩

/-- `SRW` (R84). -/
def execSrw (a : SReg) (n : SysReg) (s : State) : Host.Outcome State Fault Refusal := issue s (.srw a n) (srwBody a n)

end Sys2Proof.Machine
end

