-- ==== Sys2Proof/Machine/Branch.lean ====
section
/-! DEFINITION. Branches, votes, fences, time and `TRAP` (spec/05_control_engine.md, R86-R91, R99-R103). -/

namespace Sys2Proof.Machine

/-- Is an address beyond the 52 bits of a virtual address? -/
def beyondVa (v : Word) : Bool := decide (2 ^ 52 ≤ v.toNat)

/-- `BPT`: the address of the word plus 4 × imm17 into a b register, 2 cycles (R86). -/
def execBpt (b : BReg) (i : BitVec 17) (s : State) : Host.Outcome State Fault Refusal :=
  issue s (.bpt b i) fun w t =>
    let tgt := w.st.pc + (i.signExtend 64 <<< 2)
    if beyondVa tgt then .trap t ⟨4, 0, 0, tgt.toNat⟩ else w.expose t (.b b) tgt 2

/-- `BPTR`: a + 4 × imm11 into a b register, 2 cycles (R86). DESIGN CHOICE (log 93): of a target that is misaligned and beyond 52 bits, the
alignment fault is raised, in the order in which R86 names the two. -/
def execBptr (b : BReg) (a : SReg) (i : BitVec 11) (s : State) : Host.Outcome State Fault Refusal :=
  issue s (.bptr b a i) fun w t =>
    let tgt := w.st.sreg a + (i.signExtend 64 <<< 2)
    if tgt.toNat % 4 ≠ 0 then .trap t ⟨3, 0, 0, tgt.toNat⟩
    else if beyondVa tgt then .trap t ⟨4, 0, 0, tgt.toNat⟩
    else w.expose t (.b b) tgt 2

/-- `BJT`: a target from the jump table at a, by index i (R87); interlocked. DESIGN CHOICE (log 93): its two reads are plain also where the table
lies in a registered D-region, in record and reverse mode: no register of the word carries an adjoint. -/
def execBjt (b : BReg) (a i : SReg) (s : State) : Host.Outcome State Fault Refusal :=
  issue s (.bjt b a i) fun w t =>
    let x := w.st.sreg a
    let who := whoStream t w.cx w.ref.st
    if x.toNat % 4 ≠ 0 then .trap t ⟨3, 0, 0, x.toNat⟩
    else (loadVirt t who .load false x.toNat 4).res t 0 fun r =>
      let n := leValue r.1
      let k := if (w.st.sreg i).toNat < n then (w.st.sreg i).toNat + 1 else n + 1
      let ea := x + BitVec.ofNat 64 (4 * k)
      (loadVirt r.2 who .load false ea.toNat 4).res t 0 fun q =>
        let tgt := x + ((BitVec.ofNat 32 (leValue q.1)).signExtend 64 <<< 2)
        if beyondVa tgt then .trap t ⟨4, 0, 0, tgt.toNat⟩ else w.interlock q.2 (.b b) tgt

/-- A transfer word (R88): the next two words are its delay slots, taken or not. `link`: the register that receives the address
of the word plus 12 when the transfer is taken. -/
def transfer (w : At) (t : State) (link : Option SReg) (b : BReg) (taken : Bool) : Res :=
  let u := { w.st with pc := nextPc w.st.pc, xfer := if taken then some (w.st.breg b) else none, slots := 2 }
  let u := match link with
    | some l => if taken then u.fly w.seq (.s l) (w.st.pc + 12) (.at (t.now + 1)) else u
    | none => u
  .moved (w.put t u)

/-- `BTR bN, cM`: transfer when cM is 1 (R88). -/
def execBtr (b : BReg) (c : CSlot) (s : State) : Host.Outcome State Fault Refusal :=
  issue s (.btr b c) fun w t => transfer w t none b (w.st.creg c)

/-- `BTR bN, !cM`: transfer when cM is 0 (R88). -/
def execBtrFalse (b : BReg) (c : CSlot) (s : State) : Host.Outcome State Fault Refusal :=
  issue s (.btrFalse b c) fun w t => transfer w t none b (!w.st.creg c)

/-- `BTR bN`: transfer always (R88). -/
def execBtrAlways (b : BReg) (s : State) : Host.Outcome State Fault Refusal :=
  issue s (.btrAlways b) fun w t => transfer w t none b true

/-- `BTRL sL, bN, cM` (R88). -/
def execBtrl (l : SReg) (b : BReg) (c : CSlot) (s : State) : Host.Outcome State Fault Refusal :=
  issue s (.btrl l b c) fun w t => transfer w t (some l) b (w.st.creg c)

/-- `BTRL sL, bN, !cM` (R88). -/
def execBtrlFalse (l : SReg) (b : BReg) (c : CSlot) (s : State) : Host.Outcome State Fault Refusal :=
  issue s (.btrlFalse l b c) fun w t => transfer w t (some l) b (!w.st.creg c)

/-- `BTRL sL, bN` (R88). -/
def execBtrlAlways (l : SReg) (b : BReg) (s : State) : Host.Outcome State Fault Refusal :=
  issue s (.btrlAlways l b) fun w t => transfer w t (some l) b true

/-- Reading a predicate: p0 reads all ones (Table 2.1). -/
def Ctx.preg (c : Ctx) (p : PReg) : BitVec 64 := if p = 0 then BitVec.allOnes 64 else c.p.get p

/-- `VANY`: the OR of the 64 bits (R91). It issues when the V words that write the predicate have completed. -/
def execVany (c : CSlot) (p : PReg) (s : State) : Host.Outcome State Fault Refusal :=
  issue s (.vany c p) fun w t => condS w t c (w.cx.preg p != 0)

/-- `VALL`: the AND of the 64 bits (R91). -/
def execVall (c : CSlot) (p : PReg) (s : State) : Host.Outcome State Fault Refusal :=
  issue s (.vall c p) fun w t => condS w t c (w.cx.preg p == BitVec.allOnes 64)

/-- `FENCE` (R99, R100): every access of the model is performed in the step of its word, so the order it asks for holds when it
issues (log 3). -/
def execFence (k : BitVec 4) (sc : Scope) (s : State) : Host.Outcome State Fault Refusal :=
  issue s (.fence k sc) fun _ t => .done t

/-- `WAITT` (R102): completes when `time` has reached the register; else the stream stalls until it has. -/
def execWaitt (a : SReg) (s : State) : Host.Outcome State Fault Refusal :=
  issue s (.waitt a) fun w t =>
    if (w.st.sreg a).toNat ≤ (readTime t).toNat then .done t
    else .moved (w.put t { w.st with run := .waitt (w.st.sreg a) })

/-- `RDTIME` (R101). -/
def execRdtime (d : SReg) (s : State) : Host.Outcome State Fault Refusal :=
  issue s (.rdtime d) fun w t => w.expose t (.s d) (readTime t) 1

/-- `TRAP code` (R103): cause 18. -/
def execTrap (i : BitVec 16) (s : State) : Host.Outcome State Fault Refusal :=
  issue s (.trap i) fun _ t => .trap t ⟨18, i.toNat, 0, 0⟩

end Sys2Proof.Machine
end

