-- ==== Sys2Proof/Machine/Adjoint.lean ====
section
/-! DEFINITION. Accesses to D-regions in record and reverse mode, the tape (R199, R200, R263-R271), and the words that control them
(R197, R198, R201). -/

namespace Sys2Proof.Machine

/-! ## Regions -/

/-- Bytes of an element of a data type of Table 9.9. -/
def dtSize (t : Fin 4) : Nat := if t = 0 then 4 else if t = 1 then 2 else 8

/-- `tr.w` of an element. -/
def dtWidthCode (t : Fin 4) : Nat := if t = 0 then 1 else if t = 1 then 0 else 2

/-- Bytes of the adjoint cell of an element (Table 14.1). -/
def cellSize (t : Fin 4) : Nat := if t = 2 then 8 else 4

/-- Format of the cell. -/
def cellFmt (t : Fin 4) : FloatFmt := if t = 2 then f64 else f32

/-- Shadow address of an element (Table 14.1). -/
def shadowOf (t : Fin 4) (a : Nat) : Nat :=
  if t = 1 then 0x000C000000000000 + 2 * a else 0x0008000000000000 + a

/-- Does a range touch a D-region? -/
def DRegion.touches (r : DRegion) (va len : Nat) : Bool :=
  decide (va < r.base + r.pages * 4096) && decide (r.base < va + len)

/-- Does it lie wholly inside? -/
def DRegion.covers (r : DRegion) (va len : Nat) : Bool :=
  decide (r.base ≤ va) && decide (va + len ≤ r.base + r.pages * 4096)

/-- Register a region: the list is in address order, so that an access which straddles two regions meets the lower one first (log 30). -/
def insertRegion (r : DRegion) : List DRegion → List DRegion
  | [] => [r]
  | x :: l => if r.base < x.base then r :: x :: l else x :: insertRegion r l

/-- What an access is to the job's D-regions (R199). -/
inductive DAccess where
  | plain
  | inside (r : DRegion)
  | straddles (idx : Nat)

/-- In primal mode every access is plain; in the other modes one that touches a D-region lies inside it, or straddles its edge
(R199, log 30). -/
def dAccess (c : Ctx) (va len : Nat) : DAccess :=
  if c.dmode = 0 then .plain
  else
    match c.dregs.find? fun r => r.touches va len with
    | none => .plain
    | some r => if r.covers va len then .inside r else .straddles r.idx.val

/-- The addresses of `n` elements from `a`. -/
def elemAddrs (size a : Nat) : Nat → List Nat
  | 0 => []
  | n + 1 => a :: elemAddrs size (a + size) n

/-- Is an address in a shadow window: the shadow of some element of a region, which lies below 2^49 (R263, Table 14.1)? -/
def inShadow (a : Nat) : Bool :=
  (decide (0x0008000000000000 ≤ a) && decide (a < 0x000A000000000000)) || (decide (0x000C000000000000 ≤ a) && decide (a < 0x0010000000000000))

/-! ## Pushing (R200, R267, R268) -/

/-- `tr.seq` (R267): the push index modulo 1,024; a `pos` below `base` counts down from 1,023. -/
def tapeSeq (pos base : Nat) : Nat := (((pos : Int) - base) / 16 % 1024).toNat

/-- The bytes of a tape record (Table 14.2). -/
def tapeRecord (old seq wcode va : Nat) : List Byte :=
  leBytes 16 (old * 2 ^ 64 + seq % 1024 * 2 ^ 54 + wcode * 2 ^ 52 + va % 2 ^ 52)

/-- Push one record: the old value of the element at `va`. -/
def pushTape (s : State) (x : CtxId) (w : Who) (old wcode va : Nat) : Got State :=
  match s.ctx x with
  | none => .ok s
  | some c =>
    let pos := c.tapePos.toNat
    if c.tapeLim.toNat < pos + 16 then .fail 8 0 0
    else if inShadow pos || c.dregs.any fun r => r.touches pos 16 then .fail 7 66 0
    else
      (storeVirt s w .store false pos
        (tapeRecord old (tapeSeq pos c.tapeBase.toNat) wcode va)).bind fun t =>
        .ok (match t.ctx x with
          | some d => t.putCtx { d with tapePos := BitVec.ofNat 64 (pos + 16) }
          | none => t)

/-- Record-mode write of one element: checks of the element, then its push, then the write (R199). -/
def recordElem (s : State) (x : CtxId) (w : Who) (t : Fin 4) (a : Nat) (bs : List Byte) : Got State :=
  if a % dtSize t ≠ 0 then .fail 3 0 a
  else
    (checkAccess s.mem s.hub s.free w .store false a bs.length).bind fun r =>
      let old := leValue (readPieces r.1 w .store r.2).1
      (pushTape (s.setMem r.1) x w old (dtWidthCode t) a).bind fun u =>
        storeVirt u w .store false a bs

/-- Record-mode writes of elements (data type, address, bytes) in ascending order. The elements before a failing one stay
written, with their records (R275): the state so far and their number, from `n` on, come with the answer. -/
def recordElems (s : State) (x : CtxId) (w : Who) (n : Nat) : List (Fin 4 × Nat × List Byte) → State × Nat × Got Unit
  | [] => (s, n, .ok ())
  | e :: es =>
    match recordElem s x w e.1 e.2.1 e.2.2 with
    | .ok u => recordElems u x w (n + 1) es
    | .fail c d a => (s, n, .fail c d a)
    | .stall => (s, n, .stall)

/-! ## Shadow cells (R264-R266) -/

/-- The agent once it has acquired what the last atomic write of an element's cell has released (R98, R266, Table 11.3). -/
def Who.atCell (w : Who) (s : State) (r : DRegion) (a : Nat) : Who :=
  { w with clk := Clock.join w.clk (atomAcquire s w (shadowOf r.type a) (cellSize r.type)) }

/-- Check of a shadow cell: module-coherent, and R93 at the shadow address, where the race check follows the acquire. -/
def checkCell (s : State) (w : Who) (r : DRegion) (a : Nat) : Got State :=
  if a % dtSize r.type ≠ 0 then .fail 3 0 a
  else
    (checkAccess s.mem s.hub s.free (Who.atCell w s r a) .atomic false (shadowOf r.type a) (cellSize r.type)).bind fun q =>
      if q.2.all fun p => p.leaf.coh then .ok (s.setMem q.1) else .fail 7 r.idx.val (shadowOf r.type a)

/-- Accumulate an adjoint into a cell: cell := round(cell + g) by RNE, an atomic pair of its agent (R266); the flags. -/
def accumCell (s : State) (w : Who) (r : DRegion) (a : Nat) (g : Num) : Got (State × FFlags) :=
  (checkCell s (w.fresh s) r a).bind fun s1 =>
    let f := cellFmt r.type
    (atomicVirt s1 (w.fresh s) (shadowOf r.type a) (cellSize r.type) fun old =>
      some (leBytes (cellSize r.type) (f.result .rne false (Num.add .rne (f.decode (leValue old)) g).1).1)).bind fun q =>
      let sum := Num.add .rne (f.decode (leValue q.1)) g
      .ok (q.2, sum.2 ||| (f.result .rne false sum.1).2)

/-- An element of an inverted access: its region and address. -/
abbrev DElem := DRegion × Nat

/-- Check the cells of elements. Checks come first, so that nothing of the access is performed when one fails (R265). The update of a cell comes
before the next one's (R269), so what it acquires orders that too. -/
def checkCells (s : State) (w : Who) : List DElem → Got State
  | [] => .ok s
  | a :: l => (checkCell s w a.1 a.2).bind fun t => checkCells t (Who.atCell w s a.1 a.2) l

/-- Accumulate adjoints into the cells of elements, in order. -/
def accumCells (s : State) (w : Who) (fl : FFlags) : List (DElem × Num) → Got (State × FFlags)
  | [] => .ok (s, fl)
  | e :: l => (accumCell s w e.1.1 e.1.2 e.2).bind fun q => accumCells q.1 w (fl ||| q.2) l

/-! ## Popping (R270) -/

/-- Check the records of a block against its elements: `rec` from the first element's. -/
def matchBlock : List DElem → List Byte → Bool
  | [], _ => true
  | a :: l, bs =>
    let v := leValue (bs.take 8)
    v % 2 ^ 52 == a.2 % 2 ^ 52 && v / 2 ^ 52 % 4 == dtWidthCode a.1.type && matchBlock l (bs.drop 16)

/-- The recorded old values of a block. -/
def blockOld : Nat → List Byte → List Nat
  | 0, _ => []
  | n + 1, bs => leValue ((bs.drop 8).take 8) :: blockOld n (bs.drop 16)

/-- The checks of cells and elements of a pop block. An element is restored after its cell has been read, so what the cell acquires orders
that write too. -/
def checkPop (s : State) (w : Who) : List DElem → Got State
  | [] => .ok s
  | a :: l =>
    (checkCell s w a.1 a.2).bind fun t =>
      let u := Who.atCell w s a.1 a.2
      (checkAccess t.mem t.hub t.free u .store false a.2 (dtSize a.1.type)).bind fun q =>
        checkPop (t.setMem q.1) u l

/-- Performing a pop block: the adjoints taken, cells cleared, old values restored. -/
def runPop (s : State) (w : Who) : List (DElem × Nat) → Got (List Nat × State)
  | [] => .ok ([], s)
  | e :: l =>
    let n := cellSize e.1.1.type
    let u := Who.atCell w s e.1.1 e.1.2
    (atomicVirt s (u.fresh s) (shadowOf e.1.1.type e.1.2) n fun _ => some (leBytes n 0)).bind fun q =>
      let v := u.fresh q.2
      (storeVirt q.2 { v with clk := Clock.join v.clk u.clk } .store false e.1.2 (leBytes (dtSize e.1.1.type) e.2)).bind fun t =>
        (runPop t u l).bind fun z => .ok (leValue q.1 :: z.1, z.2)

/-- Pop the records of elements, as one block: the adjoint bits of each element, and the state. -/
def popBlock (s : State) (x : CtxId) (w : Who) (elems : List DElem) : Got (List Nat × State) :=
  match s.ctx x with
  | none => .ok ([], s)
  | some c =>
    let n := elems.length
    let pos := c.tapePos.toNat
    if pos - c.tapeBase.toNat < 16 * n then .fail 7 64 0
    else
      (loadVirt s w .load false (pos - 16 * n) (16 * n)).bind fun q =>
        if !matchBlock elems q.1 then .fail 7 65 0
        else
          (checkPop q.2 w elems).bind fun t =>
            (runPop t w (elems.zip (blockOld n q.1))).bind fun z =>
              .ok (z.1, match z.2.ctx x with
                | some d => z.2.putCtx { d with tapePos := BitVec.ofNat 64 (pos - 16 * n) }
                | none => z.2)

/-- Value of an adjoint in a cell. -/
def adjNum (r : DRegion) (bits : Nat) : Num := (cellFmt r.type).decode bits

/-! ## Words -/

/-- The pages of a region in ascending order: R93, and the mark (R197). -/
def checkDregPages (s : State) (w : Who) (va : Nat) : Nat → Got State
  | 0 => .ok s
  | n + 1 =>
    (checkAccess s.mem s.hub s.free w .probe false va 4096).bind fun q =>
      if q.2.all fun p => p.leaf.diff then checkDregPages (s.setMem q.1) w (va + 4096) n else .fail 5 0 va

/-- Body of `DREG` (R197, R263): the descriptor, then the mode and the place, the pages, and overlap. -/
def dregBody (x : Fin 64) (y : SReg) (w : At) (t : State) : Res :=
  let v := (w.st.sreg y).toNat
  let r : DRegion := ⟨x, bitsN v 39 0 * 4096, bitsN v 55 40 + 1, ⟨bitsN v 57 56, Nat.mod_lt _ (by decide)⟩⟩
  if bitsN v 63 58 ≠ 0 ∨ bitsN v 57 56 = 3 then .trap t (illegal (.dreg x y) 7)
  else if w.cx.dmode ≠ 0 ∨ 2 ^ 49 < r.base + r.pages * 4096 then .trap t ⟨7, x.val, 6, 0⟩
  else (checkDregPages t (whoStream t w.cx w.ref.st) r.base r.pages).res t 6 fun q =>
    if w.cx.dregs.any fun z => decide (z.idx = x) || z.touches r.base (r.pages * 4096) then .trap t ⟨7, x.val, 6, 0⟩
    else .done (q.putCtx { w.cx with dregs := insertRegion r w.cx.dregs })

/-- `DREG` (R197). -/
def execDreg (x : Fin 64) (y : SReg) (s : State) : Host.Outcome State Fault Refusal := issue s (.dreg x y) (dregBody x y)

/-- `DUNREG` (R197). -/
def execDunreg (x : Fin 64) (s : State) : Host.Outcome State Fault Refusal :=
  issue s (.dunreg x) fun w t =>
    if w.cx.dmode ≠ 0 then .trap t ⟨7, x.val, 6, 0⟩
    else .done (t.putCtx { w.cx with dregs := w.cx.dregs.filter fun z => decide (z.idx ≠ x) })

/-- Code of an adjoint mode. -/
def dmodeCode : DMode → Fin 4
  | .primal => 0 | .record => 1 | .reverse => 2

/-- Is a stream live for the mode-switch test: forked and not parked? -/
def Run.forked : Run → Bool
  | .off => false
  | .parked => false
  | _ => true

/-- Detail of the mode-switch trap (R198): bit e for each live stream of engine code e. -/
def liveMask (c : Ctx) : Nat :=
  [StreamId.C, .A, .L, .S, .N].foldl (fun n i => n + if (c.stream i).run.forked then 2 ^ streamEng i else 0) 0

/-- Body of `DMODE` (R198): it waits for every command and every vector word. -/
def dmodeBody (m : DMode) (w : At) (t : State) : Res :=
  if w.ref.st ≠ .C ∨ [StreamId.A, .L, .S, .N].any (fun i => (w.cx.stream i).run.forked) then
    .trap t ⟨16, liveMask w.cx, 6, 0⟩
  else if w.cx.cmds ≠ [] ∨ vectorPending w.cx .C then .hold t
  else .done (t.putCtx { w.cx with dmode := dmodeCode m })

/-- `DMODE` (R198). -/
def execDmode (m : DMode) (s : State) : Host.Outcome State Fault Refusal := issue s (.dmode m) (dmodeBody m)

/-- `TLIM` (R201). -/
def execTlim (x : SReg) (s : State) : Host.Outcome State Fault Refusal :=
  issue s (.tlim x) fun w t =>
    let v := w.st.sreg x
    if v.toNat % 16 ≠ 0 ∨ beyondVa v then .trap t (illegal (.tlim x) 7)
    else .done (t.putCtx { w.cx with tapeLim := v })

/-- `TSET` (R201): `pos` where bits [3:0] are 0, `base` where they are 1. -/
def execTset (x : SReg) (s : State) : Host.Outcome State Fault Refusal :=
  issue s (.tset x) fun w t =>
    let v := w.st.sreg x
    let a := BitVec.ofNat 64 (v.toNat / 16 * 16)
    if beyondVa v then .trap t (illegal (.tset x) 7)
    else if v.toNat % 16 = 0 then .done (t.putCtx { w.cx with tapePos := a })
    else if v.toNat % 16 = 1 then .done (t.putCtx { w.cx with tapeBase := a })
    else .trap t (illegal (.tset x) 7)

end Sys2Proof.Machine
end

