-- ==== Sys2Proof/Machine/Elementary.lean ====
section
/-! DEFINITION. The special functions of Table 6.3 and the constants of R50 to R53: exact real values to 512 bits and a sticky bit,
which round into binary32 and binary64 as the exact ones do; values that are exact are exact. -/

namespace Sys2Proof.Machine

/-- Fraction bits of a fixed-point number. -/
def fixP : Nat := 512

def fixOne : Nat := 2 ^ fixP

/-- A fixed-point value that stands for an inexact one. -/
def fixNum (neg : Bool) (m : Nat) : Num := .fin neg (stick m true) (-(fixP : Int) - 1)

/-- `Σ z^(2k+1) / (2k+1)`, from a term on: atanh of `z` with `z²` given. -/
def atanhGo (z2 term k : Nat) : Nat → Nat
  | 0 => 0
  | n + 1 => term / (2 * k + 1) + atanhGo z2 (term * z2 / fixOne) (k + 1) n

/-- atanh of a fixed-point number of at most 1/3. -/
def atanhFix (z : Nat) : Nat := atanhGo (z * z / fixOne) z 0 180

/-- ln 2 = 2 atanh(1/3). -/
def ln2Fix : Nat := 2 * atanhFix (fixOne / 3)

/-- arctan of `1/q`: alternating terms `1 / ((2k+1) q^(2k+1))`. -/
def atanGo (q term k : Nat) : Nat → Int
  | 0 => 0
  | n + 1 => (term / (2 * k + 1) : Nat) - atanGo q (term / (q * q)) (k + 1) n

/-- π, by Machin's formula. -/
def piFix : Nat := (16 * atanGo 5 (fixOne / 5) 0 120 - 4 * atanGo 239 (fixOne / 239) 0 40).toNat

/-- `Σ y^k / k!` from a term on. -/
def expGo (y term k : Nat) : Nat → Nat
  | 0 => 0
  | n + 1 => term + expGo y (term * y / fixOne / (k + 1)) (k + 1) n

/-- e^y for a fixed-point number below 1. -/
def expFix (y : Nat) : Nat := expGo y fixOne 0 110

/-- Alternating series of sine and cosine: each next term is the last times `t2`, over `(k+1)(k+2)`. -/
def trigGo (t2 term k : Nat) : Nat → Int
  | 0 => 0
  | n + 1 => (term : Int) - trigGo t2 (term * t2 / fixOne / ((k + 1) * (k + 2))) (k + 2) n

/-- sin θ and cos θ for a fixed-point angle below 1.6. -/
def sinFix (t : Nat) : Nat := (trigGo (t * t / fixOne) t 1 64).toNat

def cosFix (t : Nat) : Nat := (trigGo (t * t / fixOne) fixOne 0 64).toNat

/-- A binary32 value as a fixed-point integer, rounded toward zero: exact below 2^22. -/
def fixInt (neg : Bool) (m : Nat) (e : Int) : Int :=
  signed neg (if 0 ≤ e + fixP then m * 2 ^ (e + fixP).toNat else m / 2 ^ (-(e + fixP)).toNat)

/-- 2^x (`VEXP2`). -/
def Num.exp2 (x : Num) : Num × FFlags :=
  match x with
  | .nan _ => (.nan false, sigFlag [x])
  | .inf n => (if n then .zero else .inf false, fNone)
  | .fin neg m e =>
    if m != 0 && decide (10 < e + bitLen m) then (.fin false 1 (if neg then -1024 else 1024), fNone)
    else
      let v := fixInt neg m e
      let f := (v % (fixOne : Nat)).toNat
      let n := v / (fixOne : Nat)
      if f = 0 then (.fin false 1 n, fNone)
      else (.fin false (stick (expFix (f * ln2Fix / fixOne)) true) (n - fixP - 1), fNone)

/-- log2 x (`VLOG2`). -/
def Num.log2 (x : Num) : Num × FFlags :=
  match x with
  | .nan _ => (.nan false, sigFlag [x])
  | .inf n => if n then (.nan false, fNV) else (.inf false, fNone)
  | .fin neg m e =>
    if m = 0 then (.inf true, fDZ)
    else if neg then (.nan false, fNV)
    else
      let k := bitLen m - 1
      let n : Int := e + k
      if m = 2 ^ k then (numOfInt n, fNone)
      else
        let z := (m - 2 ^ k) * fixOne / (m + 2 ^ k)
        let v : Int := n * (fixOne : Nat) + (2 * atanhFix z * fixOne / ln2Fix : Nat)
        (fixNum (decide (v < 0)) v.natAbs, fNone)

/-- A quarter turn, and what is left of it: the quadrant 0 to 3 and the rest of an angle in turns. -/
def quadrant (v : Int) : Nat × Nat :=
  let x := (v % (fixOne : Nat)).toNat
  (x / (fixOne / 4), x % (fixOne / 4))

/-- sin or cos (a quarter turn further) of an angle in turns that is no multiple of 1/4. -/
def trigTurn (q r : Nat) : Num :=
  let t := 2 * piFix * r / fixOne
  fixNum (decide (2 ≤ q % 4)) (if q % 2 = 0 then sinFix t else cosFix t)

/-- sin(2πx) (`VSIN`). -/
def Num.sinTurn (x : Num) : Num × FFlags :=
  match x with
  | .nan _ => (.nan false, sigFlag [x])
  | .inf _ => (.nan false, fNV)
  | .fin neg m e =>
    if m = 0 then (x, fNone)
    else
      let p := quadrant (fixInt neg m e)
      if p.2 = 0 then (if p.1 % 2 = 0 then .zero else .fin (p.1 == 3) 1 0, fNone) else (trigTurn p.1 p.2, fNone)

/-- cos(2πx) (`VCOS`). -/
def Num.cosTurn (x : Num) : Num × FFlags :=
  match x with
  | .nan _ => (.nan false, sigFlag [x])
  | .inf _ => (.nan false, fNV)
  | .fin neg m e =>
    let p := quadrant (fixInt neg m e)
    if p.2 = 0 then (if p.1 % 2 = 1 then .zero else .fin (p.1 == 2) 1 0, fNone) else (trigTurn (p.1 + 1) p.2, fNone)

/-- tanh x (`VTANH`): (e^2x − 1) / (e^2x + 1), and 1 less what does not show from 32 on. -/
def Num.tanh (x : Num) : Num × FFlags :=
  match x with
  | .nan _ => (.nan false, sigFlag [x])
  | .inf n => (.fin n 1 0, fNone)
  | .fin neg m e =>
    if m = 0 then (x, fNone)
    else if 5 < e + bitLen m then (fixNum neg (fixOne - 1), fNone)
    else
      let y := 2 * (fixInt false m e).toNat
      let n := y / ln2Fix
      let ex := expFix (y % ln2Fix) * 2 ^ n
      (fixNum neg ((ex - fixOne) * fixOne / (ex + fixOne)), fNone)

/-- 1/x (`VRCP`). -/
def Num.rcp (x : Num) : Num × FFlags := Num.div 64 (.fin false 1 0) x

/-- 1/√x (`VRSQ`). -/
def Num.rsq (x : Num) : Num × FFlags :=
  match x with
  | .nan _ => (.nan false, sigFlag [x])
  | .inf n => if n then (.nan false, fNV) else (.zero, fNone)
  | .fin neg m e =>
    if m = 0 then (.inf neg, fDZ)
    else if neg then (.nan false, fNV)
    else
      let odd := (e % 2 != 0)
      let m1 := if odd then 2 * m else m
      let e1 : Int := if odd then e - 1 else e
      let k := 64 + bitLen m1
      let r := isqrt (2 ^ (2 * k) / m1)
      (.fin false (stick r (r * r * m1 != 2 ^ (2 * k))) (-(e1 / 2) - k - 1), fNone)

/-! ## Constants of the transform unit (R50, R51, R53) -/

/-- cos(2πj/n), rounded into a precision; exact at quarter turns. -/
def cosConst (f : FloatFmt) (j n : Nat) : Num :=
  if 4 * j % n = 0 then
    match 4 * j / n % 4 with
    | 0 => .fin false 1 0
    | 1 => .zero
    | 2 => .fin true 1 0
    | _ => .zero
  else
    let p := quadrant (j % n * fixOne / n : Nat)
    (f.rn (trigTurn (p.1 + 1) p.2)).1

/-- sin(2πj/n), rounded into a precision. -/
def sinConst (f : FloatFmt) (j n : Nat) : Num :=
  if 4 * j % n = 0 then
    match 4 * j / n % 4 with
    | 0 => .zero
    | 1 => .fin false 1 0
    | 2 => .zero
    | _ => .fin true 1 0
  else
    let p := quadrant (j % n * fixOne / n : Nat)
    (f.rn (trigTurn p.1 p.2)).1

/-- √(a/b), rounded into binary64. -/
def sqrtRat (a b : Nat) : Num :=
  let k := 128 + bitLen b
  let r := isqrt (a * 2 ^ (2 * k) / b)
  (f64.rn (.fin false (stick r (r * r * b != a * 2 ^ (2 * k))) (-(k : Int) - 1))).1

end Sys2Proof.Machine
end

