-- ==== Sys2Proof/Machine/LoadStore.lean ====
section
/-! DEFINITION. Scalar loads, stores and atomics (spec/05_control_engine.md, R92-R98), with their meaning in D-regions (R199). -/

namespace Sys2Proof.Machine

/-- The address of a load or store (R92). -/
def memAddr (w : At) (a : SReg) (i : BitVec 11) : Nat := (w.st.sreg a + i.signExtend 64).toNat

/-- A load's value from its bytes: sign- or zero-extended (Table 5.3). -/
def loadValue (sx : Bool) (bs : List Byte) : Word :=
  if sx then BitVec.ofInt 64 (sextN (8 * bs.length) (leValue bs)) else BitVec.ofNat 64 (leValue bs)

/-- The adjoint that a register holds for data of a region (R199). -/
def regAdjoint (r : DRegion) (v : Word) : Num :=
  if r.type = 2 then f64.decode v.toNat else f32.decode (v.toNat % 2 ^ 32)

/-- Adjoint-mode trap (cause 7) with a d-index. -/
def adjTrap (t : State) (eng idx : Nat) : Res := .trap t ⟨7, idx, eng, 0⟩

/-- A load of `n` bytes into `d` (R92, R93, R199). -/
def loadBody (d a : SReg) (i : BitVec 11) (n : Nat) (sx dev8 : Bool) (w : At) (t : State) : Res :=
  let va := memAddr w a i
  let who := whoStream t w.cx w.ref.st
  match dAccess w.cx va n with
  | .straddles x => adjTrap t 0 x
  | .plain => (loadVirt t who .load dev8 va n).res t 0 fun q => w.interlock q.2 (.s d) (loadValue sx q.1)
  | .inside r =>
    if n ≠ dtSize r.type then adjTrap t 0 r.idx.val
    else if w.cx.dmode = 1 then
      (loadVirt t who .load dev8 va n).res t 0 fun q => w.interlock q.2 (.s d) (loadValue sx q.1)
    else
      (accumCell t who r va (regAdjoint r (w.st.sreg d))).res t 0 fun q => .done (q.1.mapStream w.ref fun u => u.orFlags q.2)

/-- `LQ`: the pair d, d + 1 (R92). -/
def loadPair (d a : SReg) (i : BitVec 11) (w : At) (t : State) : Res :=
  let va := memAddr w a i
  match dAccess w.cx va 16 with
  | .straddles x => adjTrap t 0 x
  | .inside r => adjTrap t 0 r.idx.val
  | .plain => (loadVirt t (whoStream t w.cx w.ref.st) .load false va 16).res t 0 fun q =>
      .done (w.put q.2 ((w.st.fly w.seq (.s d) (loadValue false (q.1.take 8)) .interlocked).fly w.seq (.s (d + 1))
        (loadValue false (q.1.drop 8)) .interlocked))

/-- A store of the low `n` bytes of `v` (R92, R93, R199, R271). -/
def storeBody (v a : SReg) (i : BitVec 11) (n : Nat) (dev8 : Bool) (w : At) (t : State) : Res :=
  let va := memAddr w a i
  let who := whoStream t w.cx w.ref.st
  let bs := leBytes n (w.st.sreg v).toNat
  match dAccess w.cx va n with
  | .straddles x => adjTrap t 0 x
  | .plain => (storeVirt t who .store dev8 va bs).res t 0 fun q => .done q
  | .inside r =>
    if n ≠ dtSize r.type then adjTrap t 0 r.idx.val
    else if w.cx.dmode = 1 then (recordElem t w.ref.ctx who r.type va bs).res t 0 fun q => .done q
    else
      (popBlock t w.ref.ctx who [(r, va)]).res t 0 fun q =>
        .done (q.2.mapStream w.ref fun u => u.fly w.seq (.s v) (BitVec.ofNat 64 (q.1.headD 0)) .interlocked)

/-- `SQ`: the pair v, v + 1 (R92). -/
def storePair (v a : SReg) (i : BitVec 11) (w : At) (t : State) : Res :=
  let va := memAddr w a i
  match dAccess w.cx va 16 with
  | .straddles x => adjTrap t 0 x
  | .inside r => adjTrap t 0 r.idx.val
  | .plain => (storeVirt t (whoStream t w.cx w.ref.st) .store false va
      (leBytes 8 (w.st.sreg v).toNat ++ leBytes 8 (w.st.sreg (v + 1)).toNat)).res t 0 fun q => .done q

/-- `LB` (R92). -/
def execLb (d a : SReg) (i : BitVec 11) (s : State) : Host.Outcome State Fault Refusal :=
  issue s (.lb d a i) (loadBody d a i 1 true false)

/-- `LBU` (R92). -/
def execLbu (d a : SReg) (i : BitVec 11) (s : State) : Host.Outcome State Fault Refusal :=
  issue s (.lbu d a i) (loadBody d a i 1 false false)

/-- `LH` (R92). -/
def execLh (d a : SReg) (i : BitVec 11) (s : State) : Host.Outcome State Fault Refusal :=
  issue s (.lh d a i) (loadBody d a i 2 true false)

/-- `LHU` (R92). -/
def execLhu (d a : SReg) (i : BitVec 11) (s : State) : Host.Outcome State Fault Refusal :=
  issue s (.lhu d a i) (loadBody d a i 2 false false)

/-- `LW` (R92). -/
def execLw (d a : SReg) (i : BitVec 11) (s : State) : Host.Outcome State Fault Refusal :=
  issue s (.lw d a i) (loadBody d a i 4 true false)

/-- `LWU` (R92). -/
def execLwu (d a : SReg) (i : BitVec 11) (s : State) : Host.Outcome State Fault Refusal :=
  issue s (.lwu d a i) (loadBody d a i 4 false false)

/-- `LD` (R92). -/
def execLd (d a : SReg) (i : BitVec 11) (s : State) : Host.Outcome State Fault Refusal :=
  issue s (.ld d a i) (loadBody d a i 8 false true)

/-- `SB` (R92). -/
def execSb (v a : SReg) (i : BitVec 11) (s : State) : Host.Outcome State Fault Refusal :=
  issue s (.sb v a i) (storeBody v a i 1 false)

/-- `SH` (R92). -/
def execSh (v a : SReg) (i : BitVec 11) (s : State) : Host.Outcome State Fault Refusal :=
  issue s (.sh v a i) (storeBody v a i 2 false)

/-- `SW` (R92). -/
def execSw (v a : SReg) (i : BitVec 11) (s : State) : Host.Outcome State Fault Refusal :=
  issue s (.sw v a i) (storeBody v a i 4 false)

/-- `SD` (R92). -/
def execSd (v a : SReg) (i : BitVec 11) (s : State) : Host.Outcome State Fault Refusal :=
  issue s (.sd v a i) (storeBody v a i 8 true)

/-- `LQ` (R92). -/
def execLq (d a : SReg) (i : BitVec 11) (s : State) : Host.Outcome State Fault Refusal :=
  issue s (.lq d a i) (loadPair d a i)

/-- `SQ` (R92). -/
def execSq (v a : SReg) (i : BitVec 11) (s : State) : Host.Outcome State Fault Refusal :=
  issue s (.sq v a i) (storePair v a i)

/-! ## Atomics (R96-R98) -/

/-- The new value of an `AMOW` or `AMOD`, of `n`-byte operands. -/
def amoValue (o : AmoOp) (n old x : Nat) : Nat :=
  let w := 8 * n
  match o with
  | .swap => x
  | .add => (old + x) % 2 ^ w
  | .and => Nat.land old x
  | .or => Nat.lor old x
  | .xor => Nat.xor old x
  | .min => if sextN w x < sextN w old then x else old
  | .max => if sextN w old < sextN w x then x else old
  | .minu => if x < old then x else old
  | .maxu => if old < x then x else old

/-- An atomic of `n` bytes at the address in `a`: alignment first, then R93. It synchronises through its location
(Table 11.3). `k` puts the old bytes in flight. -/
def atomicBody (a : SReg) (n : Nat) (f : List Byte → Option (List Byte)) (w : At) (t : State)
    (k : List Byte → Stream → Stream) : Res :=
  let va := (w.st.sreg a).toNat
  let who := whoStream t w.cx w.ref.st
  let run (t1 : State) : Res :=
    (atomicVirt t1 who va n f).res t 0 fun q => .done (q.2.mapStream w.ref (k q.1))
  if va % n ≠ 0 then .trap t ⟨3, 0, 0, va⟩
  else
    match dAccess w.cx va n with
    | .straddles x => adjTrap t 0 x
    | .plain => run t
    | .inside r =>
      if w.cx.dmode = 2 ∨ n ≠ dtSize r.type then adjTrap t 0 r.idx.val
      else
        let u := { who with clk := Clock.join who.clk (atomAcquire t who va n) }
        (checkAccess t.mem t.hub t.free u .atomic false va n).res t 0 fun q =>
          (pushTape (t.setMem q.1) w.ref.ctx u (leValue (readPieces q.1 who .atomic q.2).1) (dtWidthCode r.type) va).res t 0
            fun u => run u

/-- `AMOW` (R96): the old word, sign-extended. -/
def execAmow (d a b : SReg) (o : AmoOp) (s : State) : Host.Outcome State Fault Refusal :=
  issue s (.amow d a b o) fun w t =>
    atomicBody a 4 (fun old => some (leBytes 4 (amoValue o 4 (leValue old) ((w.st.sreg b).toNat % 2 ^ 32)))) w t
      fun old st => st.fly w.seq (.s d) (loadValue true old) .interlocked

/-- `AMOD` (R96). -/
def execAmod (d a b : SReg) (o : AmoOp) (s : State) : Host.Outcome State Fault Refusal :=
  issue s (.amod d a b o) fun w t =>
    atomicBody a 8 (fun old => some (leBytes 8 (amoValue o 8 (leValue old) (w.st.sreg b).toNat))) w t
      fun old st => st.fly w.seq (.s d) (loadValue false old) .interlocked

/-- `CASW` (R96): bits [31:0] of d and of b only. -/
def execCasw (d a b : SReg) (s : State) : Host.Outcome State Fault Refusal :=
  issue s (.casw d a b) fun w t =>
    atomicBody a 4 (fun old => if leValue old = (w.st.sreg d).toNat % 2 ^ 32
        then some (leBytes 4 (w.st.sreg b).toNat) else none) w t
      fun old st => st.fly w.seq (.s d) (loadValue true old) .interlocked

/-- `CASD` (R96). -/
def execCasd (d a b : SReg) (s : State) : Host.Outcome State Fault Refusal :=
  issue s (.casd d a b) fun w t =>
    atomicBody a 8 (fun old => if leValue old = (w.st.sreg d).toNat then some (leBytes 8 (w.st.sreg b).toNat) else none) w t
      fun old st => st.fly w.seq (.s d) (loadValue false old) .interlocked

/-- `CASQ` (R96): the pairs d, d + 1 and b, b + 1. -/
def execCasq (d a b : SReg) (s : State) : Host.Outcome State Fault Refusal :=
  issue s (.casq d a b) fun w t =>
    let e := (w.st.sreg d).toNat + (w.st.sreg (d + 1)).toNat * 2 ^ 64
    let x := (w.st.sreg b).toNat + (w.st.sreg (b + 1)).toNat * 2 ^ 64
    atomicBody a 16 (fun old => if leValue old = e then some (leBytes 16 x) else none) w t
      fun old st => (st.fly w.seq (.s d) (loadValue false (old.take 8)) .interlocked).fly w.seq (.s (d + 1))
        (loadValue false (old.drop 8)) .interlocked

end Sys2Proof.Machine
end

