-- ==== Sys2Proof/Machine/Records.lean ====
section
/-! DEFINITION. The records of chain handles (spec/07_memory_and_sync.md, R138-R142), the rows and paths that the words which name one reach
(R144, R150), and the commands that the words of a job wait for: those in its queues and those that R144 still holds at issue. -/

namespace Sys2Proof.Machine

/-- First row of a row value. -/
def svRow (sv : Nat) : Nat := bitsN sv 15 0

/-- The paths of `WAITP`, numbered. -/
def pathIdx : Path → Nat
  | .scratch => 0 | .l1 => 1 | .l2 => 2 | .hbm => 3 | .fabric => 4

def allPaths : List Path := [.scratch, .l1, .l2, .hbm, .fabric]

/-- The path set of one path. -/
def onPath (p : Path) : BitVec 5 := BitVec.ofNat 5 (2 ^ pathIdx p)

/-- Every row of a handle. -/
def wholeHandle (h : HId) : RowSet := ⟨h, 0, 511⟩

/-! ## Records of chain handles (Tables 7.4 to 7.7) -/

/-- A record: the row of a chain handle as a number. -/
def recordAt (x : Handle) (row : Nat) : Nat := leValue (x.bytes row 0 32)

def recKind (v : Nat) : Nat := bitsN v 191 189

/-- Handle, and row, of a cell or ring field. -/
def recCell (v : Nat) : HId × Nat := (⟨bitsN v 177 170, Nat.mod_lt _ (by decide)⟩, bitsN v 169 161)

/-- An endpoint (Table 7.4). -/
inductive EndPoint where
  | mem (va : Nat)
  | hnd (h : HId) (row : Nat)

/-- Decode an endpoint; none where a reserved bit is set. -/
def endPoint (v : Nat) : Option EndPoint :=
  if bitN v 63 then
    (if bitsN v 62 17 = 0 then some (.hnd ⟨bitsN v 7 0, Nat.mod_lt _ (by decide)⟩ (bitsN v 16 8)) else none)
  else if bitsN v 62 52 = 0 then some (.mem (bitsN v 51 0)) else none

/-- A row or column count (R142): the field, or a launch argument; none outside 1 to 32,767. -/
def recCount (k : Card) (fromArg : Bool) (v : Nat) : Option Nat :=
  let n := if fromArg then (if h : v % 16 < 15 then some (k.args.get ⟨v % 16, h⟩).toNat else none) else some v
  match n with
  | some x => if 1 ≤ x ∧ x ≤ 32767 then some x else none
  | none => none

/-- A data record, decoded. -/
structure DataRec where
  src : EndPoint
  dst : EndPoint
  hcol : Nat
  lay : Nat
  last : Bool
  xpose : Bool
  arv : Bool
  cell : HId × Nat
  rows : Nat
  cols : Nat

/-- Decode a data record; none where it breaks Table 7.5. `noDst`: the destination is ignored (`PREF`). -/
def dataRec (k : Card) (noDst : Bool) (v : Nat) : Option DataRec :=
  if recKind v ≠ 0 ∨ bitsN v 255 208 ≠ 0 ∨ bitN v 160 then none
  else
    match endPoint (bitsN v 63 0), (if noDst then some (.mem 0) else endPoint (bitsN v 127 64)),
      recCount k (bitN v 143) (bitsN v 142 128), recCount k (bitN v 159) (bitsN v 158 144) with
    | some s, some d, some r, some c => some {
        src := s, dst := d, hcol := bitsN v 207 192, lay := bitsN v 188 181, last := bitN v 180, xpose := bitN v 179
        arv := bitN v 178, cell := recCell v, rows := r, cols := c }
    | _, _, _, _ => none

/-! ## Access sets of copies (R144) -/

/-- Does a record lie inside the body of a loop among rows `lo` to `hi`? -/
def inLoop (x : Handle) (lo hi row : Nat) : Bool :=
  (List.range (hi + 1 - lo)).any fun i =>
    let l := lo + i
    let v := recordAt x l
    recKind v == 1 && decide (row < l) && decide (l ≤ row + bitsN v 152 144)

/-- Rows of an endpoint. -/
def endRows (p : EndPoint) (n : Nat) (whole : Bool) : List RowSet :=
  match p with
  | .mem _ => []
  | .hnd h r => [if whole then wholeHandle h else ⟨h, r, r + n - 1⟩]

/-- Reads and writes of the records in rows `lo` to `hi` of a chain handle, whatever the command that names it. -/
def recordSets (k : Card) (x : Handle) (lo hi : Nat) : List RowSet × List RowSet :=
  (List.range (hi + 1 - lo)).foldl (fun acc i =>
    match (dataRec k false (recordAt x (lo + i))).or (dataRec k true (recordAt x (lo + i))) with
    | some r =>
      let whole := inLoop x lo hi (lo + i)
      (acc.1 ++ endRows r.src r.rows whole,
        acc.2 ++ endRows r.dst (if r.xpose then r.cols else r.rows) whole ++
          (if r.arv then [⟨r.cell.1, r.cell.2, r.cell.2⟩] else []))
    | none => acc) ([⟨x.id, lo, hi⟩], [])

/-- The rows that a walk may go to from a row (R141): past a data record unless it is the last; back from a loop record that has runs left
(`act`: of the active ones), and on from it; either way from a condition record. -/
def rowNexts (x : Handle) (act : List (Nat × Nat)) (row : Nat) : List Nat :=
  let v := recordAt x row
  match recKind v with
  | 0 => if bitN v 180 then [] else [row + 1]
  | 1 => (if 1 < assocGet (bitsN v 143 128) act row then [row - bitsN v 152 144] else []) ++ (if bitN v 180 then [] else [row + 1])
  | 2 => [row + 1, row + 1 + bitsN v 136 128]
  | _ => []

/-- What can be reached from places by steps, within a bound; `n`: places looked at, at most. -/
def reachFrom (next : Nat → List Nat) (bound : Nat) : Nat → List Nat → List Nat → List Nat
  | 0, _, seen => seen
  | _, [], seen => seen
  | n + 1, r :: l, seen =>
    if bound ≤ r ∨ seen.contains r = true then reachFrom next bound n l seen else reachFrom next bound n (next r ++ l) (r :: seen)

/-- The rows that a walk can still come to. -/
def walkRows (x : Handle) (act : List (Nat × Nat)) (row : Nat) : List Nat := reachFrom (rowNexts x act) x.rows (2 * x.rows + 2) [row] []

/-- The paths that the destinations of records in rows reach (R150). -/
def recordPaths (k : Card) (x : Handle) (rows : List Nat) : BitVec 5 :=
  rows.foldl (fun p i =>
    match dataRec k false (recordAt x i) with
    | some r => p ||| (match r.dst with
      | .mem _ => onPath .hbm
      | .hnd _ _ => onPath .scratch)
    | none => p) 0

/-- Access set and paths of a `DRAINM` (R172, R176, R150): its record, the rows it writes, the row of its cell. -/
def drainmSets (k : Card) (y : Handle) (sv : Nat) (acc : Bool) : List RowSet × List RowSet × BitVec 5 :=
  if y.rows ≤ svRow sv then ([], [], 0)
  else
    let rd : RowSet := ⟨y.id, svRow sv, svRow sv⟩
    match dataRec k false (recordAt y (svRow sv)) with
    | none => ([rd], [], 0)
    | some r =>
      let d := endRows r.dst r.rows false
      (rd :: if acc then d else [], d ++ if r.arv then [⟨r.cell.1, r.cell.2, r.cell.2⟩] else [],
        match r.dst with
        | .mem _ => onPath .hbm
        | .hnd _ _ => onPath .scratch)

/-- The chain handle of a copy command. -/
def chainOf (i : Instr) : Option HId :=
  match i with
  | .copy _ h _ => some h
  | .chain _ h _ => some h
  | .pref _ h _ _ => some h
  | .retn _ h _ => some h
  | .invr _ h _ _ => some h
  | .copyo _ h _ => some h
  | .chaino _ h _ => some h
  | .copya _ h _ => some h
  | .chaina _ h _ => some h
  | .offl _ h _ _ => some h
  | .wbr _ h _ _ => some h
  | _ => none

/-! ## Words that name a chain handle (R144) -/

/-- The queue, the chain handle and the operand of a word that R144 may hold at issue. -/
def Instr.chainWord : Instr → Option (Queue × HId × SReg)
  | .copy _ h x => some (.L, h, x)
  | .chain _ h x => some (.L, h, x)
  | .pref _ h x _ => some (.L, h, x)
  | .retn _ h x => some (.L, h, x)
  | .invr _ h x _ => some (.L, h, x)
  | .copyo _ h x => some (.S, h, x)
  | .chaino _ h x => some (.S, h, x)
  | .copya _ h x => some (.S, h, x)
  | .chaina _ h x => some (.S, h, x)
  | .offl _ h x _ => some (.S, h, x)
  | .wbr _ h x _ => some (.S, h, x)
  | .drainm _ h x _ => some (.A, h, x)
  | _ => none

/-- The paths that a copy word counts for (R150), by its records from row `row` on. -/
def chainPaths (k : Card) (i : Instr) (y : Handle) (row : Nat) : BitVec 5 :=
  match i with
  | .copy .. => onPath .scratch
  | .chain .. => onPath .scratch
  | .retn .. => onPath .scratch
  | .pref _ _ _ l2 => onPath (if l2 then .l2 else .l1)
  | .invr _ _ _ l2 => onPath (if l2 then .l2 else .l1)
  | .wbr _ _ _ l2 => onPath (if l2 then .hbm else .l2)
  | .offl .. => onPath .hbm
  | .copyo .. => recordPaths k y [row]
  | .copya .. => recordPaths k y [row]
  | .chaino .. => recordPaths k y (walkRows y [] row)
  | .chaina .. => recordPaths k y (walkRows y [] row)
  | _ => 0

/-- What a word that names a chain handle reaches, by the records as they stand: rows read, rows written, paths. -/
def chainSets (k : Card) (i : Instr) (y : Handle) (v : Word) : List RowSet × List RowSet × BitVec 5 :=
  match i with
  | .drainm _ _ _ f => drainmSets k y v.toNat (f.getLsbD 3)
  | _ =>
    let r := recordSets k y v.toNat (y.rows - 1)
    (r.1, r.2, chainPaths k i y v.toNat)

/-- The paths of a word whose records are still to be written: those that no record changes, or each that one may reach. -/
def maybePaths (k : Card) (i : Instr) (y : Handle) (row : Nat) : BitVec 5 :=
  match i with
  | .copyo .. => onPath .scratch ||| onPath .hbm
  | .chaino .. => onPath .scratch ||| onPath .hbm
  | .copya .. => onPath .scratch ||| onPath .hbm
  | .chaina .. => onPath .scratch ||| onPath .hbm
  | .drainm .. => onPath .scratch ||| onPath .hbm
  | _ => chainPaths k i y row

/-! ## The commands that later words wait for -/

/-- Do commands of a list, issued before a place in the order, write a handle? -/
def writtenBefore (l : List Cmd) (seq : Nat) (h : HId) : Bool :=
  l.any fun d => decide (d.seq < seq) && d.writes.any fun r => decide (r.h = h)

/-- A word that R144 holds at issue, as a command: it has its place in the order, and its records give its access set and its paths. While its
chain handle is still to be written by one of `l`, they are not known: it may use every row (log 108). -/
def heldChain (c : Ctx) (x : StreamId) (h : Hold) (l : List Cmd) : Option Cmd :=
  match h.regs, Instr.chainWord h.word with
  | some regs, some (q, g, r) =>
    let v := if r = 0 then 0 else regs.get r
    let all := c.handles.map fun y => wholeHandle y.id
    (c.handle g).map fun y =>
      let e := if writtenBefore l h.seq g then (all, all, maybePaths c.card h.word y v.toNat) else chainSets c.card h.word y v
      ⟨h.seq, q, h.word, v, x, (c.stream x).pc, e.1, e.2.1, e.2.2, 0, [], .queued, (c.stream x).clk⟩
  | _, _ => none

/-- The words that hold live streams of a job, in issue order. -/
def heldInOrder (c : Ctx) : List (StreamId × Hold) :=
  [StreamId.C, .A, .L, .S, .N].foldl (fun l x =>
    match (c.stream x).run with
    | .held h =>
      if (c.stream x).stopped then l
      else l.takeWhile (fun e => decide (e.2.seq < h.seq)) ++ (x, h) :: l.dropWhile fun e => decide (e.2.seq < h.seq)
    | _ => l) []

/-- The commands of a job that have issued and that later words wait for: those in its queues, and the words that R144 holds at issue, which
enter them later with the places that they have. -/
def Ctx.issued (c : Ctx) : List Cmd :=
  (heldInOrder c).foldl (fun l e => match heldChain c e.1 e.2 l with
    | some d => l ++ [d]
    | none => l) c.cmds

/-- Does an earlier command write rows of a chain handle (R144)? -/
def chainBusy (c : Ctx) (seq : Nat) (h : HId) : Bool := writtenBefore c.issued seq h

end Sys2Proof.Machine
end

