-- ==== Sys2Proof/Machine/Sync.lean ====
section
/-! DEFINITION. Handles, phase cells, rings, the Belay tree, guard slots, starting and joining streams (spec/07_memory_and_sync.md,
R131-R136, R150-R162). -/

namespace Sys2Proof.Machine

/-! ## Handles -/

/-- A handle descriptor, decoded (Table 7.1). -/
structure HDesc where
  fmt : Fin 16
  split : Fin 16
  kind : HKind
  l2 : Bool
  rows : Nat
  cols : Nat

/-- Row bytes by kind (R132). -/
def HDesc.rowBytes (d : HDesc) : Nat :=
  match d.kind with
  | .tile => Machine.rowBytes d.fmt d.cols
  | .cell => 16
  | .chain => 32

/-- The pitch: row bytes rounded up to a multiple of 16. -/
def HDesc.pitch (d : HDesc) : Nat := (d.rowBytes + 15) / 16 * 16

/-- Whole banks, or 16 KiB units. -/
def HDesc.units (d : HDesc) : Nat := (d.rows * d.pitch + 16383) / 16384

/-- A nibble. -/
def nib (n : Nat) : Fin 16 := ⟨n % 16, Nat.mod_lt _ (by decide)⟩

/-- The `split` a descriptor gives a BX format: 0 is taken as 3; other formats keep the reset value. -/
def splitOf (f : Fin 16) (n : Nat) : Fin 16 := if isBx f && n % 16 != 0 then nib n else 3

/-- The descriptor that a register holds; none where it breaks Table 7.1. -/
def hdesc (v : Nat) : Option HDesc :=
  let fmt := nib (bitsN v 47 44)
  let d (k : HKind) : HDesc := ⟨fmt, splitOf fmt (bitsN v 43 40), k, bitN v 37, bitsN v 24 16 + 1, bitsN v 15 0⟩
  if bitsN v 63 48 ≠ 0 ∨ bitsN v 36 25 ≠ 0 then none
  else
    match bitsN v 39 38 with
    | 0 => if bitsN v 15 0 = 0 ∨ (!isBx fmt && bitsN v 43 40 != 0) ∨ 16384 < (d .tile).rowBytes then none else some (d .tile)
    | 1 => if bitsN v 47 40 ≠ 0 ∨ bitsN v 15 0 ≠ 0 then none else some (d .cell)
    | 2 => if bitsN v 47 40 ≠ 0 ∨ bitsN v 15 0 ≠ 0 then none else some (d .chain)
    | _ => none

/-- Free banks of a core, lowest first: not owned and not retired (R329). -/
def freeBanks (s : State) (k : CoreSt) : List (Fin 96) :=
  (List.finRange 96).filter fun b => (k.banks.get b).owner.isNone &&
    !(match k.id with
      | .core d c => s.hub.retiredBanks.any fun r => decide (r = (d, c, b))
      | .sup => false)

/-- L2 units that jobs of a region and of its descendants hold on a die (R251). -/
def l2Used (s : State) (region : Nat) (d : Die) : Nat :=
  s.ctxs.foldl (fun n c =>
    if c.id.core.die = some d && c.card.anc.any (fun a => a.1 == region) then
      n + c.handles.foldl (fun m h => if h.l2 then m + h.units else m) 0
    else n) 0

/-- Units of 16 KiB in the L2 of a die: 384 MiB (R1). -/
def l2Capacity : Nat := 24576

/-- L2 units that all jobs of a die hold, those that are saved among them: what is saved of a job does not leave the L2 (R308). -/
def l2Locked (s : State) (d : Die) : Nat :=
  (s.ctxs ++ s.saved).foldl (fun n c =>
    if c.id.core.die = some d then n + c.handles.foldl (fun m h => if h.l2 then m + h.units else m) 0 else n) 0

/-- Do `n` more units stay within the quotas of the job's region and of its ancestors on its die, and within its L2 (log 94)? The
ready bit of the L2 has no effect on it: R323 names none (log 109). -/
def l2Fits (s : State) (c : Ctx) (n : Nat) : Bool :=
  match c.id.core.die with
  | none => false
  | some d => decide (c.card.anc ≠ []) && decide (l2Locked s d + n ≤ l2Capacity) &&
      c.card.anc.all fun a => decide (l2Used s a.1 d + n ≤ a.2)

/-- Give banks to a handle and set their format registers (R133). -/
def takeBanks (k : CoreSt) (x : Fin 2) (h : HId) (split fmt : Fin 16) (bs : List (Fin 96)) : CoreSt :=
  { k with banks := bs.foldl (fun v b => v.set b.val ⟨some (x, h), split, fmt⟩ b.isLt) k.banks }

/-- Take the banks of a handle back. -/
def dropBanks (k : CoreSt) (bs : List (Fin 96)) : CoreSt :=
  { k with banks := bs.foldl (fun v b => v.set b.val { v.get b with owner := none } b.isLt) k.banks }

/-- Allocate a handle (R133): the sub-reason of Table 7.3 where it fails. -/
def allocHandle (s : State) (c : Ctx) (h : HId) (d : HDesc) : Except Nat State :=
  let x : Handle := ⟨h, d.kind, d.l2, d.rows, d.cols, d.pitch, d.units, [], d.split, d.fmt, [], none, []⟩
  if (c.handle h).isSome then .error 1
  else if d.l2 then
    if l2Fits s c d.units then .ok (s.putCtx { c with handles := x :: c.handles }) else .error 3
  else
    match s.core c.id.core with
    | none => .error 2
    | some k =>
      let bs := (freeBanks s k).take d.units
      if bs.length < d.units then .error 2
      else .ok ((s.putCtx { c with handles := { x with banks := bs } :: c.handles }).putCore
        (takeBanks k c.id.ctx h d.split d.fmt bs))

/-- What was counted in this cycle at a cell or ring row, and what was released there, ends with its life: a row that is set again, or whose
handle is freed, starts afresh (R134, R151, Table 7.12). -/
def Ctx.forget (c : Ctx) (f : HId → Nat → Bool) : Ctx :=
  { c with
    cellNow := c.cellNow.filter fun n => !f n.h n.row
    cellClk := c.cellClk.filter fun e => !f e.1.1 (e.1.2 % 512) }

/-- Free a handle and its banks (R134). -/
def freeHandle (s : State) (c : Ctx) (h : HId) : State :=
  match c.handle h with
  | none => s
  | some x =>
    let t := s.putCtx ({ c with handles := c.handles.filter fun y => decide (y.id ≠ h) }.forget fun y _ => decide (y = h))
    match t.core c.id.core with
    | none => t
    | some k => t.putCore (dropBanks k x.banks)

/-- Format of a handle's elements: that of its banks, or of its tile-table entry at level L2 (R136). -/
def handleFmt (s : State) (c : Ctx) (h : Handle) : Fin 16 :=
  match h.banks, s.core c.id.core with
  | b :: _, some k => (k.banks.get b).fmt
  | _, _ => h.l2fmt

/-- `split` of a handle's banks. -/
def handleSplit (s : State) (c : Ctx) (h : Handle) : Fin 16 :=
  match h.banks, s.core c.id.core with
  | b :: _, some k => (k.banks.get b).split
  | _, _ => h.l2split

/-- Check 10 of Table 4.1 for a handle operand of a kind and a row. -/
def check10 (c : Ctx) (h : HId) (k : HKind) (row : Nat) : Option Handle :=
  match c.handle h with
  | none => none
  | some x => if x.kind = k ∧ row < x.rows then some x else none

/-- The protection trap of check 10 (R59): detail is the handle number. -/
def badHandle (w : Instr) (h : HId) : Cause := ⟨5, h.val, w.engine, 0⟩

/-- The row of a cell handle that a held word waits at: of the words that wait for that row's state. A vector access, or a chain word that R144
holds, waits for something else, and is not counted (R134, log 109). -/
def Instr.waitRow : Instr → Option (HId × Nat)
  | .pwait h r _ => some (h, r.val)
  | .rclaim h r _ => some (h, r.val)
  | .rwfill h r _ => some (h, r.val)
  | .rwfree h r _ => some (h, r.val)
  | _ => none

/-- Does a stream wait in a word that names a row accepted by `f`? -/
def waiting (c : Ctx) (f : HId → Nat → Bool) : Bool :=
  [StreamId.C, .A, .L, .S, .N].any fun i =>
    match (c.stream i).run with
    | .held x => (match Instr.waitRow x.word with
        | some r => f r.1 r.2
        | none => false)
    | _ => false

/-- The handle that a V word reads or writes, by the s registers it issued with. -/
def Instr.vHandle (i : Instr) (regs : Vector Word 64) : Option HId :=
  let named (a : SReg) : Option HId := some ⟨bitsN (regs.get a).toNat 37 30, Nat.mod_lt _ (by decide)⟩
  match i with
  | .vldh _ _ h _ _ => some h
  | .vsth _ _ h _ _ => some h
  | .vxcHandleGather a _ => named a
  | .vxcHandleScatter a _ => named a
  | .vxcTableLookup a _ => named a
  | _ => none

/-- Does a V word issued before `seq`, which still holds the C stream, use a handle? -/
def vHeldUses (c : Ctx) (seq : Nat) (h : HId) : Bool :=
  match (c.stream .C).run with
  | .held x => decide (x.seq < seq) && (match x.regs with
      | some v => decide (Instr.vHandle x.word v = some h)
      | none => false)
  | _ => false

/-- Does a command or a V word issued before `seq` use a handle (R134)? -/
def handleInUse (c : Ctx) (seq : Nat) (h : HId) : Bool :=
  (c.issued.any fun d => decide (d.seq < seq) && (d.reads ++ d.writes).any fun r => decide (r.h = h)) ||
  (match c.vxc with
    | some v => decide (v.seq < seq) && decide (v.handle = h) && (v.kind == 2 || v.kind == 3 || v.kind == 4)
    | none => false) || vHeldUses c seq h

/-- `HALLOC` (R131-R133). -/
def execHalloc (h : HId) (r : SReg) (s : State) : Host.Outcome State Fault Refusal :=
  issue s (.halloc h r) fun w t =>
    match hdesc (w.st.sreg r).toNat with
    | none => .trap t (illegal (.halloc h r) 7)
    | some d =>
      match allocHandle t w.cx h d with
      | .ok u => .done u
      | .error sub => .trap t (protection (.halloc h r) sub h.val)

/-- Body of `HFREE` (R134). -/
def hfreeBody (h : HId) (w : At) (t : State) : Res :=
  if (w.cx.handle h).isNone then .trap t (badHandle (.hfree h) h)
  else if waiting w.cx fun x _ => decide (x = h) then .trap t (protection (.hfree h) 4 h.val)
  else if handleInUse w.cx w.seq h then .hold t
  else .done (freeHandle t w.cx h)

/-- `HFREE` (R134). -/
def execHfree (h : HId) (s : State) : Host.Outcome State Fault Refusal := issue s (.hfree h) (hfreeBody h)

/-- Set the format of a handle (R135). -/
def setFmt (s : State) (c : Ctx) (x : Handle) (fmt split : Fin 16) : State :=
  let t := s.putCtx (c.putHandle { x with l2fmt := fmt, l2split := split, kept := none })
  match t.core c.id.core with
  | none => t
  | some k => t.putCore (takeBanks k c.id.ctx x.id split fmt x.banks)

/-- Body of `HFMT` (R135). -/
def hfmtBody (h : HId) (r : SReg) (w : At) (t : State) : Res :=
  let v := (w.arg r).toNat
  let fmt := nib (bitsN v 47 44)
  match check10 w.cx h .tile 0 with
  | none => .trap t (badHandle (.hfmt h r) h)
  | some x =>
    if bitsN v 63 48 ≠ 0 ∨ bitsN v 39 0 ≠ 0 ∨ (!isBx fmt && bitsN v 43 40 != 0) ∨ x.pitch < rowBytes fmt x.cols then
      .trap t (illegal (.hfmt h r) 7)
    else if handleInUse w.cx w.seq h then .hold t
    else .done (setFmt t w.cx x fmt (splitOf fmt (bitsN v 43 40)))

/-- `HFMT` (R135). -/
def execHfmt (h : HId) (r : SReg) (s : State) : Host.Outcome State Fault Refusal := issue s (.hfmt h r) (hfmtBody h r)

/-! ## Clocks of the synchronisation edges (Table 7.12) -/

/-- Number of the issuing stream. -/
def At.agent (w : At) : Nat := streamAgent w.cx.job w.ref.st

/-- The places at a cell row that clocks are kept at: the arrivals of a phase (side 0), the commits of a ring's slot (2), and its frees (3). -/
def cellKey (h : HId) (row side slot : Nat) : HId × Nat := (h, row + 512 * side + 2048 * slot)

/-- A stream's clock, after a release that covers what it has done so far. -/
def Ctx.tickStream (c : Ctx) (x : StreamId) : Clock × Ctx :=
  let t := c.stream x
  let k := Clock.tick t.clk (streamAgent c.job x)
  (k, c.putStream x { t with clk := k })

/-- Release: what a stream has done so far, to a place of a ring. -/
def releaseSlot (c : Ctx) (x : StreamId) (h : HId) (row side slot : Nat) : Ctx :=
  let q := c.tickStream x
  { q.2 with cellClk := assocSet c.cellClk (cellKey h row side slot) q.1 }

/-- What the places of slots of a ring have released. -/
def slotClock (c : Ctx) (h : HId) (row side : Nat) (slots : List Nat) : Clock :=
  slots.foldl (fun k i => Clock.join k (assocGet [] c.cellClk (cellKey h row side i))) []

/-- Acquire a clock. -/
def acquire (c : Ctx) (x : StreamId) (k : Clock) : Ctx :=
  let t := c.stream x
  c.putStream x { t with clk := Clock.join t.clk k }

/-! ## Phase cells (Table 7.9) -/

/-- A cell row as a number. -/
def cellRow (x : Handle) (row : Nat) : Nat := leValue (x.bytes row 0 16)

def setCellRow (c : Ctx) (x : Handle) (row v : Nat) : Ctx := c.putHandle (x.store row 0 (leBytes 16 v))

def cellPhase (v : Nat) : Nat := bitsN v 31 0
def cellExpect (v : Nat) : Nat := bitsN v 47 32
def cellPend (v : Nat) : Nat := bitsN v 63 48

/-- A cell of a phase, expected and pending counts. -/
def mkCell (phase expect pend : Nat) : Nat := phase % 2 ^ 32 + expect % 2 ^ 16 * 2 ^ 32 + pend % 2 ^ 16 * 2 ^ 48

/-- What a cycle's drops and arrivals make of a cell (R152): each drop lowers both counts by 1, then each arrival the pending one; at 0 or
less the phase completes once, and an excess is carried. With no party left the cell is idle (log 92). The last part: whether the phase
completes. -/
def CellNow.result (n : CellNow) : Nat × Nat × Int × Bool :=
  let e := n.expect - n.drops
  let p := n.pend - n.drops - n.arrs
  if p ≤ 0 then (n.phase + 1, e, if e = 0 then 0 else e + p, true) else (n.phase, e, p, false)

/-- The cell as the cycle found it. -/
def cellNow (c : Ctx) (x : Handle) (row : Nat) : CellNow :=
  let v := cellRow x row
  (c.cellNow.find? fun n => decide (n.h = x.id) && n.row == row).getD
    ⟨x.id, row, cellPhase v, cellExpect v, (cellPend v : Int), 0, 0, [], []⟩

/-- The cell with what a cycle has made of it so far. -/
def putCellNow (c : Ctx) (x : Handle) (n : CellNow) : Ctx :=
  let r := n.result
  { setCellRow c x n.row (mkCell r.1 r.2.1 (r.2.2.1 % 2 ^ 16).toNat) with
    cellNow := n :: c.cellNow.filter fun m => !(decide (m.h = n.h) && m.row == n.row) }

/-- What one more arrival releases joins what those of its phase have. -/
def joinPhase (l : List (Nat × Clock)) (phase : Nat) (k : Clock) : List (Nat × Clock) := assocSet l phase (Clock.join (assocGet [] l phase) k)

/-- The phase that the arrival `j` of a cycle belongs to (R152, R157), where `need` of them complete the phase: one beyond them is carried into
the next, or, as each takes `e` arrivals, into one after it. -/
def phaseOf (phase : Nat) (need e : Int) (done : Bool) (j : Nat) : Nat :=
  if !done || decide ((j : Int) < need) then phase else phase + 1 + (if e ≤ 0 then 0 else (((j : Int) - need) / e).toNat)

/-- What arrivals of a cycle, from the number `j` on, have released, in the phases that they belong to. -/
def spreadArrivals (f : Nat → Nat) (j : Nat) (l : List (Nat × Clock)) : List Clock → List (Nat × Clock)
  | [] => l
  | k :: ks => spreadArrivals f (j + 1) (joinPhase l (f j) k) ks

/-- What the drops and arrivals of this cycle have released at a cell, by phase. -/
def CellNow.clocks (n : CellNow) : List (Nat × Clock) :=
  spreadArrivals (fun j => phaseOf n.phase (n.pend - n.drops) (n.expect - n.drops : Nat) n.result.2.2.2 j % 2 ^ 32) 0
    (joinPhase [] n.phase n.dropClk) n.arrClk

/-- What the arrivals of a phase of a cell have released, those of this cycle among them (Table 7.12). -/
def Ctx.phaseClock (c : Ctx) (h : HId) (row phase : Nat) : Clock :=
  let p := phase % 2 ^ 32
  Clock.join (assocGet [] c.cellClk (cellKey h row 0 p))
    (match c.cellNow.find? fun n => decide (n.h = h) && n.row == row with
    | some n => assocGet [] n.clocks p
    | none => [])

/-- An arrival (`drop`: an arrive-and-drop) at a cell in this cycle, with what it releases (R152): none where the cycle found the pending
count at 0. -/
def arriveAt (c : Ctx) (x : Handle) (row : Nat) (drop : Bool) (k : Clock) : Option Ctx :=
  let n := cellNow c x row
  if n.pend = 0 then none
  else
    some (putCellNow c x (if drop then { n with drops := n.drops + 1, dropClk := Clock.join n.dropClk k }
      else { n with arrs := n.arrs + 1, arrClk := n.arrClk ++ [k] }))

/-- What the arrivals of a cycle have released at a cell stays with their phases; that of phases before the one completed last is needed no
more. -/
def keepClocks (c : Ctx) (n : CellNow) : Ctx :=
  { c with
    cellClk := n.clocks.foldl (fun l e => assocSet l (cellKey n.h n.row 0 e.1) (Clock.join (assocGet [] l (cellKey n.h n.row 0 e.1)) e.2))
      (c.cellClk.filter fun e => !(decide (e.1.1 = n.h) && e.1.2 % 2048 == n.row && decide (1 < (n.phase + 2 ^ 32 - e.1.2 / 2048) % 2 ^ 32) &&
        decide ((n.phase + 2 ^ 32 - e.1.2 / 2048) % 2 ^ 32 < 2 ^ 31))) }

/-- The cells of a context go into the next cycle: a carried pending count of 0 or less completes the next phase in it (R152). Whoever waits for
the phase before goes on waiting, as the cell has come two phases further (R153, log 109). -/
def settleCells (c : Ctx) : Ctx :=
  if c.cellNow = [] then c
  else
    c.cellNow.foldl (fun d (n : CellNow) =>
      let r := n.result
      let e := keepClocks d n
      if r.2.2.2 = true ∧ 0 < r.2.1 ∧ r.2.2.1 ≤ (0 : Int) then
        match e.handle n.h with
        | some x => putCellNow e x ⟨n.h, n.row, r.1 % 2 ^ 32, r.2.1, r.2.2.1, 0, 0, [], []⟩
        | none => e
      else e) { c with cellNow := [] }

/-- The trap of a word whose read of a cell or ring row meets an uncorrectable error (R327). -/
def eccTrap (t : State) (i : Instr) : Res := .trap t ⟨14, 0, i.engine, 0⟩

/-- Set a cell (R151). -/
def initCell (w : At) (t : State) (i : Instr) (h : HId) (r : HRow) (n : Nat) : Res :=
  match check10 w.cx h .cell r.val with
  | none => .trap t (badHandle i h)
  | some x =>
    let v := cellRow x r.val
    if x.meets r.val 0 16 then eccTrap t i
    else if cellPend v ≠ cellExpect v ∨ waiting w.cx (fun a b => decide (a = h) && b == r.val) then
      .trap t (protection i 5 h.val)
    else .done (t.putCtx ((setCellRow w.cx x r.val (mkCell 0 n n)).forget fun y k => decide (y = h) && k == r.val))

/-- `PINIT` (R151). -/
def execPinit (h : HId) (r : HRow) (n : Fin 64) (s : State) : Host.Outcome State Fault Refusal :=
  issue s (.pinit h r n) fun w t => initCell w t (.pinit h r n) h r n.val

/-- `PINITR` (R151). -/
def execPinitr (h : HId) (r : HRow) (x : SReg) (s : State) : Host.Outcome State Fault Refusal :=
  issue s (.pinitr h r x) fun w t =>
    let v := (w.st.sreg x).toNat
    match check10 w.cx h .cell r.val with
    | none => .trap t (badHandle (.pinitr h r x) h)
    | some _ =>
      if v / 2 ^ 16 ≠ 0 then .trap t (illegal (.pinitr h r x) 7) else initCell w t (.pinitr h r x) h r (v % 2 ^ 16)

/-- An arrival by a word (R152). -/
def arriveBody (i : Instr) (h : HId) (r : HRow) (drop : Bool) (w : At) (t : State) : Res :=
  match check10 w.cx h .cell r.val with
  | none => .trap t (badHandle i h)
  | some x =>
    let q := w.cx.tickStream w.ref.st
    if x.meets r.val 0 16 then eccTrap t i
    else
      match arriveAt q.2 x r.val drop q.1 with
      | none => .trap t (protection i 6 h.val)
      | some c => .done (t.putCtx c)

/-- `PARRIVE` (R152). -/
def execParrive (h : HId) (r : HRow) (s : State) : Host.Outcome State Fault Refusal :=
  issue s (.parrive h r) (arriveBody (.parrive h r) h r false)

/-- `PDROP` (R152). -/
def execPdrop (h : HId) (r : HRow) (s : State) : Host.Outcome State Fault Refusal :=
  issue s (.pdrop h r) (arriveBody (.pdrop h r) h r true)

/-- Body of `PWAIT` (R153): passes once bit 0 of the phase differs from p. -/
def pwaitBody (h : HId) (r : HRow) (p : Bool) (w : At) (t : State) : Res :=
  match check10 w.cx h .cell r.val with
  | none => .trap t (badHandle (.pwait h r p) h)
  | some x =>
    if x.meets r.val 0 16 then eccTrap t (.pwait h r p)
    else if bitN (cellRow x r.val) 0 != p then
      .done (t.putCtx (acquire w.cx w.ref.st (w.cx.phaseClock h r.val (cellPhase (cellRow x r.val) + 2 ^ 32 - 1))))
    else .hold t

/-- `PWAIT` (R153). -/
def execPwait (h : HId) (r : HRow) (p : Bool) (s : State) : Host.Outcome State Fault Refusal :=
  issue s (.pwait h r p) (pwaitBody h r p)

/-! ## Rings (Table 7.11) -/

/-- A ring control block. -/
structure Ring where
  n : Nat
  cl : Nat
  fl : Nat
  rd : Nat
  wr : Nat
  cmask : Nat

def ringOf (v : Nat) : Ring := ⟨bitsN v 38 32, bitsN v 30 24, bitsN v 22 16, bitsN v 13 8, bitsN v 5 0, bitsN v 127 64⟩

def ringVal (r : Ring) : Nat := r.wr + r.rd * 2 ^ 8 + r.fl * 2 ^ 16 + r.cl * 2 ^ 24 + r.n * 2 ^ 32 + r.cmask * 2 ^ 64

def Ring.free (r : Ring) : Nat := r.n - r.cl - r.fl

/-- Count committed slots in order (R154); at most `n` of them. -/
def Ring.settle (r : Ring) : Nat → Ring
  | 0 => r
  | k + 1 =>
    let j := (r.rd + r.fl) % r.n
    if 0 < r.cl && bitN r.cmask j then { r with cmask := r.cmask - 2 ^ j, fl := r.fl + 1, cl := r.cl - 1 }.settle k else r

/-- The filled slots, and the free ones, in order. -/
def Ring.filled (r : Ring) : List Nat := (List.range r.fl).map fun k => (r.rd + k) % r.n

def Ring.unused (r : Ring) : List Nat := (List.range r.free).map fun k => (r.wr + k) % r.n

/-- Is slot `i` claimed and not committed: one of the `cl` slots that follow (rd + fl) mod n? -/
def Ring.claimed (r : Ring) (i : Nat) : Bool :=
  (List.range r.cl).any fun k => (r.rd + r.fl + k) % r.n == i && !bitN r.cmask i

/-- A ring word: check 10, then a ring that is initialised. -/
def ringBody (i : Instr) (h : HId) (r : HRow) (w : At) (t : State) (f : Handle → Ring → Res) : Res :=
  match check10 w.cx h .cell r.val with
  | none => .trap t (badHandle i h)
  | some x =>
    let g := ringOf (cellRow x r.val)
    if x.meets r.val 0 16 then eccTrap t i
    else if g.n = 0 then .trap t (protection i 7 h.val) else f x g

/-- `RINIT` (R154). -/
def execRinit (h : HId) (r : HRow) (x : SReg) (s : State) : Host.Outcome State Fault Refusal :=
  issue s (.rinit h r x) fun w t =>
    let v := (w.st.sreg x).toNat
    match check10 w.cx h .cell r.val with
    | none => .trap t (badHandle (.rinit h r x) h)
    | some y =>
      if v = 0 ∨ 64 < v then .trap t (illegal (.rinit h r x) 7)
      else if waiting w.cx (fun a b => decide (a = h) && b == r.val) then .trap t (protection (.rinit h r x) 5 h.val)
      else
        .done (t.putCtx ((setCellRow w.cx y r.val (ringVal ⟨v, 0, 0, 0, 0, 0⟩)).forget fun z k => decide (z = h) && k == r.val))

/-- Body of `RCLAIM` (R154). -/
def rclaimBody (h : HId) (r : HRow) (x : SReg) (w : At) (t : State) : Res :=
  ringBody (.rclaim h r x) h r w t fun y g =>
    if g.free = 0 then .hold t
    else
      let c := acquire (setCellRow w.cx y r.val (ringVal { g with wr := (g.wr + 1) % g.n, cl := g.cl + 1 }))
        w.ref.st (slotClock w.cx h r.val 3 [g.wr])
      .done (t.putCtx (c.putStream w.ref.st
        ((c.stream w.ref.st).fly w.seq (.s x) (BitVec.ofNat 64 g.wr) .interlocked)))

/-- `RCLAIM` (R154). -/
def execRclaim (h : HId) (r : HRow) (x : SReg) (s : State) : Host.Outcome State Fault Refusal :=
  issue s (.rclaim h r x) (rclaimBody h r x)

/-- `RCOMMIT` (R154). -/
def execRcommit (h : HId) (r : HRow) (x : SReg) (s : State) : Host.Outcome State Fault Refusal :=
  issue s (.rcommit h r x) fun w t =>
    ringBody (.rcommit h r x) h r w t fun y g =>
      let i := (w.st.sreg x).toNat
      if !g.claimed i then .trap t (protection (.rcommit h r x) 7 h.val)
      else
        .done (t.putCtx (releaseSlot (setCellRow w.cx y r.val
          (ringVal ({ g with cmask := g.cmask + 2 ^ i }.settle g.n))) w.ref.st h r.val 2 i))

/-- Body of `RWFILL` (R154): waits until fl ≥ k. -/
def rwfillBody (h : HId) (r : HRow) (k : Fin 64) (w : At) (t : State) : Res :=
  ringBody (.rwfill h r k) h r w t fun _ g =>
    if g.n < k.val then .trap t (protection (.rwfill h r k) 7 h.val)
    else if k.val ≤ g.fl then .done (t.putCtx (acquire w.cx w.ref.st (slotClock w.cx h r.val 2 g.filled)))
    else .hold t

/-- `RWFILL` (R154). -/
def execRwfill (h : HId) (r : HRow) (k : Fin 64) (s : State) : Host.Outcome State Fault Refusal :=
  issue s (.rwfill h r k) (rwfillBody h r k)

/-- Body of `RWFREE` (R154): waits until free ≥ k. -/
def rwfreeBody (h : HId) (r : HRow) (k : Fin 64) (w : At) (t : State) : Res :=
  ringBody (.rwfree h r k) h r w t fun _ g =>
    if g.n < k.val then .trap t (protection (.rwfree h r k) 7 h.val)
    else if k.val ≤ g.free then .done (t.putCtx (acquire w.cx w.ref.st (slotClock w.cx h r.val 3 g.unused)))
    else .hold t

/-- `RWFREE` (R154). -/
def execRwfree (h : HId) (r : HRow) (k : Fin 64) (s : State) : Host.Outcome State Fault Refusal :=
  issue s (.rwfree h r k) (rwfreeBody h r k)

/-- `RFREE` (R154). -/
def execRfree (h : HId) (r : HRow) (x : SReg) (s : State) : Host.Outcome State Fault Refusal :=
  issue s (.rfree h r x) fun w t =>
    ringBody (.rfree h r x) h r w t fun y g =>
      if g.fl = 0 ∨ (w.st.sreg x).toNat ≠ g.rd then .trap t (protection (.rfree h r x) 7 h.val)
      else
        .done (t.putCtx (releaseSlot (setCellRow w.cx y r.val (ringVal { g with rd := (g.rd + 1) % g.n, fl := g.fl - 1 }))
          w.ref.st h r.val 3 g.rd))

/-! ## Belay (R156, R157) -/

/-- Does an instance count a core of a die: a module-scope one, or that of the die? -/
def TagSt.serves (x : TagSt) (t : Tag) (k : CoreId) : Bool :=
  decide (x.tag = t) && (match x.die with
    | none => true
    | some d => decide (k.die = some d))

/-- The instance of a tag that counts a core. -/
def tagOf (s : State) (t : Tag) (k : CoreId) : Option TagSt := s.tags.find? fun x => x.serves t k

/-- Replace a tag instance. -/
def putTag (s : State) (x : TagSt) : State :=
  { s with tags := s.tags.map fun y => if y.tag = x.tag ∧ y.die = x.die then x else y }

/-- Protection trap for a tag (sub-reason 9). -/
def tagTrap (t : State) (tag : Tag) : Res := .trap t ⟨5, 9 * 256 + tag.val, 6, 0⟩

/-- What the arrivals of a phase have released. -/
def TagSt.clock (x : TagSt) (phase : Nat) : Clock := assocGet [] x.clks phase

/-- An arrival (`drop`: an arrive-and-drop) reaches a tag instance; it is counted at the end of the cycle. A drop leaves the member set. -/
def TagSt.arrive (x : TagSt) (r : StreamRef) (pc : Word) (drop : Bool) (c : Clock) : TagSt :=
  { x with
    members := if drop then x.members.filter fun m => decide (m ≠ r.ctx.core) else x.members
    evs := x.evs ++ [(r, pc, drop, c)] }

/-- The drops of a cycle, and its arrivals, at a tag instance. -/
def TagSt.dropped (x : TagSt) : List (StreamRef × Word × Bool × Clock) := x.evs.filter fun e => e.2.2.1

def TagSt.arrivals (x : TagSt) : List (StreamRef × Word × Bool × Clock) := x.evs.filter fun e => !e.2.2.1

/-- Does the cycle complete a phase of a tag instance? -/
def TagSt.completes (x : TagSt) : Bool := decide (x.pend - (x.evs.length : Nat) ≤ 0) && decide (0 < x.expect)

/-- The phase that the arrival `j` of the cycle belongs to (R157). -/
def TagSt.phaseAt (x : TagSt) (j : Nat) : Nat :=
  phaseOf x.phase (x.pend - (x.dropped.length : Nat)) (x.expect - (x.dropped.length : Nat)) x.completes j

/-- The arrivals of a cycle that are carried into a later phase (R157): those beyond the pending count, once the drops have lowered it, each
with its phase. -/
def TagSt.carried (x : TagSt) : List ((StreamRef × Word) × Nat) :=
  (((List.range x.arrivals.length).zip x.arrivals).map fun e => ((e.2.1, e.2.2.1), x.phaseAt e.1)).filter fun e => decide (e.2 ≠ x.phase)

/-- Has a tag instance something to count at the end of a cycle: arrivals or drops, or a carried pending count of 0 or less? -/
def TagSt.counts (x : TagSt) : Bool := decide (x.evs ≠ []) || (decide (x.pend ≤ 0) && decide (0 < x.expect))

/-- The end of a cycle at a tag instance, by the order of R152: drops, arrivals, one completion, which reaches the members 20 cycles later
for a die tag and 60 for a module tag. With no party left it completes no further phase (log 92). -/
def TagSt.settle (x : TagSt) (now : Nat) : TagSt :=
  if !x.counts then x
  else
    let e := x.expect - (x.dropped.length : Nat)
    let p := x.pend - (x.evs.length : Nat)
    let k := spreadArrivals x.phaseAt 0 (x.dropped.foldl (fun l d => joinPhase l x.phase d.2.2.2) x.clks) (x.arrivals.map fun a => a.2.2.2)
    if x.completes then
      { x with
        evs := [], expect := e, phase := x.phase + 1, pend := if e ≤ 0 then 0 else e + p, clks := k
        coming := x.coming ++ [(x.phase, now + if x.die.isSome then 20 else 60)] }
    else { x with evs := [], expect := e, pend := p, clks := k }

/-- What a job knows of a tag. -/
def Ctx.tagV (c : Ctx) (t : Tag) : TagView := c.tagView.get t

def Ctx.putTagV (c : Ctx) (t : Tag) (v : TagView) : Ctx := { c with tagView := c.tagView.set t.val v t.isLt }

/-- What a job's arrival releases: what all its streams have done so far (Table 7.12). -/
def Ctx.releaseJob (c : Ctx) : Clock × Ctx :=
  let d := c.mapStreams fun x t => { t with clk := Clock.tick t.clk (streamAgent c.job x) }
  ([StreamId.C, .A, .L, .S, .N].foldl (fun k x => Clock.join k (d.stream x).clk) [], d)

/-- A carried arrival belongs to a later phase: what its job and its word know of the phase (R157). -/
def carryOne (tag : Tag) (phase : Nat) (s : State) (e : (StreamRef × Word) × Nat) : State :=
  match s.ctx e.1.1.ctx with
  | none => s
  | some c =>
    let t := c.stream e.1.1.st
    let d := c.putStream e.1.1.st { t with joined := t.joined.map fun j => if j = (e.1.2, phase) then (e.1.2, e.2) else j }
    s.putCtx (if (d.tagV tag).last = some phase then d.putTagV tag ⟨some e.2, false⟩ else d)

/-- The end of a cycle at the tags. -/
def settleTags (s : State) : State :=
  (s.tags.filter TagSt.counts).foldl (fun t x =>
    let y := x.settle t.now
    putTag (if y.phase = x.phase then t else x.carried.foldl (carryOne x.tag x.phase) t) y) s

/-- An arrival of a job at a tag (R156): the uses that trap, else the state after it. -/
def belayArrive (w : At) (t : State) (tag : Tag) (drop : Bool) : Option (State × Nat) :=
  match tagOf t tag w.ref.ctx.core with
  | none => none
  | some x =>
    if !w.cx.card.owned.getLsbD tag.val || !x.members.any (fun m => decide (m = w.ref.ctx.core)) ||
        decide ((w.cx.tagV tag).last = some x.phase) then none
    else
      let q := w.cx.releaseJob
      some (putTag (t.putCtx (q.2.putTagV tag ⟨some x.phase, false⟩)) (x.arrive w.ref w.st.pc drop q.1), x.phase)

/-- `BARA` (R156). -/
def execBara (t : Tag) (s : State) : Host.Outcome State Fault Refusal :=
  issue s (.bara t) fun w u =>
    match belayArrive w u t false with
    | none => tagTrap u t
    | some q => .done q.1

/-- `BDROP` (R156). -/
def execBdrop (t : Tag) (s : State) : Host.Outcome State Fault Refusal :=
  issue s (.bdrop t) fun w u =>
    match belayArrive w u t true with
    | none => tagTrap u t
    | some q => .done q.1

/-- Wait for the completion of a phase of a tag; it is returned to the job when it has reached the members (R156). -/
def belayWait (tag : Tag) (phase : Nat) (w : At) (t : State) : Res :=
  match tagOf t tag w.ref.ctx.core, t.ctx w.ref.ctx with
  | some x, some c =>
    let st := c.stream w.ref.st
    let rest := st.joined.filter fun j => decide (j.1 ≠ st.pc)
    if phase < x.reached then
      let v := c.tagV tag
      let c1 := c.putStream w.ref.st { st with joined := rest, clk := Clock.join st.clk (x.clock phase) }
      .done (t.putCtx (if v.last = some phase then c1.putTagV tag { v with returned := true } else c1))
    else .hold (t.putCtx (c.putStream w.ref.st { st with joined := (st.pc, phase) :: rest }))
  | _, _ => tagTrap t tag

/-- The phase a word that waits already waits for. -/
def At.joinedPhase (w : At) : Option Nat := assocFind w.st.joined w.st.pc

/-- Body of `BWAIT` (R156). -/
def bwaitBody (tag : Tag) (w : At) (t : State) : Res :=
  match w.joinedPhase with
  | some p => belayWait tag p w t
  | none =>
    match tagOf t tag w.ref.ctx.core with
    | none => tagTrap t tag
    | some x =>
      if !w.cx.card.owned.getLsbD tag.val then tagTrap t tag
      else
        match (w.cx.tagV tag).last with
        | some p => if (w.cx.tagV tag).returned then belayWait tag x.phase w t else belayWait tag p w t
        | none => belayWait tag x.phase w t

/-- `BWAIT` (R156). -/
def execBwait (t : Tag) (s : State) : Host.Outcome State Fault Refusal := issue s (.bwait t) (bwaitBody t)

/-- Body of `BARR`: it arrives once, and then waits as `BWAIT` (R156, R157). -/
def barrBody (tag : Tag) (w : At) (t : State) : Res :=
  match w.joinedPhase with
  | some p => belayWait tag p w t
  | none =>
    match belayArrive w t tag false with
    | none => tagTrap t tag
    | some q => belayWait tag q.2 w q.1

/-- `BARR` (R156). -/
def execBarr (t : Tag) (s : State) : Host.Outcome State Fault Refusal := issue s (.barr t) (barrBody t)

/-- The oldest completion of a tag instance on its way has reached every member (R156). -/
def execBelayCompletion (t : Tag) (die : Option Die) (s : State) : Host.Outcome State Fault Refusal :=
  match s.tags.find? fun x => decide (x.tag = t) && decide (x.die = die) with
  | some x =>
    match x.coming with
    | (p, due) :: rest =>
      if due ≤ s.now then .next (putTag s { x with coming := rest, reached := max x.reached (p + 1) })
      else .refused (.notEnabled "BELAY_COMPLETION")
    | [] => .refused (.notEnabled "BELAY_COMPLETION")
  | none => .refused (.notEnabled "BELAY_COMPLETION")

/-- The tag that a held word waits at. -/
def Instr.waitTag : Instr → Option Tag
  | .bwait t => some t
  | .barr t => some t
  | _ => none

/-- Has the completion that a stream waits for in `BWAIT` or `BARR` reached its core? -/
def completionReached (s : State) (x : StreamRef) (st : Stream) (t : Tag) : Bool :=
  match tagOf s t x.ctx.core, assocFind st.joined st.pc with
  | some y, some p => decide (p < y.reached)
  | _, _ => false

/-- A stream held in `BWAIT` or `BARR` has waited `wdog` cycles: watchdog trap, detail 32 + t (R157). Its arrival stays counted. -/
def execBarrierWatchdog (x : StreamRef) (s : State) : Host.Outcome State Fault Refusal :=
  match s.ctx x.ctx with
  | none => .refused (.notEnabled "BARRIER_WATCHDOG")
  | some c =>
    let st := c.stream x.st
    match st.run with
    | .held h =>
      match Instr.waitTag h.word with
      | some t =>
        if !st.stopped && !c.frozen && !c.atSup && !completionReached s x st t && decide (st.wdog ≤ s.now - h.since) then .next (trapWord s x ⟨12, 32 + t.val, 6, 0⟩)
        else .refused (.notEnabled "BARRIER_WATCHDOG")
      | none => .refused (.notEnabled "BARRIER_WATCHDOG")
    | _ => .refused (.notEnabled "BARRIER_WATCHDOG")

/-! ## Guard slots (R158, R159) -/

/-- Number of a guard slot, 1 to 15. -/
def slotNo (g : GSlot) : Nat := g.val + 1

/-- Resolve a slot, seen by the queue heads from a cycle on (R218); none where it is resolved already. -/
def resolveSlot (c : Ctx) (g : GSlot) (v : Bool) (at_ : Nat) : Option Ctx :=
  match c.g.get g with
  | none => some { c with g := c.g.set g.val (some v) g.isLt, gAt := c.gAt.set g.val at_ g.isLt }
  | some _ => none

/-- The slot as the queue heads see it. -/
def Ctx.guardSeen (c : Ctx) (now : Nat) (g : GSlot) : Option Bool := if c.gAt.get g ≤ now then c.g.get g else none

/-- Resolve a slot by a word: a resolved one is guard misuse (cause 10). -/
def guardBody (g : GSlot) (v : Bool) (w : At) (t : State) : Res :=
  match resolveSlot w.cx g v (t.now + 1) with
  | some c => .done (t.putCtx c)
  | none => .trap t ⟨10, slotNo g, 6, 0⟩

/-- `GSET` (R158). -/
def execGset (g : GSlot) (c : CSlot) (s : State) : Host.Outcome State Fault Refusal :=
  issue s (.gset g c) fun w t => guardBody g (w.st.creg c) w t

/-- `GSETI` (R158). -/
def execGseti (g : GSlot) (v : Bool) (s : State) : Host.Outcome State Fault Refusal :=
  issue s (.gseti g v) (guardBody g v)

/-- The guard of a queued word (R63). -/
def Instr.guard : Instr → Guard
  | .lacq g => g | .lrel g => g | .bload g .. => g | .mma g .. => g | .drain g .. => g | .dbias g .. => g
  | .dact g .. => g | .dtt g .. => g | .dclamp g .. => g | .drainm g .. => g | .stats g .. => g | .statc g .. => g
  | .statg g .. => g | .fft g .. => g | .ifft g .. => g | .shtf g .. => g | .shti g .. => g | .plan g .. => g
  | .mma3 g .. => g | .layerf g .. => g | .layerd g .. => g | .layerw g .. => g | .layeru g .. => g
  | .copy g .. => g | .chain g .. => g | .pref g .. => g | .retn g .. => g | .invr g .. => g | .copyo g .. => g
  | .chaino g .. => g | .copya g .. => g | .chaina g .. => g | .offl g .. => g | .wbr g .. => g
  | .zpop g .. => g | .zpush g .. => g | .zopen g .. => g | .zclose g .. => g | .tune g .. => g | .trav g .. => g
  | .pushr g .. => g | .ncomb g .. => g
  | _ => .always

/-- The slot a guard names. -/
def Guard.slot : Guard → Option GSlot
  | .always => none
  | .onTrue g => some g
  | .onFalse g => some g

/-- Body of `GCLR` (R159): on a resolved slot it waits until no queue holds a command guarded on it. A command leaves its queue when it
completes or is discarded (R227). -/
def gclrBody (g : GSlot) (w : At) (t : State) : Res :=
  match w.cx.g.get g with
  | none => .done t
  | some _ =>
    if w.cx.cmds.any fun d => decide (Guard.slot (Instr.guard d.word) = some g) then .hold t
    else .done (t.putCtx { w.cx with g := w.cx.g.set g.val none g.isLt })

/-- `GCLR` (R159). -/
def execGclr (g : GSlot) (s : State) : Host.Outcome State Fault Refusal := issue s (.gclr g) (gclrBody g)

/-! ## Streams (R19, R160, R161) -/

/-- The stream that `FORK` names. -/
def forkStream : ForkStream → StreamId
  | .a => .A | .l => .L | .s => .S | .n => .N

def forkRole : ForkRole → StreamId → Fin 4
  | .loader, _ => 0
  | .arith, _ => 1
  | .epilogue, _ => 2
  | .default, x => defaultRole x

/-- A stream started by `FORK` (R19): s1-s15 of the forking stream, everything else at its reset value. -/
def forked (src : Vector Word 64) (role : Fin 4) (pc : Word) (mode : Bool) (now : Nat) : Stream :=
  { Stream.reset role with
    s := Vector.ofFn fun i => if 1 ≤ i.val ∧ i.val ≤ 15 then src.get i else 0
    pc := pcOf pc
    mode := mode
    run := .run
    firstAt := now + 1
    laterAt := now + 3 }

/-- Body of `FORK` (R160): it waits until a running stream has parked. The stream is the same agent in every run (R228): it keeps what is
known to come before its accesses. -/
def forkBody (x : ForkStream) (r : ForkRole) (o : BitVec 18) (w : At) (t : State) : Res :=
  let y := forkStream x
  if y = w.ref.st then .trap t (illegal (.fork x r o) 2)
  else if (w.cx.stream y).run.forked then .hold t
  else .done (t.putCtx (w.cx.putStream y
    { forked w.regs (forkRole r y) (w.st.pc + (o.signExtend 64 <<< 2)) w.ref.ctx.core.isSup t.now with
      clk := Clock.join w.cx.baseClk (w.cx.stream y).clk }))

/-- `FORK` (R160). -/
def execFork (x : ForkStream) (r : ForkRole) (o : BitVec 18) (s : State) : Host.Outcome State Fault Refusal :=
  issue s (.fork x r o) (forkBody x r o)

/-- The condition of R20: every other stream parked or never forked, every queue empty, every command completed. -/
def joinedAll (c : Ctx) : Bool :=
  !([StreamId.A, .L, .S, .N].any fun i => (c.stream i).run.forked) && decide (c.cmds = []) && c.vxc.isNone

/-- Body of `RDV` (R161): it parks a stream other than C; in the C stream it waits for the others. -/
def rdvBody (w : At) (t : State) : Res :=
  if w.ref.st = .C then (if joinedAll w.cx then .done t else .hold t)
  else .moved (w.put t { w.st with run := .parked, aged := 0 })

/-- `RDV` (R161). -/
def execRdv (s : State) : Host.Outcome State Fault Refusal := issue s .rdv rdvBody

end Sys2Proof.Machine
end

