-- ==== Sys2Proof/Machine/Operands.lean ====
section
/-! DEFINITION. Operand forms: element views of vector registers (Table 4.3, R105), elements of handle rows (R40-R44), and the
range checker's view of an operand (R125, R216). -/

namespace Sys2Proof

/-- Bits of an element of a view (Table 4.3). -/
def VType.width : VType → Nat
  | .F => 32 | .D => 64 | .I => 32 | .N => 32 | .L => 64 | .B => 16 | .E => 8 | .M => 8

/-- Is an integer view signed? -/
def VType.isSigned : VType → Bool
  | .N => false
  | _ => true

end Sys2Proof

namespace Sys2Proof.Machine

/-! ## Vector registers and predicates -/

/-- The float format of a view; none for an integer view. -/
def viewFmt : VType → Option FloatFmt
  | .F => some f32 | .D => some f64 | .B => some bf16 | .E => some e4m3 | .M => some e5m2
  | .I => none | .N => none | .L => none

/-- Element `j` of `w` bits of a register. -/
def velem (v : BitVec 2048) (w j : Nat) : Nat := v.toNat / 2 ^ (w * j) % 2 ^ w

/-- Elements of `w` bits, lowest first, as a number. -/
def packElems (w : Nat) : List Nat → Nat
  | [] => 0
  | x :: xs => x % 2 ^ w + 2 ^ w * packElems w xs

/-- Elements as a register. -/
def vreg (w : Nat) (xs : List Nat) : BitVec 2048 := BitVec.ofNat 2048 (packElems w xs)

/-- Is element `j` of `w` bits active (R105)? -/
def vactive (p : BitVec 64) (w j : Nat) : Bool := p.getLsbD (j * w / 32)

/-- A register with each element given by `f`. -/
def vmap (w : Nat) (f : Nat → Nat) : BitVec 2048 := vreg w ((List.range (2048 / w)).map f)

/-- The active elements of a view, ascending. -/
def vactives (p : BitVec 64) (w : Nat) : List Nat := (List.range (2048 / w)).filter (vactive p w)

/-- Reading a vector register. -/
def Ctx.vreg (c : Ctx) (r : VReg) : BitVec 2048 := c.v.get r

def Ctx.setV (c : Ctx) (r : VReg) (x : BitVec 2048) : Ctx := { c with v := c.v.set r.val x r.isLt }

/-- Writing a predicate: a write to p0 is discarded (Table 2.1). -/
def Ctx.setP (c : Ctx) (r : PReg) (x : BitVec 64) : Ctx := if r = 0 then c else { c with p := c.p.set r.val x r.isLt }

/-- Update a context. -/
def State.mapCtx (s : State) (x : CtxId) (f : Ctx → Ctx) : State :=
  match s.ctx x with
  | some c => s.putCtx (f c)
  | none => s

/-! ## Elements of handles -/

/-- The stored bits of an element of a format that is no BX one. -/
def Handle.raw (x : Handle) (f : Fin 16) (row e : Nat) : Nat := leValue (x.bytes row (e * ewidth f) (ewidth f))

/-- A BX block of a row. -/
def Handle.block (x : Handle) (f : Fin 16) (row b : Nat) : List Byte := x.bytes row (b * bxBytes f) (bxBytes f)

/-- Value of an element as stored. -/
def Handle.num (x : Handle) (f : Fin 16) (row e : Nat) : Num :=
  if isBx f then bxElem f (x.block f row (e / 32)) (e % 32) else elemNum f (x.raw f row e)

/-- The 32 values of a BX block; those past the row's columns are +0 (R41). -/
def Handle.blockNums (x : Handle) (f : Fin 16) (row b : Nat) : List Num :=
  (List.range 32).map fun j => if 32 * b + j < x.cols then bxElem f (x.block f row b) j else .zero

/-- Store the bits of an element of a format that is no BX one. -/
def Handle.putRaw (x : Handle) (f : Fin 16) (row e bits : Nat) : Handle :=
  x.store row (e * ewidth f) (leBytes (ewidth f) bits)

/-! ## Rows that words use (R125) -/

/-- Does a set of rows hold a row? -/
def rowIn (l : List RowSet) (h : HId) (row : Nat) : Bool :=
  l.any fun r => decide (r.h = h) && decide (r.lo ≤ row) && decide (row ≤ r.hi)

/-- Must a word that reads (`write`: writes) a row wait for earlier commands of its job or a `VXC` handle command? -/
def rowBusy (c : Ctx) (seq : Nat) (h : HId) (row : Nat) (write : Bool) : Bool :=
  (c.issued.any fun d => decide (d.seq < seq) && (rowIn d.writes h row || (write && rowIn d.reads h row))) ||
  (match c.vxc with
    | some v => decide (v.handle = h) && (v.kind == 3 || (write && v.kind == 2))
    | none => false)

/-- The same for a word that uses every row of a handle. -/
def handleBusy (c : Ctx) (seq : Nat) (h : HId) (write : Bool) : Bool :=
  c.issued.any fun d => decide (d.seq < seq) && ((d.writes ++ if write then d.reads else []).any fun r => decide (r.h = h))

end Sys2Proof.Machine
end

