-- ==== Sys2Proof/Machine/Vector.lean ====
section
/-! DEFINITION. Elementwise, conversion, compare, predicate, cross-lane and lane words of the vector unit
(spec/06_vector_unit.md, R105-R121). The register takes a result in the step that issues the word; the words that read it,
and `fflags`, wait for its latency (log 5). -/

namespace Sys2Proof.Machine

/-! ## Elements -/

/-- An operand of arithmetic: in an FP8 format every NaN counts as signalling (R38). -/
def FloatFmt.arg (f : FloatFmt) (x : Nat) : Num :=
  match f.decode x with
  | .nan s => .nan (s || f.fp8)
  | y => y

/-- Round the exact result of arithmetic into a format, with its flags. -/
def FloatFmt.fin (f : FloatFmt) (st : Stream) (r : Num × FFlags) : Nat × FFlags :=
  let q := f.result (rmOf st.round) st.satfp r.1
  (q.1, r.2 ||| q.2)

/-- An elementwise operation of a view: on values for a float view, on bits for an integer one. -/
def elem2 (t : VType) (st : Stream) (ff : Num → Num → Num × FFlags) (fi : Nat → Nat → Nat × FFlags) (a b : Nat) :
    Nat × FFlags :=
  match viewFmt t with
  | some f => f.fin st (ff (f.arg a) (f.arg b))
  | none => fi a b

/-- An integer operation that wraps and sets no flag (R34). -/
def wrapOp (w : Nat) (f : Int → Int → Int) (a b : Nat) : Nat × FFlags := (wrapN w (f a b), fNone)

/-- Order of floats for minimum and maximum: −0 lies below +0 (R109). -/
def minLess (x y : Num) : Bool := x.lt y || (x.isZero && y.isZero && x.sign && !y.sign)

/-- Minimum or maximum of an element (R109). -/
def elemMin (isMin : Bool) (t : VType) (a b : Nat) : Nat × FFlags :=
  match viewFmt t with
  | some f =>
    let x := f.arg a
    let y := f.arg b
    if x.isNan || y.isNan then (f.nan, sigFlag [x, y])
    else if (if isMin then minLess y x else minLess x y) then (b, fNone) else (a, fNone)
  | none =>
    let v (n : Nat) : Int := if t.isSigned then sextN t.width n else n
    if (if isMin then decide (v b < v a) else decide (v a < v b)) then (b, fNone) else (a, fNone)

/-- Sign-bit or magnitude operations: on floats they change the sign bit alone (Table 6.2). -/
def elemAbs (t : VType) (a : Nat) : Nat :=
  match viewFmt t with
  | some _ => a % 2 ^ (t.width - 1)
  | none => if bitN a (t.width - 1) then wrapN t.width (-(a : Int)) else a

def elemNeg (t : VType) (a : Nat) : Nat :=
  match viewFmt t with
  | some _ => (a + 2 ^ (t.width - 1)) % 2 ^ t.width
  | none => wrapN t.width (-(a : Int))

/-- Division of an element (R110): quotient, remainder, flags; the remainder of a float is not used. -/
def elemDiv (t : VType) (st : Stream) (a b : Nat) : Nat × Nat × FFlags :=
  match viewFmt t with
  | some f => let r := f.fin st (Num.div 128 (f.arg a) (f.arg b)); (r.1, 0, r.2)
  | none => if t.isSigned then divSigned t.width a b else divUnsigned t.width a b

/-! ## The shape of an elementwise word (R108) -/

/-- New bits of a register and flags: `f` at the active elements; inactive ones keep their bits or become 0. -/
def vwrite (w : Nat) (p : BitVec 64) (z : Bool) (old : BitVec 2048) (f : Nat → Nat × FFlags) : BitVec 2048 × FFlags :=
  let rs := (List.range (2048 / w)).map fun j =>
    if vactive p w j then f j else (if z then 0 else velem old w j, fNone)
  (vreg w (rs.map (·.1)), rs.foldl (fun a r => a ||| r.2) fNone)

/-- When a vector word completes: its latency after it issues (Table 6.1); when the shared divider has its result, with none (R110). -/
def vdue (t : State) : Option Nat → Due
  | some n => .unit (t.now + n)
  | none => .divider

/-- The end of a vector word: the register, the flags in flight, and its latency. -/
def At.vdone (w : At) (t : State) (lat : Option Nat) (d : VReg) (r : BitVec 2048 × FFlags) : Res :=
  .done (t.putCtx ((w.cx.setV d r.1).putStream w.ref.st (w.st.flyFlags w.seq (.v d) 0 r.2 (vdue t lat))))

/-- The end of a predicate word: a write to p0 is discarded, its flags are not. -/
def At.pdone (w : At) (t : State) (lat : Option Nat) (d : PReg) (r : BitVec 64 × FFlags) : Res :=
  .done (t.putCtx ((w.cx.setP d r.1).putStream w.ref.st (w.st.flyFlags w.seq (.p d) 0 r.2 (vdue t lat))))

/-- A word of two sources, with the old element as third. -/
def vbin (lat : Option Nat) (d a b : VReg) (t : VType) (p : PReg) (z : Bool) (f : Stream → Nat → Nat → Nat → Nat × FFlags) (w : At)
    (s : State) : Res :=
  let x := w.cx.vreg a
  let y := w.cx.vreg b
  let o := w.cx.vreg d
  w.vdone s lat d (vwrite t.width (w.cx.preg p) z o fun j =>
    f w.st (velem o t.width j) (velem x t.width j) (velem y t.width j))

/-- A word of one source. -/
def vun (lat : Option Nat) (d a : VReg) (t : VType) (p : PReg) (z : Bool) (f : Stream → Nat → Nat × FFlags) (w : At) (s : State) : Res :=
  let x := w.cx.vreg a
  w.vdone s lat d (vwrite t.width (w.cx.preg p) z (w.cx.vreg d) fun j => f w.st (velem x t.width j))

/-- A faithful word: rounded by RNE whatever `round` holds (R111). -/
def faithful (f : Num → Num × FFlags) (_ : Stream) (a : Nat) : Nat × FFlags :=
  let r := f (f32.decode a)
  let q := f32.result .rne false r.1
  (q.1, r.2 ||| q.2)

/-- A correct word on a float view: rounded by `round`. -/
def correct (t : VType) (f : Num → Num × FFlags) (st : Stream) (a : Nat) : Nat × FFlags :=
  match viewFmt t with
  | some g => g.fin st (f (g.decode a))
  | none => (a, fNone)

/-- Shift amount of an element (R112). -/
def vsh (t : VType) (b : Nat) : Nat := b % t.width

/-! ## Elementwise words (Table 6.2) -/

/-- `VADD`: a + b. -/
def execVadd (d a b : VReg) (t : VType) (p : PReg) (z : Bool) (s : State) : Host.Outcome State Fault Refusal :=
  issue s (.vadd d a b t p z) (vbin (some 2) d a b t p z fun st _ x y => elem2 t st (Num.add (rmOf st.round)) (wrapOp t.width (· + ·)) x y)

/-- `VSUB`: a − b. -/
def execVsub (d a b : VReg) (t : VType) (p : PReg) (z : Bool) (s : State) : Host.Outcome State Fault Refusal :=
  issue s (.vsub d a b t p z) (vbin (some 2) d a b t p z fun st _ x y =>
    elem2 t st (fun m n => Num.add (rmOf st.round) m n.neg) (wrapOp t.width (· - ·)) x y)

/-- `VMUL`: a × b. -/
def execVmul (d a b : VReg) (t : VType) (p : PReg) (z : Bool) (s : State) : Host.Outcome State Fault Refusal :=
  issue s (.vmul d a b t p z) (vbin (some 4) d a b t p z fun st _ x y => elem2 t st Num.mul (wrapOp t.width (· * ·)) x y)

/-- `VMIN` (R109). -/
def execVmin (d a b : VReg) (t : VType) (p : PReg) (z : Bool) (s : State) : Host.Outcome State Fault Refusal :=
  issue s (.vmin d a b t p z) (vbin (some 2) d a b t p z fun _ _ x y => elemMin true t x y)

/-- `VMAX` (R109). -/
def execVmax (d a b : VReg) (t : VType) (p : PReg) (z : Bool) (s : State) : Host.Outcome State Fault Refusal :=
  issue s (.vmax d a b t p z) (vbin (some 2) d a b t p z fun _ _ x y => elemMin false t x y)

/-- `VFMA`: d + a × b, rounded once. -/
def execVfma (d a b : VReg) (t : VType) (p : PReg) (z : Bool) (s : State) : Host.Outcome State Fault Refusal :=
  issue s (.vfma d a b t p z) (vbin (some 4) d a b t p z fun st o x y =>
    match viewFmt t with
    | some f => f.fin st (Num.fma (rmOf st.round) (f.arg x) (f.arg y) (f.arg o))
    | none => (o, fNone))

/-- `VFMS`: −d + a × b, rounded once. -/
def execVfms (d a b : VReg) (t : VType) (p : PReg) (z : Bool) (s : State) : Host.Outcome State Fault Refusal :=
  issue s (.vfms d a b t p z) (vbin (some 4) d a b t p z fun st o x y =>
    match viewFmt t with
    | some f => f.fin st (Num.fma (rmOf st.round) (f.arg x) (f.arg y) (f.arg o).neg)
    | none => (o, fNone))

/-- `VABS`. -/
def execVabs (d a : VReg) (t : VType) (p : PReg) (z : Bool) (s : State) : Host.Outcome State Fault Refusal :=
  issue s (.vabs d a t p z) (vun (some 2) d a t p z fun _ x => (elemAbs t x, fNone))

/-- `VNEG`. -/
def execVneg (d a : VReg) (t : VType) (p : PReg) (z : Bool) (s : State) : Host.Outcome State Fault Refusal :=
  issue s (.vneg d a t p z) (vun (some 2) d a t p z fun _ x => (elemNeg t x, fNone))

/-- `VDIV` (R110). -/
def execVdiv (d a b : VReg) (t : VType) (p : PReg) (z : Bool) (s : State) : Host.Outcome State Fault Refusal :=
  issue s (.vdiv d a b t p z) (vbin none d a b t p z fun st _ x y =>
    let r := elemDiv t st x y
    (r.1, r.2.2))

/-- `VREM` (R110). -/
def execVrem (d a b : VReg) (t : VType) (p : PReg) (z : Bool) (s : State) : Host.Outcome State Fault Refusal :=
  issue s (.vrem d a b t p z) (vbin none d a b t p z fun st _ x y =>
    let r := elemDiv t st x y
    (r.2.1, r.2.2))

/-! ## Square root and special functions (Table 6.3) -/

/-- `VSQRT`: correct. -/
def execVsqrt (d a : VReg) (t : VType) (p : PReg) (z : Bool) (s : State) : Host.Outcome State Fault Refusal :=
  issue s (.vsqrt d a t p z) (vun (some (if t.width = 64 then 24 else 14)) d a t p z (correct t (Num.sqrt 128)))

/-- `VRCP`: correct. -/
def execVrcp (d a : VReg) (t : VType) (p : PReg) (z : Bool) (s : State) : Host.Outcome State Fault Refusal :=
  issue s (.vrcp d a t p z) (vun (some 12) d a t p z (correct t Num.rcp))

/-- `VRSQ`: correct. -/
def execVrsq (d a : VReg) (t : VType) (p : PReg) (z : Bool) (s : State) : Host.Outcome State Fault Refusal :=
  issue s (.vrsq d a t p z) (vun (some 12) d a t p z (correct t Num.rsq))

/-- `VEXP2`: faithful. -/
def execVexp2 (d a : VReg) (t : VType) (p : PReg) (z : Bool) (s : State) : Host.Outcome State Fault Refusal :=
  issue s (.vexp2 d a t p z) (vun (some 12) d a t p z (faithful Num.exp2))

/-- `VLOG2`: faithful. -/
def execVlog2 (d a : VReg) (t : VType) (p : PReg) (z : Bool) (s : State) : Host.Outcome State Fault Refusal :=
  issue s (.vlog2 d a t p z) (vun (some 12) d a t p z (faithful Num.log2))

/-- `VSIN`: faithful. -/
def execVsin (d a : VReg) (t : VType) (p : PReg) (z : Bool) (s : State) : Host.Outcome State Fault Refusal :=
  issue s (.vsin d a t p z) (vun (some 12) d a t p z (faithful Num.sinTurn))

/-- `VCOS`: faithful. -/
def execVcos (d a : VReg) (t : VType) (p : PReg) (z : Bool) (s : State) : Host.Outcome State Fault Refusal :=
  issue s (.vcos d a t p z) (vun (some 12) d a t p z (faithful Num.cosTurn))

/-- `VTANH`: faithful. -/
def execVtanh (d a : VReg) (t : VType) (p : PReg) (z : Bool) (s : State) : Host.Outcome State Fault Refusal :=
  issue s (.vtanh d a t p z) (vun (some 12) d a t p z (faithful Num.tanh))

/-! ## Logic, shifts and moves (R112, R115) -/

/-- `VAND`. -/
def execVand (d a b : VReg) (t : VType) (p : PReg) (z : Bool) (s : State) : Host.Outcome State Fault Refusal :=
  issue s (.vand d a b t p z) (vbin (some 2) d a b t p z fun _ _ x y => (x &&& y, fNone))

/-- `VOR`. -/
def execVor (d a b : VReg) (t : VType) (p : PReg) (z : Bool) (s : State) : Host.Outcome State Fault Refusal :=
  issue s (.vor d a b t p z) (vbin (some 2) d a b t p z fun _ _ x y => (x ||| y, fNone))

/-- `VXOR`. -/
def execVxor (d a b : VReg) (t : VType) (p : PReg) (z : Bool) (s : State) : Host.Outcome State Fault Refusal :=
  issue s (.vxor d a b t p z) (vbin (some 2) d a b t p z fun _ _ x y => (x ^^^ y, fNone))

/-- `VSLL`. -/
def execVsll (d a b : VReg) (t : VType) (p : PReg) (z : Bool) (s : State) : Host.Outcome State Fault Refusal :=
  issue s (.vsll d a b t p z) (vbin (some 2) d a b t p z fun _ _ x y => (x * 2 ^ vsh t y % 2 ^ t.width, fNone))

/-- `VSRL`: always logical. -/
def execVsrl (d a b : VReg) (t : VType) (p : PReg) (z : Bool) (s : State) : Host.Outcome State Fault Refusal :=
  issue s (.vsrl d a b t p z) (vbin (some 2) d a b t p z fun _ _ x y => (x / 2 ^ vsh t y, fNone))

/-- `VSRA`: always arithmetic. -/
def execVsra (d a b : VReg) (t : VType) (p : PReg) (z : Bool) (s : State) : Host.Outcome State Fault Refusal :=
  issue s (.vsra d a b t p z) (vbin (some 2) d a b t p z fun _ _ x y =>
    (wrapN t.width (sextN t.width x / (2 ^ vsh t y : Nat)), fNone))

/-- `VMOV`. -/
def execVmov (d a : VReg) (t : VType) (p : PReg) (z : Bool) (s : State) : Host.Outcome State Fault Refusal :=
  issue s (.vmov d a t p z) (vun (some 2) d a t p z fun _ x => (x, fNone))

/-! ## Conversion (R113) -/

/-- One element from a view into another, by `round`. -/
def vcvtElem (src t : VType) (st : Stream) (a : Nat) : Nat × FFlags :=
  let rm := rmOf st.round
  match viewFmt src, viewFmt t with
  | some f, some g => g.convert rm st.satfp (f.decode a)
  | some f, none => toIntFmt rm t.isSigned t.width (f.decode a)
  | none, some g => g.convert rm st.satfp (numOfInt (if src.isSigned then sextN src.width a else a))
  | none, none => intToInt t.isSigned t.width (if src.isSigned then sextN src.width a else a)

/-- `VCVT` (R113): elements past the source's count become 0. -/
def execVcvt (d a : VReg) (src t : VType) (p : PReg) (z : Bool) (s : State) : Host.Outcome State Fault Refusal :=
  issue s (.vcvt d a src t p z) fun w u =>
    let x := w.cx.vreg a
    w.vdone u (some 4) d (vwrite t.width (w.cx.preg p) z (w.cx.vreg d) fun j =>
      if j < 2048 / src.width then vcvtElem src t w.st (velem x src.width j) else (0, fNone))

/-! ## Compares and predicates (R114-R116) -/

/-- A relation on an element, with its flags: `quiet` relations set NV for signalling NaNs only. -/
def vrel (t : VType) (quiet : Bool) (ff : Num → Num → Bool) (fi : Int → Int → Bool) (a b : Nat) : Bool × FFlags :=
  match viewFmt t with
  | some f =>
    let x := f.decode a
    let y := f.decode b
    (ff x y, if quiet then sigFlag [x, y] else if x.isNan || y.isNan then fNV else fNone)
  | none =>
    let v (n : Nat) : Int := if t.isSigned then sextN t.width n else n
    (fi (v a) (v b), fNone)

/-- A compare: the bits of active lanes are 1 where the relation holds for every element of the lane; an element of 64 bits
writes both bits of its pair. -/
def vcmp (lat : Option Nat) (d : PReg) (a b : VReg) (t : VType) (p : PReg) (rel : Nat → Nat → Bool × FFlags) (w : At) (s : State) : Res :=
  let x := w.cx.vreg a
  let y := w.cx.vreg b
  let pr := w.cx.preg p
  let wd := t.width
  let es := (vactives pr wd).map fun j => (j, rel (velem x wd j) (velem y wd j))
  let bit (l : Nat) : Bool :=
    let mine := es.filter fun e => if wd = 64 then e.1 == l / 2 else e.1 * wd / 32 == l
    if mine.isEmpty then (w.cx.preg d).getLsbD l else mine.all fun e => e.2.1
  let r := (List.range 64).foldl (fun n l => n + if bit l then 2 ^ l else 0) 0
  w.pdone s lat d (BitVec.ofNat 64 r, es.foldl (fun f e => f ||| e.2.2) fNone)

/-- `VCMPEQ` (R114). -/
def execVcmpeq (d : PReg) (a b : VReg) (t : VType) (p : PReg) (s : State) : Host.Outcome State Fault Refusal :=
  issue s (.vcmpeq d a b t p) (vcmp (some 2) d a b t p (vrel t true Num.eq fun x y => decide (x = y)))

/-- `VCMPLT` (R114). -/
def execVcmplt (d : PReg) (a b : VReg) (t : VType) (p : PReg) (s : State) : Host.Outcome State Fault Refusal :=
  issue s (.vcmplt d a b t p) (vcmp (some 2) d a b t p (vrel t false Num.lt fun x y => decide (x < y)))

/-- `VCMPLE` (R114). -/
def execVcmple (d : PReg) (a b : VReg) (t : VType) (p : PReg) (s : State) : Host.Outcome State Fault Refusal :=
  issue s (.vcmple d a b t p)
    (vcmp (some 2) d a b t p (vrel t false (fun x y => x.lt y || x.eq y) fun x y => decide (x ≤ y)))

/-- `VCMPUN` (R114). -/
def execVcmpun (d : PReg) (a b : VReg) (t : VType) (p : PReg) (s : State) : Host.Outcome State Fault Refusal :=
  issue s (.vcmpun d a b t p) (vcmp (some 2) d a b t p (vrel t true (fun x y => x.isNan || y.isNan) fun _ _ => false))

/-- Lane width of a type (R115, R118): 32 or 64 bits. -/
def laneWidth (t : VType) : Nat := if t.width = 64 then 64 else 32

/-- `VSEL` (R115). -/
def execVsel (d a b : VReg) (t : VType) (p : PReg) (s : State) : Host.Outcome State Fault Refusal :=
  issue s (.vsel d a b t p) fun w u =>
    let x := w.cx.vreg a
    let y := w.cx.vreg b
    let k := laneWidth t
    let pr := w.cx.preg p
    w.vdone u (some 2) d (vmap k (fun j => if vactive pr k j then velem x k j else velem y k j), fNone)

/-- `VPAND` (R116). -/
def execVpand (d a b : PReg) (s : State) : Host.Outcome State Fault Refusal :=
  issue s (.vpand d a b) fun w u => w.pdone u (some 2) d (w.cx.preg a &&& w.cx.preg b, fNone)

/-- `VPOR` (R116). -/
def execVpor (d a b : PReg) (s : State) : Host.Outcome State Fault Refusal :=
  issue s (.vpor d a b) fun w u => w.pdone u (some 2) d (w.cx.preg a ||| w.cx.preg b, fNone)

/-- `VPXOR` (R116). -/
def execVpxor (d a b : PReg) (s : State) : Host.Outcome State Fault Refusal :=
  issue s (.vpxor d a b) fun w u => w.pdone u (some 2) d (w.cx.preg a ^^^ w.cx.preg b, fNone)

/-- `VPNOT` (R116). -/
def execVpnot (d a : PReg) (s : State) : Host.Outcome State Fault Refusal :=
  issue s (.vpnot d a) fun w u => w.pdone u (some 2) d (~~~ w.cx.preg a, fNone)

/-! ## Across lanes (R117-R120) -/

/-- The nearest active element at or below `k` (R117). -/
def nearest (p : BitVec 64) (w : Nat) : Nat → Option Nat
  | 0 => if vactive p w 0 then some 0 else none
  | k + 1 => if vactive p w (k + 1) then some (k + 1) else nearest p w k

/-- `VPERM` (R118). -/
def execVperm (d a b : VReg) (t : VType) (p : PReg) (z : Bool) (s : State) : Host.Outcome State Fault Refusal :=
  issue s (.vperm d a b t p z) fun w u =>
    let x := w.cx.vreg a
    let y := w.cx.vreg b
    let k := laneWidth t
    let pr := w.cx.preg p
    w.vdone u (some 6) d (vwrite k pr z (w.cx.vreg d) fun j =>
      match nearest pr k (velem y 32 (j * k / 32) % (2048 / k)) with
      | some i => (velem x k i, fNone)
      | none => (0, fNone))

/-- The three folds (R119). -/
inductive Fold where
  | add | max | min

/-- Identity of a fold in a view. -/
def Fold.identity (g : Fold) (t : VType) : Nat :=
  match g, viewFmt t with
  | .add, some f => f.signBit true
  | .max, some f => f.signBit true + (2 ^ f.eb - 1) * 2 ^ f.mb
  | .min, some f => (2 ^ f.eb - 1) * 2 ^ f.mb
  | .add, none => 0
  | .max, none => if t.isSigned then 2 ^ (t.width - 1) else 0
  | .min, none => if t.isSigned then 2 ^ (t.width - 1) - 1 else 2 ^ t.width - 1

/-- One step of a fold. -/
def Fold.step (g : Fold) (t : VType) (st : Stream) (a b : Nat) : Nat × FFlags :=
  match g with
  | .add => elem2 t st (Num.add (rmOf st.round)) (wrapOp t.width (· + ·)) a b
  | .max => elemMin false t a b
  | .min => elemMin true t a b

/-- A fold over the active elements, ascending. -/
def vred (lat : Option Nat) (d a : VReg) (t : VType) (p : PReg) (z : Bool) (g : Fold) (w : At) (s : State) : Res :=
  let x := w.cx.vreg a
  let o := w.cx.vreg d
  let r := (vactives (w.cx.preg p) t.width).foldl (fun (acc : Nat × FFlags) j =>
    let q := g.step t w.st acc.1 (velem x t.width j)
    (q.1, acc.2 ||| q.2)) (g.identity t, fNone)
  w.vdone s lat d (vmap t.width (fun j => if j = 0 then r.1 else if z then 0 else velem o t.width j), r.2)

/-- `VREDADD` (R119). -/
def execVredadd (d a : VReg) (t : VType) (p : PReg) (z : Bool) (s : State) : Host.Outcome State Fault Refusal :=
  issue s (.vredadd d a t p z) (vred (some 16) d a t p z .add)

/-- `VREDMAX` (R119). -/
def execVredmax (d a : VReg) (t : VType) (p : PReg) (z : Bool) (s : State) : Host.Outcome State Fault Refusal :=
  issue s (.vredmax d a t p z) (vred (some 16) d a t p z .max)

/-- `VREDMIN` (R119). -/
def execVredmin (d a : VReg) (t : VType) (p : PReg) (z : Bool) (s : State) : Host.Outcome State Fault Refusal :=
  issue s (.vredmin d a t p z) (vred (some 16) d a t p z .min)

/-- The elements of a scan from element `j` on. -/
def scanGo (t : VType) (st : Stream) (p : BitVec 64) (z : Bool) (x o : BitVec 2048) (acc : Nat) (fl : FFlags) (j : Nat) :
    Nat → List Nat × FFlags
  | 0 => ([], fl)
  | n + 1 =>
    if vactive p t.width j then
      let q := Fold.add.step t st acc (velem x t.width j)
      let r := scanGo t st p z x o q.1 (fl ||| q.2) (j + 1) n
      (q.1 :: r.1, r.2)
    else
      let r := scanGo t st p z x o acc fl (j + 1) n
      ((if z then 0 else velem o t.width j) :: r.1, r.2)

/-- `VSCAN` (R120). -/
def execVscan (d a : VReg) (t : VType) (p : PReg) (z : Bool) (s : State) : Host.Outcome State Fault Refusal :=
  issue s (.vscan d a t p z) fun w u =>
    let r := scanGo t w.st (w.cx.preg p) z (w.cx.vreg a) (w.cx.vreg d) (Fold.add.identity t) fNone 0 (2048 / t.width)
    w.vdone u (some 16) d (vreg t.width r.1, r.2)

/-! ## Lane moves (R121) -/

/-- `VSPLAT`. -/
def execVsplat (v : VReg) (x : SReg) (wide : Bool) (s : State) : Host.Outcome State Fault Refusal :=
  issue s (.vsplat v x wide) fun w u =>
    let k := if wide then 64 else 32
    w.vdone u (some 2) v (vmap k (fun _ => (w.st.sreg x).toNat % 2 ^ k), fNone)

/-- `VINS`. -/
def execVins (v : VReg) (x : SReg) (l : Fin 64) (wide : Bool) (s : State) : Host.Outcome State Fault Refusal :=
  issue s (.vins v x l wide) fun w u =>
    let o := w.cx.vreg v
    let y := (w.st.sreg x).toNat
    w.vdone u (some 2) v (vmap 32 (fun j =>
      if j = l.val then y % 2 ^ 32 else if wide && j == l.val + 1 then y / 2 ^ 32 else velem o 32 j), fNone)

/-- `VEXT`: interlocked, with a latency of 6. One to s0 writes no register, and completes like the others (R85, R106). -/
def execVext (v : VReg) (x : SReg) (l : Fin 64) (wide : Bool) (s : State) : Host.Outcome State Fault Refusal :=
  issue s (.vext v x l wide) fun w u =>
    let o := w.cx.vreg v
    .done (w.put u (w.st.fly w.seq (if x = 0 then .unit else .s x)
      (if wide then BitVec.ofNat 64 (velem o 64 (l.val / 2)) else BitVec.ofInt 64 (sextN 32 (velem o 32 l.val))) (.unit (u.now + 6))))

end Sys2Proof.Machine
end

