-- ==== Sys2Proof/Machine/VectorMem.lean ====
section
/-! DEFINITION. Vector loads and stores, `VXC` and `VFENCE` (spec/06_vector_unit.md, R122-R130), with their meaning in D-regions
(R199, R270, R271, R275). -/

namespace Sys2Proof.Machine

/-- A trap of a vector word. -/
def vtrap (t : State) (code detail eaddr : Nat) : Res := .trap t ⟨code, detail, 1, eaddr⟩

/-! ## Handle rows (R124, R125) -/

/-- Bytes of a row from `c` on, at most `n`; none past the row's end. -/
def rowTail (x : Handle) (rb row c n : Nat) : List Byte := x.bytes row c (min n (rb - c))

/-- Lane `j` of a load as stored: bytes past the row's end are 0. -/
def rawLane (x : Handle) (rb row c j : Nat) : Nat := leValue (rowTail x rb row (c + 4 * j) 4)

/-- Lane `j` of a converting load. The conversion runs for an `f32` bank as well, where R40 names no case of equal formats: a NaN becomes
canonical, and a signalling one sets NV (DESIGN CHOICE, log 93). -/
def cvtLane (x : Handle) (f : Fin 16) (row e : Nat) : Nat × FFlags :=
  if e < x.cols then f32.convert .rne false (x.num f row e) else (0, fNone)

/-- The operand checks of `VLDH` and `VSTH`: the handle, its row, the start. -/
def vrow (w : At) (t : State) (i : Instr) (h : HId) (x : SReg) (cv : Bool) (f : Handle → Nat → Nat → Res) : Res :=
  let v := (w.arg x).toNat
  match check10 w.cx h .tile (v % 2 ^ 16) with
  | none => .trap t (badHandle i h)
  | some y =>
    let c := bitsN v 47 32
    if (if cv then isBx (handleFmt t w.cx y) && c % 32 != 0 else c % 4 != 0) then vtrap t 3 0 0
    else f y (v % 2 ^ 16) c

/-- The bytes of a row that a load or store with a start reads or meets: the blocks, elements or bytes of its 64 lanes. -/
def rowSpan (f : Fin 16) (rb c : Nat) (cv : Bool) : Nat × Nat :=
  let q := if !cv then (c, 256) else if isBx f then (c / 32 * bxBytes f, 2 * bxBytes f) else (c * ewidth f, 64 * ewidth f)
  (q.1, min q.2 (rb - q.1))

/-- Body of `VLDH`. -/
def vldhBody (v : VReg) (x : SReg) (h : HId) (p : Fin 8) (cv : Bool) (w : At) (t : State) : Res :=
  vrow w t (.vldh v x h p cv) h x cv fun y row c =>
    if rowBusy w.cx w.seq h row false then .hold t
    else
      let f := handleFmt t w.cx y
      let rb := rowBytes f y.cols
      if y.meets row (rowSpan f rb c cv).1 (rowSpan f rb c cv).2 then vtrap t 14 0 0
      else w.vdone t (some 8) v (vwrite 32 (w.cx.preg (p.castLE (by decide))) false (w.cx.vreg v) fun j =>
        if cv then cvtLane y f row (c + j) else (rawLane y rb row c j, fNone))

/-- `VLDH` (R124). -/
def execVldh (v : VReg) (x : SReg) (h : HId) (p : Fin 8) (cv : Bool) (s : State) : Host.Outcome State Fault Refusal :=
  issue s (.vldh v x h p cv) (vldhBody v x h p cv)

/-- Store lanes as they are. -/
def putLanes (rb row c : Nat) (d : BitVec 2048) (x : Handle) : List Nat → Handle
  | [] => x
  | j :: l => putLanes rb row c d (x.store row (c + 4 * j) ((leBytes 4 (velem d 32 j)).take (rb - (c + 4 * j)))) l

/-- Store lanes into elements of a format that is no BX one. -/
def putElems (f : Fin 16) (satfp : Bool) (row c : Nat) (d : BitVec 2048) (x : Handle) (fl : FFlags) :
    List Nat → Handle × FFlags
  | [] => (x, fl)
  | j :: l =>
    if c + j < x.cols then
      let r := numElem f satfp false (f32.decode (velem d 32 j))
      putElems f satfp row c d (x.putRaw f row (c + j) r.1) (fl ||| r.2) l
    else putElems f satfp row c d x fl l

/-- Re-encode the two blocks that a store meets, each that has an active lane in the row (R124). -/
def putBlocks (f : Fin 16) (split row c : Nat) (d : BitVec 2048) (p : BitVec 64) (x : Handle) (fl : FFlags) :
    List Nat → Handle × FFlags
  | [] => (x, fl)
  | b :: l =>
    if (List.range 32).any fun j => p.getLsbD (32 * b + j) && decide (c + 32 * b + j < x.cols) then
      let old := x.blockNums f row (c / 32 + b)
      let new := (List.range 32).map fun j =>
        if p.getLsbD (32 * b + j) && decide (c + 32 * b + j < x.cols) then f32.decode (velem d 32 (32 * b + j))
        else old.getD j .zero
      let r := bxEncode f split new
      putBlocks f split row c d p (x.store row ((c / 32 + b) * bxBytes f) r.1) (fl ||| r.2) l
    else putBlocks f split row c d p x fl l

/-- Does a store re-encode blocks, of which it keeps elements, that an uncorrectable error has struck? -/
def blocksStruck (f : Fin 16) (p : BitVec 64) (x : Handle) (row c : Nat) : Bool :=
  isBx f && [0, 1].any fun b =>
    let l := (List.range 32).filter fun j => decide (c + 32 * b + j < x.cols)
    l.any (fun j => p.getLsbD (32 * b + j)) && l.any (fun j => !p.getLsbD (32 * b + j)) &&
      x.meets row ((c / 32 + b) * bxBytes f) (bxBytes f)

/-- Body of `VSTH`. -/
def vsthBody (v : VReg) (x : SReg) (h : HId) (p : Fin 8) (cv : Bool) (w : At) (t : State) : Res :=
  vrow w t (.vsth v x h p cv) h x cv fun y row c =>
    if rowBusy w.cx w.seq h row true then .hold t
    else
      let f := handleFmt t w.cx y
      let pr := w.cx.preg (p.castLE (by decide))
      let act := vactives pr 32
      let d := w.cx.vreg v
      if cv && blocksStruck f pr y row c then vtrap t 14 0 0
      else
      let r :=
        if !cv then (putLanes (rowBytes f y.cols) row c d y act, fNone)
        else if isBx f then putBlocks f (handleSplit t w.cx y).val row c d pr y fNone [0, 1]
        else putElems f w.st.satfp row c d y fNone act
      .done (w.landV (t.putCtx (w.cx.putHandle r.1)) .unit r.2 (.unit (t.now + 8)))

/-- `VSTH` (R124). -/
def execVsth (v : VReg) (x : SReg) (h : HId) (p : Fin 8) (cv : Bool) (s : State) : Host.Outcome State Fault Refusal :=
  issue s (.vsth v x h p cv) (vsthBody v x h p cv)

/-! ## Memory (R122, R123) -/

/-- The runs of active lanes: first lane and count, ascending; `n` lanes from `j` on, a run from `start` being open. -/
def runsGo (p : BitVec 64) (start : Option Nat) (j : Nat) : Nat → List (Nat × Nat)
  | 0 => match start with
    | some a => [(a, j - a)]
    | none => []
  | n + 1 =>
    match start, p.getLsbD j with
    | none, false => runsGo p none (j + 1) n
    | none, true => runsGo p (some j) (j + 1) n
    | some a, true => runsGo p (some a) (j + 1) n
    | some a, false => (a, j - a) :: runsGo p none (j + 1) n

/-- The byte ranges of the active lanes of an access at an address. -/
def vruns (p : BitVec 64) (va : Nat) : List (Nat × Nat) :=
  (runsGo p none 0 64).map fun r => ((va + 4 * r.1) % 2 ^ 64, 4 * r.2)

/-- What a vector access is to the D-regions (R199): plain, wholly in one, or across an edge. -/
def vRegion (c : Ctx) : List (Nat × Nat) → DAccess → DAccess
  | [], acc => acc
  | r :: l, acc =>
    match dAccess c r.1 r.2, acc with
    | .straddles i, _ => .straddles i
    | _, .straddles i => .straddles i
    | .inside x, .inside y => if x.idx = y.idx then vRegion c l acc else .straddles y.idx.val
    | .inside x, .plain => .straddles x.idx.val
    | .plain, .inside y => .straddles y.idx.val
    | .plain, .plain => vRegion c l acc

/-- The same, from its first range. -/
def vAccess (c : Ctx) (runs : List (Nat × Nat)) : DAccess :=
  match runs with
  | [] => .plain
  | r :: _ => vRegion c runs (dAccess c r.1 r.2)

/-- The pages of the ranges of an access, ascending (R93). -/
def checkRunPages (m : MemSt) (h : HubSt) (free : Nat) (w : Who) (k : Kind) : List (Nat × Nat) → Got (MemSt × List Piece)
  | [] => .ok (m, [])
  | r :: l =>
    (checkPieces m h free w k false r.1 r.2 2).bind fun q =>
      (checkRunPages q.1 h free w k l).bind fun z => .ok (z.1, q.2 ++ z.2)

/-- Check the ranges of an access (R122). Its lowest address in a failing page is taken to be the lowest byte of an active lane there: the
bytes of inactive lanes are no part of the access (DESIGN CHOICE, log 93). -/
def checkRuns (m : MemSt) (h : HubSt) (free : Nat) (w : Who) (k : Kind) (l : List (Nat × Nat)) : Got (MemSt × List Piece) :=
  (checkRunPages m h free w k l).bind fun r => (piecesReady r.1 h w k r.2).bind fun _ => .ok r

/-- Lanes of bytes, four each. -/
def laneList : List Byte → List Nat
  | a :: b :: c :: d :: l => leValue [a, b, c, d] :: laneList l
  | _ => []

/-- Put the words of the active lanes, ascending, into a register. -/
def spread (old : BitVec 2048) (act : List Nat) (xs : List Nat) : BitVec 2048 :=
  vmap 32 fun j => match assocFind (act.zip xs) j with
    | some x => x
    | none => velem old 32 j

/-- The elements of an inverted access: bytes of an element apart, in the lanes whose bit is 1 (R271). -/
def vElems (r : DRegion) (p : BitVec 64) (va : Nat) : List (Nat × Nat) :=
  let e := dtSize r.type
  ((List.range (256 / e)).filter fun i => p.getLsbD (i * e / 4)).map fun i => (i, (va + i * e) % 2 ^ 64)

/-- The adjoint in `bits` of a vector element, in the view of the data (R271): a `bf16` one widens exactly. -/
def vAdjoint (r : DRegion) (bits : Nat) : Num :=
  if r.type = 1 then bf16.decode bits else (cellFmt r.type).decode bits

/-- What a popped adjoint leaves in a vector element: rounded to `bf16` for `bf16` data (R271). -/
def vPopped (r : DRegion) (cell : Nat) : Nat × FFlags :=
  if r.type = 1 then bf16.convert .rne false (f32.decode cell) else (cell, fNone)

/-- Body of `VLDM`. -/
def vldmBody (v : VReg) (x : SReg) (i : BitVec 8) (p : Fin 8) (w : At) (t : State) : Res :=
  let va := (w.st.sreg x + (i.signExtend 64 <<< 8)).toNat
  let pr := w.cx.preg (p.castLE (by decide))
  let runs := vruns pr va
  let who := whoStream t w.cx w.ref.st
  let plain : Res :=
    (checkRuns t.mem t.hub t.free who .load runs).res t 1 fun q =>
      let r := readPieces q.1 who .load q.2
      .done ((t.setMem r.2).putCtx ((w.cx.setV v (spread (w.cx.vreg v) (vactives pr 32) (laneList r.1))).putStream w.ref.st
        (w.st.flyFlags w.seq (.v v) 0 fNone .interlocked)))
  if va % 4 ≠ 0 then vtrap t 3 0 va
  else
    match vAccess w.cx runs with
    | .straddles k => adjTrap t 1 k
    | .plain => plain
    | .inside r =>
      if w.cx.dmode = 1 then plain
      else
        let es := vElems r pr va
        (checkCells t who (es.map fun e => (r, e.2))).res t 1 fun u =>
          (accumCells u who fNone (es.map fun e =>
            ((r, e.2), vAdjoint r (velem (w.cx.vreg v) (8 * dtSize r.type) e.1)))).res t 1 fun q =>
            .done (w.landV q.1 (.v v) q.2 .interlocked)

/-- `VLDM` (R122). -/
def execVldm (v : VReg) (x : SReg) (i : BitVec 8) (p : Fin 8) (s : State) : Host.Outcome State Fault Refusal :=
  issue s (.vldm v x i p) (vldmBody v x i p)

/-- Elements already written by an earlier issue of this word, whose push met the end of the tape (R275). -/
def At.tapedAt (w : At) : Nat :=
  match w.st.taped with
  | some r => if r.1 = w.st.pc then r.2.1 else 0
  | none => 0

/-- The place of the word in the issue order; one that goes on after a tape overflow keeps its place (R269, R275). -/
def At.place (w : At) : Nat :=
  match w.st.taped with
  | some r => if r.1 = w.st.pc then r.2.2 else w.seq
  | none => w.seq

/-- Record elements from where the word stands, and go on with `f`; a failing push leaves the elements before it (R275). -/
def recordFrom (w : At) (t : State) (who : Who) (es : List (Fin 4 × Nat × List Byte)) (f : State → Res) : Res :=
  let k := w.tapedAt
  match recordElems t w.ref.ctx who k (es.drop k) with
  | (u, _, .ok ()) => f (u.mapStream w.ref fun st => { st with taped := none })
  | (u, n, .fail c d a) => .trap (u.mapStream w.ref fun st => { st with taped := some (w.st.pc, n, w.place) }) ⟨c, d, 1, a⟩
  | (_, _, .stall) => .stall

/-- The bits of popped adjoints, element by element, with their flags. -/
def popBits (l : List (DElem × Nat)) : List Nat × FFlags :=
  (l.map fun e => (vPopped e.1.1 e.2).1, l.foldl (fun f e => f ||| (vPopped e.1.1 e.2).2) fNone)

/-- Body of `VSTM`. -/
def vstmBody (v : VReg) (x : SReg) (i : BitVec 8) (p : Fin 8) (w : At) (t : State) : Res :=
  let va := (w.st.sreg x + (i.signExtend 64 <<< 8)).toNat
  let pr := w.cx.preg (p.castLE (by decide))
  let runs := vruns pr va
  let who := whoStream t w.cx w.ref.st
  let d := w.cx.vreg v
  if va % 4 ≠ 0 then vtrap t 3 0 va
  else
    match vAccess w.cx runs with
    | .straddles k => adjTrap t 1 k
    | .plain =>
      (checkRuns t.mem t.hub t.free who .store runs).res t 1 fun q =>
        .done (t.setMem (writePieces q.1 who .store q.2 ((vactives pr 32).flatMap fun j => leBytes 4 (velem d 32 j))))
    | .inside r =>
      let n := dtSize r.type
      let es := vElems r pr va
      if w.cx.dmode = 1 then
        (checkRuns t.mem t.hub t.free who .store runs).res t 1 fun q =>
          recordFrom w (t.setMem q.1) who (es.map fun e => (r.type, e.2, leBytes n (velem d (8 * n) e.1))) .done
      else
        (popBlock t w.ref.ctx who (es.map fun e => (r, e.2))).res t 1 fun q =>
          let g := popBits ((es.map fun e => (r, e.2)).zip q.1)
          let new := vmap (8 * n) fun j =>
            match assocFind ((es.map fun e => e.1).zip g.1) j with
            | some b => b
            | none => velem d (8 * n) j
          .done (w.landV (q.2.mapCtx w.ref.ctx fun c => c.setV v new) (.v v) g.2 .interlocked)

/-- `VSTM` (R122). -/
def execVstm (v : VReg) (x : SReg) (i : BitVec 8) (p : Fin 8) (s : State) : Host.Outcome State Fault Refusal :=
  issue s (.vstm v x i p) (vstmBody v x i p)

/-! ## `VXC` (R126-R129) -/

/-- A `VXC` command, decoded (Table 6.5). -/
structure VxcCmd where
  base : Nat
  row : Nat
  h : HId
  nseg : Nat
  sc : Nat
  wide : Bool
  zm : Bool
  pred : PReg
  vi : VReg
  vd : VReg

/-- Decode the two registers for a kind; none where R126 is broken. Table 6.5 names no kinds for `zm`, so that of a handle scatter may be
set (log 102). -/
def vxcCmd (kind : Nat) (lo hi : Nat) : Option VxcCmd :=
  let mem := decide (kind < 2)
  if bitsN lo 2 0 ≠ kind ∨ bitsN lo 63 47 ≠ 0 ∨ bitsN lo 4 3 ≠ 0 ∨ 2 ≤ bitsN lo 21 20 then none
  else if mem && (bitsN lo 46 38 != 0 || bitsN lo 37 30 != 0) then none
  else if !mem && hi != 0 then none
  else if decide (kind < 4) && bitsN lo 29 24 != 0 then none
  else if kind == 4 && bitsN lo 23 20 != 0 then none
  else some {
    base := hi, row := bitsN lo 46 38, h := ⟨bitsN lo 37 30, Nat.mod_lt _ (by decide)⟩, nseg := bitsN lo 29 24 + 1
    sc := bitsN lo 23 22, wide := bitN lo 20, zm := bitN lo 19, pred := ⟨bitsN lo 18 15, Nat.mod_lt _ (by decide)⟩
    vi := ⟨bitsN lo 14 10, Nat.mod_lt _ (by decide)⟩, vd := ⟨bitsN lo 9 5, Nat.mod_lt _ (by decide)⟩ }

/-- Bits of an element of a command. -/
def VxcCmd.width (c : VxcCmd) : Nat := if c.wide then 64 else 32

/-- The place of element `j` (R127): an address, or a byte offset from the row. -/
def VxcCmd.place (c : VxcCmd) (mem : Bool) (vi : BitVec 2048) (j : Nat) : Nat :=
  let x := velem vi c.width j % 2 ^ 32
  if mem then wrapN 64 ((c.base : Int) + sextN 32 x * 2 ^ c.sc) else x * 2 ^ c.sc

/-- An element of a memory command, checked: plain, or inverted with its region. -/
inductive VElem where
  | plain (p : VPlace)
  | inv (el va : Nat) (r : DRegion)

/-- Check a plain element (R93). An uncorrectable error is met in the data phase (R129). -/
def checkPlain (t : State) (who : Who) (store : Bool) (m : MemSt) (j a n : Nat) : Got (MemSt × VElem) :=
  (checkPieces m t.hub t.free who (if store then .store else .load) false a n 2).bind fun q =>
    (piecesReady q.1 t.hub who .store q.2).bind fun _ => .ok (q.1, .plain ⟨j, a, q.2.head?⟩)

/-- Check one element: its alignment, then R93, or in a D-region R199. -/
def checkElem (t : State) (w : At) (who : Who) (store : Bool) (m : MemSt) (j a n : Nat) : Got (MemSt × VElem) :=
  if a % n ≠ 0 then .fail 3 0 a
  else
    match dAccess w.cx a n with
    | .straddles i => .fail 7 i 0
    | .plain => checkPlain t who store m j a n
    | .inside r =>
      if r.type ≠ 1 ∧ dtSize r.type ≠ n then .fail 7 r.idx.val 0
      else if w.cx.dmode = 1 then
        (checkPlain t who store m j a n).bind fun q => .ok (q.1, if store then .inv j a r else q.2)
      else .ok (m, .inv j a r)

/-- Check the elements of a memory command in ascending order (R129). -/
def checkElems (t : State) (w : At) (who : Who) (c : VxcCmd) (store : Bool) (m : MemSt) : List Nat → Got (MemSt × List VElem)
  | [] => .ok (m, [])
  | j :: l =>
    (checkElem t w who store m j (c.place true (w.cx.vreg c.vi) j) (c.width / 8)).bind fun q =>
      (checkElems t w who c store q.1 l).bind fun z => .ok (z.1, q.2 :: z.2)

/-- The plain places of checked elements. -/
def plainPlaces (l : List VElem) : List VPlace :=
  l.filterMap fun e => match e with
    | .plain p => some p
    | .inv _ _ _ => none

/-- The inverted sub-elements (R271): the element of the register in the view of the data, its region and address. -/
def invElems (n : Nat) (l : List VElem) : List (Nat × DElem) :=
  l.flatMap fun e => match e with
    | .plain _ => []
    | .inv j a r =>
      let k := dtSize r.type
      (List.range (n / k)).map fun o => (j * (n / k) + o, r, a + o * k)

/-- The accesses of a `VXC` as an agent: those of the C stream, not yet in its order (R130, R228). -/
def whoVxc (s : State) (c : Ctx) : Who := { whoStream s c .C with agent := vxcAgent c.job, clk := c.vxcClock }

/-- The places of a command that has passed its checks: their events are on record, so the data phase makes none. -/
def notePlaces (m : MemSt) (w : Who) (k : Kind) (l : List VPlace) : MemSt × List VPlace :=
  (l.foldl (fun m p => match p.piece with
    | some q => if q.leaf.chk then raceNote m w k (q.pa / 4) (granules q.pa q.len) else m
    | none => m) m,
   l.map fun p => { p with piece := p.piece.map fun q => { q with leaf := { q.leaf with chk := false } } })

/-- Start a data phase: `vbusy` becomes 1. -/
def startVxc (w : At) (t : State) (kind : Fin 5) (c : VxcCmd) (places : List VPlace) (result : Option (BitVec 2048)) (fl : FFlags) :
    State :=
  t.mapCtx w.ref.ctx fun x => { x with vxc := some {
    kind := kind, vd := c.vd, wide := c.wide, zm := c.zm, pred := w.cx.preg c.pred, row := c.row, handle := c.h
    nseg := c.nseg, vi := w.cx.vreg c.vi, data := w.cx.vreg c.vd, places := places, result := result, flags := fl
    round := w.st.round, seq := w.seq, pc := w.st.pc } }

/-- An illegal `VXC` command: reason 7. -/
def badVxc (t : State) (a b : SReg) : Res := .trap t (illegal (.vxcGather a b) 7)

/-- Body of a memory command (kinds 0 and 1): the checks, then the inverted accesses, which can trap, and the data phase.
A reverse-mode gather leaves its inactive elements as they are, whatever zm says (R271). Its accesses are all those of the `VXC` as an
agent, the inverted ones too: they stand in no order with the stream's until a `VFENCE` (R130, R228). -/
def vxcMem (kind : Fin 5) (a b : SReg) (w : At) (t : State) : Res :=
  if w.cx.vxc.isSome then .wait
  else
    match vxcCmd kind.val (w.arg a).toNat (w.arg b).toNat with
    | none => badVxc t a b
    | some c =>
      let who := whoVxc t w.cx
      let pr := w.cx.preg c.pred
      let store := kind == 1
      let n := c.width / 8
      let d := w.cx.vreg c.vd
      (checkElems t w who c store t.mem (vactives pr c.width)).res t 1 fun q =>
        let z := notePlaces q.1 who (if store then .store else .load) (plainPlaces q.2)
        let u := t.setMem z.1
        let ps := z.2
        match invElems n q.2 with
        | [] => .done (startVxc w u kind c ps none 0)
        | iv =>
          if w.cx.dmode = 1 then
            recordFrom w u who (iv.map fun e =>
              (e.2.1.type, e.2.2, leBytes (dtSize e.2.1.type) (velem d (8 * dtSize e.2.1.type) e.1)))
              fun x => .done (startVxc w x kind c ps none 0)
          else if store then
            (popBlock u w.ref.ctx who (iv.map fun e => e.2)).res t 1 fun z =>
              let g := popBits ((iv.map fun e => e.2).zip z.1)
              let byte (j : Nat) : Nat :=
                match (iv.zip g.1).find? fun e => j / dtSize e.1.2.1.type == e.1.1 with
                | some e => e.2 / 2 ^ (8 * (j % dtSize e.1.2.1.type)) % 256
                | none => if c.zm && !vactive pr c.width (j * 8 / c.width) then 0 else velem d 8 j
              .done (startVxc w z.2 kind c ps (some (vmap 8 byte)) g.2)
          else
            (checkCells u who (iv.map fun e => e.2)).res t 1 fun x =>
              (accumCells x who fNone (iv.map fun e =>
                (e.2, vAdjoint e.2.1 (velem d (8 * dtSize e.2.1.type) e.1)))).res t 1 fun z =>
                .done (startVxc w z.1 kind { c with zm := false } ps none z.2)

/-- Places in a handle, checked in ascending order (R129). -/
def handlePlaces (c : VxcCmd) (y : Handle) (vi : BitVec 2048) : List Nat → Got (List VPlace)
  | [] => .ok []
  | j :: l =>
    let o := c.place false vi j
    let n := c.width / 8
    if o % n ≠ 0 then .fail 3 0 0
    else if (y.rows - c.row) * y.pitch < o + n then .fail 5 c.h.val 0
    else (handlePlaces c y vi l).bind fun z => .ok (⟨j, c.row * y.pitch + o, none⟩ :: z)

/-- Body of a handle command (kinds 2 and 3). -/
def vxcHandle (kind : Fin 5) (a b : SReg) (w : At) (t : State) : Res :=
  if w.cx.vxc.isSome then .wait
  else
    match vxcCmd kind.val (w.arg a).toNat (w.arg b).toNat with
    | none => badVxc t a b
    | some c =>
      match check10 w.cx c.h .tile c.row with
      | none => vtrap t 5 c.h.val 0
      | some y =>
        (handlePlaces c y (w.cx.vreg c.vi) (vactives (w.cx.preg c.pred) c.width)).res t 1 fun ps =>
          if handleBusy w.cx w.seq c.h (kind == 3) then .hold t else .done (startVxc w t kind c ps none 0)

/-- Body of a table lookup (kind 4, R128). -/
def vxcTable (a b : SReg) (w : At) (t : State) : Res :=
  if w.cx.vxc.isSome then .wait
  else
    match vxcCmd 4 (w.arg a).toNat (w.arg b).toNat with
    | none => badVxc t a b
    | some c =>
      match check10 w.cx c.h .tile c.row with
      | none => vtrap t 5 c.h.val 0
      | some y =>
        if handleFmt t w.cx y ≠ 10 ∨ y.cols < 3 * c.nseg then vtrap t 5 c.h.val 0
        else .done (startVxc w t 4 c [] none 0)

/-- `VXC` kind 0: gather from memory. -/
def execVxcGather (a b : SReg) (s : State) : Host.Outcome State Fault Refusal :=
  issue s (.vxcGather a b) (vxcMem 0 a b)

/-- `VXC` kind 1: scatter to memory. -/
def execVxcScatter (a b : SReg) (s : State) : Host.Outcome State Fault Refusal :=
  issue s (.vxcScatter a b) (vxcMem 1 a b)

/-- `VXC` kind 2: gather from a handle. -/
def execVxcHandleGather (a b : SReg) (s : State) : Host.Outcome State Fault Refusal :=
  issue s (.vxcHandleGather a b) (vxcHandle 2 a b)

/-- `VXC` kind 3: scatter to a handle. -/
def execVxcHandleScatter (a b : SReg) (s : State) : Host.Outcome State Fault Refusal :=
  issue s (.vxcHandleScatter a b) (vxcHandle 3 a b)

/-- `VXC` kind 4: table lookup. -/
def execVxcTableLookup (a b : SReg) (s : State) : Host.Outcome State Fault Refusal :=
  issue s (.vxcTableLookup a b) (vxcTable a b)

/-! ## The data phase -/

/-- A register with the elements of places replaced, inactive elements as zm says. -/
def gatherReg (v : VxcSt) (vals : List (Nat × Nat)) : BitVec 2048 :=
  let k := if v.wide then 64 else 32
  vmap k fun j =>
    if vactive v.pred k j then (match assocFind vals j with
      | some x => x
      | none => velem v.data k j)
    else if v.zm then 0 else velem v.data k j

/-- Read the places of a gather from memory, in order. -/
def gatherMem (m : MemSt) (w : Who) : List VPlace → List (Nat × Nat) × MemSt
  | [] => ([], m)
  | p :: l =>
    match p.piece with
    | some q =>
      let r := gatherMem (noteRead m w .load q) w l
      ((p.el, leValue (readPiece m w q)) :: r.1, r.2)
    | none => gatherMem m w l

/-- Write the places of a scatter to memory, in order. -/
def scatterMem (m : MemSt) (w : Who) (n : Nat) (d : BitVec 2048) : List VPlace → MemSt
  | [] => m
  | p :: l => scatterMem (match p.piece with
    | some q => writePiece m w .store q (leBytes n (velem d (8 * n) p.el))
    | none => m) w n d l

/-- The segment of a table for an input: the highest with lo ≤ x, else 0 (R128). -/
def segmentOf (seg : Nat → Num × Num × Num) (x : Num) : Nat → Nat
  | 0 => 0
  | n + 1 => if (seg n).1.lt x || (seg n).1.eq x then n else segmentOf seg x n

/-- The piecewise-linear table of `n` segments at an input, rounded into binary32. -/
def tableValue (seg : Nat → Num × Num × Num) (n : Nat) (rm : Rm) (x : Num) : Nat × FFlags :=
  if x.isNan then (f32.nan, sigFlag [x])
  else
    let g := seg (segmentOf seg x n)
    let r := Num.fma rm g.2.1 x g.2.2
    let q := f32.result rm false r.1
    (q.1, r.2 ||| q.2)

/-- What a data phase does. -/
def finishVxc (s : State) (c : Ctx) (v : VxcSt) : State :=
  let n := if v.wide then 8 else 4
  let who := whoVxc s c
  let c1 := { c.putStream .C ((c.stream .C).orFlags v.flags) with vxc := none }
  match v.kind.val with
  | 0 =>
    let r := gatherMem s.mem who v.places
    (s.setMem r.2).putCtx (c1.setV v.vd (gatherReg v r.1))
  | 1 =>
    let c2 := match v.result with
      | some x => c1.setV v.vd x
      | none => c1
    (s.setMem (scatterMem s.mem who n v.data v.places)).putCtx c2
  | 2 =>
    match c.handle v.handle with
    | some y => s.putCtx (c1.setV v.vd (gatherReg v (v.places.map fun p => (p.el, leValue (Memory.gets y.data p.va n)))))
    | none => s.putCtx c1
  | 3 =>
    match c.handle v.handle with
    | some y => s.putCtx (c1.putHandle (v.places.foldl (fun z p =>
        z.store 0 p.va (leBytes n (velem v.data (8 * n) p.el))) y))
    | none => s.putCtx c1
  | _ =>
    match c.handle v.handle with
    | some y =>
      let seg (i : Nat) : Num × Num × Num :=
        (y.num 10 v.row (3 * i), y.num 10 v.row (3 * i + 1), y.num 10 v.row (3 * i + 2))
      let r := vwrite 32 v.pred v.zm v.data fun j =>
        tableValue seg v.nseg (rmOf v.round) (f32.decode (velem v.vi 32 j))
      s.putCtx ((c1.setV v.vd r.1).putStream .C ((c1.stream .C).orFlags r.2))
    | none => s.putCtx c1

/-- Does a data phase read a byte of a handle that an uncorrectable error has struck? -/
def vxcStruck (c : Ctx) (v : VxcSt) : Bool :=
  match c.handle v.handle with
  | some y =>
    (v.kind == 2 && v.places.any fun p => y.meets 0 p.va (if v.wide then 8 else 4)) || (v.kind == 4 && y.meets v.row 0 (12 * v.nseg))
  | none => false

/-- Does an uncorrectable error meet a data phase (R129)? -/
def vxcReady (s : State) (c : Ctx) (v : VxcSt) : Got Unit :=
  if vxcStruck c v then .fail 14 0 0 else
  piecesReady s.mem s.hub (whoVxc s c) (if v.kind = 0 then .load else .store) (v.places.filterMap VPlace.piece)

/-- A data phase ends: its accesses are made and `vbusy` clears (R129). One that meets an uncorrectable error writes nothing, and the
supervisor gets the trap. -/
def execVxcDataComplete (x : CtxId) (s : State) : Host.Outcome State Fault Refusal :=
  match s.ctx x with
  | some c =>
    match c.vxc with
    | some v =>
      (match vxcReady s c v with
      | .ok _ => .next (finishVxc s c v)
      | .fail k d a => .next (takeTrap (s.putCtx { c with vxc := none }) ⟨x, .C⟩ ⟨k, d, 1, a⟩ v.pc false)
      | .stall => .refused (.notEnabled "VXC_DATA_COMPLETE"))
    | none => .refused (.notEnabled "VXC_DATA_COMPLETE")
  | none => .refused (.notEnabled "VXC_DATA_COMPLETE")

/-- Body of `VFENCE` (R130): it waits for the vector words and the `VXC` before it, and places their accesses in the stream's order. -/
def vfenceBody (w : At) (t : State) : Res :=
  if vectorPending w.cx .C then .hold t
  else .done (t.putCtx { w.cx.putStream w.ref.st { w.st with clk := Clock.tick w.cx.vxcClock (vxcAgent w.cx.job) } with vxcClk := [] })

/-- `VFENCE` (R130). -/
def execVfence (s : State) : Host.Outcome State Fault Refusal := issue s .vfence vfenceBody

end Sys2Proof.Machine
end

