-- ==== Sys2Proof/Machine/Tensor.lean ====
section
/-! DEFINITION. Tensor tables (R258, R259) and the scaling words `SREAD`, `SSTEP`, `SSKIP` (R202, R203). -/

namespace Sys2Proof.Machine

/-- Protection trap, sub-reason 17: no such table or entry, or a table on a die-private page. -/
def noTable {α : Type} (obj : Nat) : Got α := .fail 5 (17 * 256 + obj % 256) 0

/-- Address of an entry. -/
def entryVa (c : Ctx) (e : Nat) : Nat := (c.card.tt.toNat + 64 + 64 * e) % 2 ^ 64

/-- The place of an entry's fields but its target, which a program may write meanwhile (R258): from byte 4 to byte 55. -/
def entryFields (c : Ctx) (e : Nat) : Nat := (entryVa c e + 4) % 2 ^ 64

/-- Check the table of a job up to an entry (none: the header alone): it exists, the entry is in it, its pages are
module-coherent. `obj`: the object of the trap. These checks are no events: what a word reads or writes there is checked against others' on
its own granules (R236). -/
def tableCheck (s : State) (c : Ctx) (w : Who) (k : Kind) (obj : Nat) (last : Option Nat) : Got State :=
  let u := { w with races := false }
  if c.card.tt = 0 then noTable obj
  else
    (checkAccess s.mem s.hub s.free u k false c.card.tt.toNat 64).bind fun h =>
      if !(h.2.all fun p => p.leaf.coh) then noTable obj
      else
        match last with
        | none => .ok (s.setMem h.1)
        | some e =>
          let n := bitsN (leValue (readPieces h.1 u .probe h.2).1) 75 64
          if n < e then noTable obj
          else
            (checkAccess h.1 s.hub s.free u k false (entryVa c e) 64).bind fun q =>
              if q.2.all fun p => p.leaf.coh then .ok (s.setMem q.1) else noTable obj

/-- An agent with what an atomic pair at a place acquires (R98). -/
def Who.acquiring (w : Who) (s : State) (va n : Nat) : Who := { w with clk := Clock.join w.clk (atomAcquire s w va n) }

/-- Check an atomic pair at a place, by its agent with what it acquires there: the agent then goes on with it. -/
def checkPair (s : State) (w : Who) (va n : Nat) : Got (State × Who) :=
  (checkAccess s.mem s.hub s.free (w.acquiring s va n) .atomic false va n).bind fun q => .ok (s.setMem q.1, w.acquiring s va n)

/-- Check all that `SSTEP` (`tgt`: it reads the targets) or `SSKIP` does to entries `e` on, `n` of them, in ascending order, and then to the
counter at byte `o` of the header: nothing is done where one check fails. -/
def scaleChecks (s : State) (c : Ctx) (w : Who) (tgt : Bool) (o e : Nat) : Nat → Got State
  | 0 => (checkPair s w ((c.card.tt.toNat + o) % 2 ^ 64) 4).bind fun q => .ok q.1
  | n + 1 => (tableCheck s c w .atomic 0 (some e)).bind fun t =>
      (checkPair t w (entryFields c e) 52).bind fun q =>
        (if tgt then checkAccess q.1.mem q.1.hub q.1.free q.2 .load false (entryVa c e) 4 else .ok (q.1.mem, [])).bind fun r =>
          scaleChecks (q.1.setMem r.1) c q.2 tgt o (e + 1) n

/-! ## Entries (Table 13.7) -/

/-- `te.k`, as a number and as an exponent. -/
def teK (v : Nat) : Nat := bitsN v 447 440
def teCur (v : Nat) : Nat := bitsN v 427 424
def teSlot (v i : Nat) : Nat := bitsN v (32 * i + 63) (32 * i + 32)
def teValid (v i : Nat) : Bool := bitN v (428 + i)

/-- Replace bits [hi:lo]. -/
def setBits (v hi lo x : Nat) : Nat := v - bitsN v hi lo * 2 ^ lo + x % 2 ^ (hi + 1 - lo) * 2 ^ lo

/-- Set a ring slot and its valid bit. -/
def teSet (v i x : Nat) (valid : Bool) : Nat :=
  setBits (setBits v (32 * i + 63) (32 * i + 32) x) (428 + i) (428 + i) (if valid then 1 else 0)

/-- Bits of the larger of two magnitudes. -/
def maxBits (a b : Nat) : Nat := if (f32.decode a).lt (f32.decode b) then b else a

/-- The largest valid maximum, +0 if there is none. -/
def teMax (v : Nat) : Nat := (List.range 12).foldl (fun m i => if teValid v i then maxBits m (teSlot v i) else m) 0

/-- Valid slots. -/
def teFill (v : Nat) : Nat := (List.range 12).foldl (fun n i => n + if teValid v i then 1 else 0) 0

/-- A capture (R259). -/
def teCapture (amax v : Nat) : Nat := teSet v (teCur v) (maxBits (teSlot v (teCur v)) amax) true

/-- `SSKIP` on an entry. -/
def teSkip (v : Nat) : Nat := teSet v (teCur v) 0 false

/-- The largest `j` with mx × 2^j ≤ target, of positive finite values. -/
def fitExp (mx target : Num) : Int :=
  match mx, target with
  | .fin _ m e, .fin _ n f =>
    let j : Int := (f + bitLen n) - (e + bitLen m)
    if target.lt (mx.scale j) then j - 1 else j
  | _, _ => 0

/-- The new scale exponent of a step. -/
def newExp (v : Nat) : Int :=
  let mx := f32.decode (teMax v)
  let t := f32.decode (v % 2 ^ 32)
  if mx.isZero || t.isNan || t.isInf || t.isZero || t.sign then 0
  else if mx.isInf then -126
  else max (-126) (min 127 (fitExp mx t))

/-- `SSTEP` on an entry. -/
def teStep (v : Nat) : Nat :=
  let c := (teCur v + 1) % 12
  teSet (setBits (setBits v 447 440 (wrapN 8 (newExp v))) 427 424 c) c 0 false

/-- Apply a change to an entry, indivisibly: an atomic pair on its fields but the target, which is read if the change needs it. -/
def entryUpdate (s : State) (c : Ctx) (w : Who) (tgt : Bool) (e : Nat) (f : Nat → Nat) : Got State :=
  let u := (w.fresh s).acquiring s (entryFields c e) 52
  (if tgt then loadVirt s u .load false (entryVa c e) 4 else .ok ([], s)).bind fun t =>
    (atomicVirt t.2 u (entryFields c e) 52 fun bs => some (leBytes 52 (f (leValue bs * 2 ^ 32 + leValue t.1) / 2 ^ 32))).bind fun q => .ok q.2

/-- Apply a change to entries `e` on, `n` of them. -/
def entryUpdates (s : State) (c : Ctx) (w : Who) (tgt : Bool) (f : Nat → Nat) (e : Nat) : Nat → Got State
  | 0 => .ok s
  | n + 1 => (entryUpdate s c w tgt e f).bind fun t => entryUpdates t c w tgt f (e + 1) n

/-- Add 1 to a counter of the header: `sr.applied` at byte 0, `sr.skipped` at byte 4. -/
def headerCount (s : State) (c : Ctx) (w : Who) (o : Nat) : Got State :=
  (atomicVirt s (w.fresh s) ((c.card.tt.toNat + o) % 2 ^ 64) 4 fun bs => some (leBytes 4 (leValue bs + 1))).bind fun q => .ok q.2

/-- The scale exponent of an entry (R43): byte 55 of it. -/
def tableExp (s : State) (c : Ctx) (w : Who) (obj e : Nat) : Got (Int × State) :=
  (tableCheck s c w .load obj (some e)).bind fun t =>
    (loadVirt t w .load false ((entryVa c e + 55) % 2 ^ 64) 1).bind fun q => .ok (sextN 8 (leValue q.1), q.2)

/-! ## Words -/

/-- `SREAD` (R202). -/
def execSread (x y : SReg) (s : State) : Host.Outcome State Fault Refusal :=
  issue s (.sread x y) fun w t =>
    let v := (w.st.sreg y).toNat
    let who := whoStream t w.cx w.ref.st
    if v / 2 ^ 13 ≠ 0 ∨ (bitN v 12 && v % 2 ^ 12 != 0) then .trap t (illegal (.sread x y) 7)
    else if bitN v 12 then
      (tableCheck t w.cx who .load 0 none).res t 6 fun u =>
        (loadVirt u who .load false w.cx.card.tt.toNat 8).res t 6 fun q =>
          w.interlock q.2 (.s x) (BitVec.ofNat 64 (leValue q.1))
    else
      (tableCheck t w.cx who .load 0 (some v)).res t 6 fun u =>
        (loadVirt u who .load false (entryFields w.cx v) 52).res t 6 fun q =>
          let e := leValue q.1 * 2 ^ 32
          w.interlock q.2 (.s x) (BitVec.ofNat 64 (teMax e + teK e * 2 ^ 32 + teFill e * 2 ^ 40))

/-- Is it a capturing copy? -/
def isCapture (i : Instr) : Bool :=
  match i with
  | .copya .. => true
  | .chaina .. => true
  | _ => false

/-- Body of `SSTEP` and `SSKIP` (R203): they wait for the captures of the job, then change each named entry and a counter. -/
def scaleBody (i : Instr) (x : SReg) (f : Nat → Nat) (tgt : Bool) (o : Nat) (w : At) (t : State) : Res :=
  let v := (w.arg x).toNat
  let e := v % 2 ^ 12
  let n := bitsN v 23 12
  let who := whoStream t w.cx w.ref.st
  if v / 2 ^ 24 ≠ 0 ∨ 4096 < e + n + 1 then .trap t (illegal i 7)
  else if w.cx.cmds.any fun d => decide (d.seq < w.seq) && isCapture d.word then .hold t
  else
    (scaleChecks t w.cx who tgt o e (n + 1)).res t 6 fun u =>
      (entryUpdates u w.cx who tgt f e (n + 1)).res t 6 fun q =>
        (headerCount q w.cx who o).res t 6 fun r => .done r

def sstepBody (x : SReg) (w : At) (t : State) : Res := scaleBody (.sstep x) x teStep true 0 w t

def sskipBody (x : SReg) (w : At) (t : State) : Res := scaleBody (.sskip x) x teSkip false 4 w t

/-- `SSTEP` (R203). -/
def execSstep (x : SReg) (s : State) : Host.Outcome State Fault Refusal := issue s (.sstep x) (sstepBody x)

/-- `SSKIP` (R203). -/
def execSskip (x : SReg) (s : State) : Host.Outcome State Fault Refusal := issue s (.sskip x) (sskipBody x)

end Sys2Proof.Machine
end

