-- ==== Sys2Proof/Machine/Queue.lean ====
section
/-! DEFINITION. Engine queues: entering one (R57, R61, R212, R219), the access sets of copies (R144), the range checker (R216), what
a completion does (R26, R32, R227). -/

namespace Sys2Proof.Machine

/-! ## Entering a queue -/

/-- Place of a queue in the tables of a context. -/
def queueIdx : Queue → Fin 4
  | .A => 0 | .L => 1 | .S => 2 | .N => 3

/-- Entries a queue has: 16, and 16 for each grant. -/
def queueDepth (c : Ctx) (q : Queue) : Nat := 16 + 16 * c.grants.get (queueIdx q)

/-- Commands of a queue, in order. -/
def queueCmds (c : Ctx) (q : Queue) : List Cmd := c.cmds.filter fun d => decide (d.q = q)

/-- Has a queue no free entry? -/
def queueFull (c : Ctx) (q : Queue) : Bool := decide (queueDepth c q ≤ (queueCmds c q).length)

/-- The queue that a word enters. -/
def Instr.queue (i : Instr) : Option Queue :=
  match Instr.engine i with
  | 2 => some .A
  | 3 => some .L
  | 4 => some .S
  | 5 => some .N
  | _ => none

/-- Does a word of a queue's engine that has issued in another stream still wait to enter it (R144)? The words of an engine enter its queue in
issue order, so a later one waits behind it (R57). -/
def chainAhead (c : Ctx) (q : Queue) (x : StreamId) : Bool :=
  [StreamId.C, .A, .L, .S, .N].any fun y => decide (y ≠ x) && !(c.stream y).stopped &&
    match (c.stream y).run with
    | .held h => h.regs.isSome && decide (Instr.queue h.word = some q)
    | _ => false

/-- May no word of a stream enter a queue? -/
def queueShut (c : Ctx) (q : Queue) (x : StreamId) : Bool := queueFull c q || chainAhead c q x

/-- A word as a new command. -/
def At.cmd (w : At) (q : Queue) (i : Instr) (sval : Word) (reads writes : List RowSet) (paths : BitVec 5) : Cmd :=
  ⟨w.seq, q, i, sval, w.ref.st, w.st.pc, reads, writes, paths, 0, [], .queued, Clock.tick w.st.clk (streamAgent w.cx.job w.ref.st)⟩

/-- Enter a queue; with no free entry, or behind a word that is still to enter it, the stream is held. The command observes every earlier
access of its stream (Table 11.2). -/
def enqueue (w : At) (t : State) (d : Cmd) : Res :=
  if queueShut w.cx d.q w.ref.st then .wait
  else .done (t.putCtx { w.cx.putStream w.ref.st { w.st with clk := d.clk } with cmds := w.cx.cmds ++ [d] })

/-! ## Commands of a context -/

/-- A command by its place in the issue order. -/
def Ctx.cmd (c : Ctx) (seq : Nat) : Option Cmd := c.cmds.find? fun d => d.seq == seq

def Ctx.putCmd (c : Ctx) (d : Cmd) : Ctx := { c with cmds := c.cmds.map fun e => if e.seq = d.seq then d else e }

def State.putCmd (s : State) (x : CtxId) (d : Cmd) : State := s.mapCtx x fun c => c.putCmd d

/-- Update a command by its place in the issue order. -/
def State.mapCmd (s : State) (x : CtxId) (seq : Nat) (f : Cmd → Cmd) : State :=
  s.mapCtx x fun c => { c with cmds := c.cmds.map fun e => if e.seq = seq then f e else e }

/-- Grants return to the pool when a queue becomes empty (R219). -/
def returnGrants (s : State) (x : CtxId) (q : Queue) : State :=
  match s.ctx x, s.core x.core with
  | some c, some k =>
    if queueCmds c q = [] then
      (s.putCtx { c with grants := c.grants.set (queueIdx q).val 0 (queueIdx q).isLt }).putCore
        { k with pool := k.pool + 16 * c.grants.get (queueIdx q) }
    else s
  | _, _ => s

/-- Take a command out of its queue. -/
def dropCmd (s : State) (x : CtxId) (d : Cmd) : State :=
  returnGrants (s.mapCtx x fun c => { c with cmds := c.cmds.filter fun e => decide (e.seq ≠ d.seq) }) x d.q

/-- Set bits of the per-tile status file (R32). -/
def Ctx.setStatus (c : Ctx) (l : List (Fin 32 × BitVec 4)) : Ctx :=
  { c with status := l.foldl (fun v r => v.set r.1.val (v.get r.1 ||| r.2) r.1.isLt) c.status }

/-- Does a `WAITP` on a path hold a stream of a core that has issued at or before a place in the issue order? -/
def waitpHeld (s : State) (k : CoreId) (p : Path) (seq : Nat) : Bool :=
  s.ctxs.any fun c => decide (c.id.core = k) && [StreamId.C, .A, .L, .S, .N].any fun x =>
    match (c.stream x).run with
    | .held h => h.regs.isSome && decide (h.word = .waitp p) && decide (h.seq ≤ seq)
    | _ => false

/-- Add what a command has released on a path (R231). It is taken together with what others have released, but where a `WAITP` that waits
stands between them in the issue order. -/
def noteReleased (held : Nat → Bool) (p : Path) (seq : Nat) (k : Clock) : List (Path × Nat × Clock) → List (Path × Nat × Clock)
  | [] => [(p, seq, k)]
  | e :: l => if e.1 = p ∧ held (max e.2.1 seq) = false then (p, max e.2.1 seq, Clock.join e.2.2 k) :: l else e :: noteReleased held p seq k l

/-- What completed commands issued before a place in the issue order have released on a path. -/
def releasedIn (p : Path) (seq : Nat) (l : List (Path × Nat × Clock)) : Clock :=
  (l.filter fun e => decide (e.1 = p) && decide (e.2.1 < seq)).foldl (fun c e => Clock.join c e.2.2) []

/-- What a `WAITP` of a job acquires of completed commands (R231): of those that its core has kept, and of the job's own, which may have
completed on another core. -/
def releasedBefore (s : State) (c : Ctx) (p : Path) (seq : Nat) : Clock :=
  Clock.join (releasedIn p seq c.waitClk) (((s.core c.id.core).map fun y => releasedIn p seq y.waitClk).getD [])

/-- Add what a command has released on its paths to what is kept. -/
def addReleased (held : Path → Nat → Bool) (paths : BitVec 5) (seq : Nat) (k : Clock) (l : List (Path × Nat × Clock)) :
    List (Path × Nat × Clock) :=
  allPaths.foldl (fun l p => if paths.getLsbD (pathIdx p) then noteReleased (held p) p seq k l else l) l

/-- What a command has released on its paths, as its core keeps it for `WAITP`. -/
def releaseOnPaths (s : State) (k : CoreId) (paths : BitVec 5) (seq : Nat) (c : Clock) : State :=
  match s.core k with
  | some y => s.putCore { y with waitClk := addReleased (waitpHeld s k) paths seq c y.waitClk }
  | none => s

/-- A completed command: its flags and status entry, and what a `WAITP`, and the end of its job, acquire of it. -/
def completeCmd (s : State) (x : CtxId) (d : Cmd) : State :=
  match s.ctx x with
  | none => dropCmd s x d
  | some c =>
    let k := Clock.tick d.clk (cmdAgent c.job d.seq (queueEng d.q))
    let c1 := (c.putStream d.src ((c.stream d.src).orFlags d.flags)).setStatus d.status
    let c2 := { c1 with
      doneClk := if d.paths = 0 then c1.doneClk else Clock.join c1.doneClk k
      waitClk := addReleased (waitpHeld s x.core) d.paths d.seq k c1.waitClk }
    dropCmd (releaseOnPaths (s.putCtx c2) x.core d.paths d.seq k) x d

/-- A trap of a queued command (R223): it stays in its queue, at its resume point. -/
def cmdTrap (s : State) (x : CtxId) (d : Cmd) (c : Cause) : State := takeTrap s ⟨x, d.src⟩ c d.pc true

/-- Do commands of a job make progress: not while a handler runs or the job is stopped (R224)? -/
def cmdsRun (c : Ctx) : Bool := !c.atSup && !c.frozen && (c.id.core.isSup || !(c.stream .C).mode)

/-! ## The range checker (R216) -/

/-- Do two row sets meet? -/
def RowSet.meets (a b : RowSet) : Bool := decide (a.h = b.h) && decide (a.lo ≤ b.hi) && decide (b.lo ≤ a.hi)

def setsMeet (a b : List RowSet) : Bool := a.any fun x => b.any fun y => x.meets y

/-- Two access sets conflict. -/
def conflict (r1 w1 r2 w2 : List RowSet) : Bool := setsMeet w1 (r2 ++ w2) || setsMeet r1 w2

/-- Rows that a vector word uses that has issued with the given s registers (R125, R129): reads and writes. -/
def wordRows (i : Instr) (regs : Vector Word 64) : List RowSet × List RowSet :=
  let arg (r : SReg) : Nat := if r = 0 then 0 else (regs.get r).toNat
  let row (x : SReg) (h : HId) : RowSet := ⟨h, arg x % 2 ^ 16, arg x % 2 ^ 16⟩
  let all (a : SReg) : RowSet := wholeHandle ⟨bitsN (arg a) 37 30, Nat.mod_lt _ (by decide)⟩
  match i with
  | .vldh _ x h _ _ => ([row x h], [])
  | .vsth _ x h _ _ => ([], [row x h])
  | .vxcHandleGather a _ => ([all a], [])
  | .vxcHandleScatter a _ => ([], [all a])
  | _ => ([], [])

/-- The rows of the vector word that holds a stream, with its place in the issue order: none of one that has not issued. -/
def heldRows (st : Stream) : Option (Nat × List RowSet × List RowSet) :=
  match st.run with
  | .held h => h.regs.map fun v => (h.seq, wordRows h.word v)
  | _ => none

/-- Does the range checker hold a command back: does it conflict with an earlier-issued tracked command of another queue, a
vector word that still waits, or a `VXC` handle command in progress? -/
def rangeHeld (c : Ctx) (d : Cmd) : Bool :=
  (c.issued.any fun e => decide (e.seq < d.seq) && decide (e.q ≠ d.q) && conflict d.reads d.writes e.reads e.writes) ||
  (match heldRows (c.stream .C) with
    | some r => decide (r.1 < d.seq) && conflict d.reads d.writes r.2.1 r.2.2
    | none => false) ||
  (match c.vxc with
    | some v => decide (v.seq < d.seq) && (v.kind == 2 || v.kind == 3) &&
        conflict d.reads d.writes (if v.kind == 2 then [wholeHandle v.handle] else [])
          (if v.kind == 3 then [wholeHandle v.handle] else [])
    | none => false)

/-! ## Words that name a chain handle (R144) -/

/-- Issue a word that names a chain handle: check 10, the wait of R144, then its queue. -/
def chainBody (i : Instr) (q : Queue) (h : HId) (x : SReg) (w : At) (t : State) : Res :=
  let v := w.arg x
  match check10 w.cx h .chain v.toNat with
  | none => .trap t (badHandle i h)
  | some y =>
    if chainBusy w.cx w.seq h then .hold t
    else
      let r := chainSets w.cx.card i y v
      enqueue w t (w.cmd q i v r.1 r.2.1 r.2.2)

end Sys2Proof.Machine
end

