-- ==== Sys2Proof/Machine/Copy.lean ====
section
/-! DEFINITION. The copy engines: data records, walks, captures, offload and return, range words, and `WAITP`
(spec/07_memory_and_sync.md, R138-R150), and `TREAD` (R201). One row of a data record, or one band of a transpose, is one step (log 33). -/

namespace Sys2Proof.Machine

/-! ## Transfers -/

/-- Bytes of a column offset. -/
def colBytes (f : Fin 16) (col : Nat) : Nat := if isBx f then col / 32 * bxBytes f else col * ewidth f

/-- Elements of a row as values. -/
def rowNums (f : Fin 16) (cols : Nat) (bs : List Byte) : List Num :=
  (List.range cols).map fun j =>
    if isBx f then bxElem f ((bs.drop (j / 32 * bxBytes f)).take (bxBytes f)) (j % 32)
    else elemNum f (leValue ((bs.drop (j * ewidth f)).take (ewidth f)))

/-- Fill a list up to 32 values with +0. -/
def pad32 (xs : List Num) : List Num := xs ++ List.replicate (32 - xs.length) .zero

/-- Values as blocks of BX bytes; `n`: blocks at most. -/
def bxRow (f : Fin 16) (split : Nat) : Nat → List Num → List Byte × FFlags
  | 0, _ => ([], fNone)
  | n + 1, xs =>
    if xs.isEmpty then ([], fNone)
    else
      let b := bxEncode f split (pad32 (xs.take 32))
      let r := bxRow f split n (xs.drop 32)
      (b.1 ++ r.1, b.2 ||| r.2)

/-- Values, of a source that is an integer format or not, as the bytes of a destination format (R40, R41, R44). -/
def numsRow (f : Fin 16) (split : Nat) (satfp fromInt : Bool) (xs : List Num) : List Byte × FFlags :=
  if isBx f then bxRow f split (xs.length / 32 + 1) xs
  else
    xs.foldr (fun x r =>
      let e := numElem f satfp fromInt x
      (leBytes (ewidth f) e.1 ++ r.1, e.2 ||| r.2)) ([], fNone)

/-- The scale of R43: 2^k into BX, 2^−k out of BX, none between two BX or two other formats. -/
def scaled (fs fd : Fin 16) (k : Int) (x : Num) : Num :=
  if isBx fd && !isBx fs then x.scale k else if isBx fs && !isBx fd then x.scale (-k) else x

/-- A BX block whose elements from `n` on are +0, the others as they are (R142). The code of +0 takes the selector that R44 gives it. -/
def blockHead (f : Fin 16) (n : Nat) (blk : List Byte) : List Byte :=
  let z : Nat := if (blk.getD 1 0).toNat = 255 then 0 else 1
  if f = 14 then blk.take (2 + n) ++ List.replicate (32 - n) (BitVec.ofNat 8 (64 * z))
  else if n % 2 = 0 then blk.take (2 + n / 2) ++ List.replicate (16 - n / 2) (BitVec.ofNat 8 (68 * z))
  else blk.take (2 + n / 2) ++ BitVec.ofNat 8 ((blk.getD (2 + n / 2) 0).toNat % 16 + 64 * z) ::
    List.replicate (15 - n / 2) (BitVec.ofNat 8 (68 * z))

/-- A converted row segment: equal formats move bytes unchanged, and a BX segment that ends inside a block completes it with +0 (R142). -/
def convRow (e : Xfer) (cols : Nat) (bs : List Byte) : List Byte × FFlags :=
  if e.fs = e.fd then
    (if isBx e.fs && cols % 32 != 0 then
      bs.take (cols / 32 * bxBytes e.fs) ++ blockHead e.fs (cols % 32) (bs.drop (cols / 32 * bxBytes e.fs)) else bs, fNone)
  else numsRow e.fd e.split e.satfp (isInt e.fs) ((rowNums e.fs cols bs).map (scaled e.fs e.fd e.k))

/-- Bytes of row `r` of a side, `cols` elements. -/
def readSide (s : State) (x : CtxId) (w : Who) (f : Fin 16) (cols : Nat) (sd : Side) (r : Nat) : Got (List Byte × State) :=
  match sd with
  | .mem va pitch => loadVirt s w .load false ((va + r * pitch) % 2 ^ 64) (rowBytes f cols)
  | .hnd h row col =>
    match (s.ctx x).bind fun c => c.handle h with
    | some y => .ok (y.bytes (row + r) (colBytes f col) (rowBytes f cols), s)
    | none => .ok ([], s)

/-- Check the write of bytes at column `c` of row `r` of a side. -/
def checkSide (s : State) (w : Who) (f : Fin 16) (sd : Side) (r c n : Nat) : Got State :=
  match sd with
  | .mem va pitch =>
    (checkAccess s.mem s.hub s.free w .store false ((va + r * pitch + colBytes f c) % 2 ^ 64) n).bind fun q => .ok (s.setMem q.1)
  | .hnd _ _ _ => .ok s

/-- Write bytes at column `c` of row `r` of a side. -/
def writeSide (s : State) (x : CtxId) (w : Who) (f : Fin 16) (sd : Side) (r c : Nat) (bs : List Byte) : Got State :=
  match sd with
  | .mem va pitch => storeVirt s w .store false ((va + r * pitch + colBytes f c) % 2 ^ 64) bs
  | .hnd h row col =>
    .ok (s.mapCtx x fun k => match k.handle h with
      | some y => k.putHandle (y.store (row + r) (colBytes f (col + c)) bs)
      | none => k)

/-- The largest magnitude of values, in order (R145): NaN elements are skipped. -/
def foldMax (m : Num) (xs : List Num) : Num :=
  xs.foldl (fun a x => if x.isNan then a else if a.lt x.abs then x.abs else a) m

/-! ## One row, and one band of a transpose -/

/-- Copy source row `r`: the flags, the values read, and the state. -/
def copyRow (s : State) (x : CtxId) (w : Who) (e : Xfer) (r : Nat) : Got (FFlags × List Num × State) :=
  (readSide s x w e.fs e.cols e.src r).bind fun q =>
    let b := convRow e e.cols q.1
    (writeSide q.2 x w e.fd e.dst r 0 b.1).bind fun t => .ok (b.2, rowNums e.fs e.cols q.1, t)

/-- Read source rows `r` to `r + n`, in order. -/
def readBand (s : State) (x : CtxId) (w : Who) (e : Xfer) (r : Nat) : Nat → Got (List (List Byte) × State)
  | 0 => .ok ([], s)
  | n + 1 => (readSide s x w e.fs e.cols e.src r).bind fun q =>
      (readBand q.2 x w e (r + 1) n).bind fun z => .ok (q.1 :: z.1, z.2)

/-- Column `c` of a band, as bytes of the destination. -/
def bandCol (e : Xfer) (rows : List (List Byte)) (c : Nat) : List Byte × FFlags :=
  if e.fs = e.fd then (rows.flatMap fun b => (b.drop (c * ewidth e.fs)).take (ewidth e.fs), fNone)
  else numsRow e.fd e.split e.satfp (isInt e.fs)
    (rows.map fun b => scaled e.fs e.fd e.k ((rowNums e.fs e.cols b).getD c .zero))

/-- Check the writes of destination rows `c` on, `n` of them, of a band from source row `r`. -/
def checkBand (s : State) (w : Who) (e : Xfer) (rows : List (List Byte)) (r c : Nat) : Nat → Got State
  | 0 => .ok s
  | n + 1 => (checkSide s w e.fd e.dst c r (bandCol e rows c).1.length).bind fun t => checkBand t w e rows r (c + 1) n

/-- Make them. -/
def writeBand (s : State) (x : CtxId) (w : Who) (e : Xfer) (rows : List (List Byte)) (r c : Nat) (fl : FFlags) :
    Nat → Got (FFlags × State)
  | 0 => .ok (fl, s)
  | n + 1 =>
    let b := bandCol e rows c
    (writeSide s x w e.fd e.dst c r b.1).bind fun t => writeBand t x w e rows r (c + 1) (fl ||| b.2) n

/-- Copy `n` source rows from `r` on, transposed. Into a BX destination the rows of `r`'s block that were done before are read once more, so
that the block comes out as one of all its rows; its flags are those of its last band. -/
def copyBand (s : State) (x : CtxId) (w : Who) (e : Xfer) (r n : Nat) : Got (FFlags × List Num × State) :=
  let r0 := if isBx e.fd then r / 32 * 32 else r
  let last := !isBx e.fd || (r + n) % 32 == 0 || decide (e.rows ≤ r + n)
  (readBand s x w e r0 (r + n - r0)).bind fun q =>
    (checkBand q.2 w e q.1 r0 0 e.cols).bind fun t =>
      (writeBand t x w e q.1 r0 0 fNone e.cols).bind fun z =>
        .ok (if last then z.1 else fNone, (q.1.drop (r - r0)).flatMap (rowNums e.fs e.cols), z.2)

/-- Rows of a band: the side of the granule of the width source (R142). -/
def bandRows (wf : Fin 16) : Nat := if ewidth wf = 0 then 32 else 32 / ewidth wf

/-! ## Rows in D-regions (R199, R269, R270) -/

/-- The elements of a memory row of a transfer in a D-region mode: their addresses, in ascending element order. `xpose`: the
elements of a source row stand one below the other. -/
def memElems (e : Xfer) (va pitch r : Nat) (f : Fin 16) (down : Bool) : List Nat :=
  if isBx f then [(va + r * pitch) % 2 ^ 64]
  else (List.range e.cols).map fun j =>
    if down then (va + j * pitch + r * ewidth f) % 2 ^ 64 else (va + r * pitch + j * ewidth f) % 2 ^ 64

/-- Bytes of an element that `memElems` lists. -/
def memWidth (e : Xfer) (f : Fin 16) : Nat := if isBx f then rowBytes f e.cols else ewidth f

/-- What the elements of a row are, each on its own (R199): plain, or inverted in a region; or a trap: an element across an edge, or one
that is inverted and of another width than the region's data (log 34). `inv`: does the mode invert the access? -/
def rowKind (c : Ctx) (inv : Bool) (n : Nat) : List Nat → Except Nat (List (Option DRegion))
  | [] => .ok []
  | a :: l =>
    match dAccess c a n with
    | .straddles i => .error i
    | .plain => (rowKind c inv n l).map (none :: ·)
    | .inside r =>
      if !inv then (rowKind c inv n l).map (none :: ·)
      else if dtSize r.type ≠ n then .error r.idx.val
      else (rowKind c inv n l).map (some r :: ·)

/-- Does a row have no inverted element? -/
def allPlain (ks : List (Option DRegion)) : Bool := ks.all Option.isNone

/-- The elements of a handle row that belong to a memory row, as values. -/
def handleNums (c : Ctx) (e : Xfer) (f : Fin 16) (h : HId) (row col r : Nat) (down : Bool) : List Num :=
  match c.handle h with
  | some y => (List.range e.cols).map fun j => if down then y.num f (row + j) (col + r) else y.num f (row + r) (col + j)
  | none => []

/-- Put a value into an element of a handle row; a BX block is encoded again with the others as they were. -/
def Handle.setNum (y : Handle) (f : Fin 16) (split : Nat) (satfp fromInt : Bool) (row e : Nat) (x : Num) : Handle × FFlags :=
  if isBx f then
    let b := bxEncode f split ((y.blockNums f row (e / 32)).set (e % 32) x)
    (y.store row (e / 32 * bxBytes f) b.1, b.2)
  else
    let b := numElem f satfp fromInt x
    (y.putRaw f row e b.1, b.2)

/-- Put values into elements (row, column, value) of a handle, in order. -/
def setNums (f : Fin 16) (split : Nat) (satfp fromInt : Bool) (y : Handle) (fl : FFlags) : List (Nat × Nat × Num) → Handle × FFlags
  | [] => (y, fl)
  | a :: l =>
    let z := y.setNum f split satfp fromInt a.1 a.2.1 a.2.2
    setNums f split satfp fromInt z.1 (fl ||| z.2) l

/-- Put popped adjoints into the elements of a handle row that are inverted (`js`: their numbers), converted into the bank's format (R43,
R199): a whole row as one segment, else element by element. -/
def putAdjoints (c : Ctx) (e : Xfer) (h : HId) (row col r : Nat) (js : List Nat) (xs : List Num) (split : Nat) : Ctx × FFlags :=
  match c.handle h with
  | some y =>
    let ys := xs.map (scaled 10 e.fs e.k)
    if js.length = e.cols then
      let b := numsRow e.fs split e.satfp false ys
      (c.putHandle (y.store (row + r) (colBytes e.fs col) b.1), b.2)
    else
      let b := setNums e.fs split e.satfp false y fNone ((js.zip ys).map fun p => (row + r, col + p.1, p.2))
      (c.putHandle b.1, b.2)
  | none => (c, fNone)

/-- How a unit of a record ends: it is done, stands at a place with a trap, or waits for an HBM stack or for earlier inverted accesses. -/
inductive Ran where
  | ok (s : State) (w : WalkSt) (fl : FFlags)
  | trap (s : State) (w : WalkSt) (fl : FFlags) (code detail eaddr : Nat)
  | stall

/-- The numbers of the inverted elements of a row, and the elements with their regions. -/
def invNums (ks : List (Option DRegion)) : List Nat := (ks.zip (List.range ks.length)).filterMap fun p => p.1.map fun _ => p.2

def dElems (ks : List (Option DRegion)) (as : List Nat) : List DElem := (ks.zip as).filterMap fun p => p.1.map fun r => (r, p.2)

/-- The plain elements of a row: number and address. -/
def plainElems (ks : List (Option DRegion)) (as : List Nat) : List (Nat × Nat) :=
  (ks.zip ((List.range ks.length).zip as)).filterMap fun p => if p.1.isNone then some p.2 else none

/-- Check the plain elements of a row. -/
def checkElemsAt (s : State) (w : Who) (k : Kind) (n : Nat) : List (Nat × Nat) → Got State
  | [] => .ok s
  | a :: l => (checkAccess s.mem s.hub s.free w k false a.2 n).bind fun q => checkElemsAt (s.setMem q.1) w k n l

/-- Store the plain elements of a row: their bytes stand in `bs` by their number. -/
def storeElems (s : State) (w : Who) (n : Nat) (bs : List Byte) : List (Nat × Nat) → Got State
  | [] => .ok s
  | a :: l => (storeVirt s w .store false a.2 ((bs.drop (a.1 * n)).take n)).bind fun t => storeElems t w n bs l

/-- Load the plain elements of a row: bits by number. -/
def loadElems (s : State) (w : Who) (n : Nat) : List (Nat × Nat) → Got (List (Nat × Nat) × State)
  | [] => .ok ([], s)
  | a :: l => (loadVirt s w .load false a.2 n).bind fun q =>
      (loadElems q.2 w n l).bind fun z => .ok ((a.1, leValue q.1) :: z.1, z.2)

/-- A reverse-mode store of source row `r`: its block is popped into the handle (R270), its plain elements are stored. -/
def popRow (s : State) (c : Ctx) (w : Who) (e : Xfer) (h : HId) (row col r split : Nat) (ks : List (Option DRegion)) (as : List Nat) :
    Got (FFlags × State) :=
  let ps := plainElems ks as
  (checkElemsAt s w .store (ewidth e.fd) ps).bind fun t =>
    (popBlock t c.id w (dElems ks as)).bind fun q =>
      (readSide q.2 c.id w e.fs e.cols e.src r).bind fun b =>
        let o := convRow e e.cols b.1
        (storeElems b.2 w (ewidth e.fd) o.1 ps).bind fun u =>
          let xs := ((dElems ks as).zip q.1).map fun p => adjNum p.1.1 p.2
          match u.ctx c.id with
          | some d =>
            let z := putAdjoints d e h row col r (invNums ks) xs split
            .ok (z.2 ||| (if ps = [] then fNone else o.2), u.putCtx z.1)
          | none => .ok (fNone, u)

/-- A reverse-mode load of memory row `r`: the adjoints of the handle's elements are accumulated, once they have passed the cell's format
(R43, R199); its plain elements are loaded. -/
def accumRow (s : State) (c : Ctx) (w : Who) (e : Xfer) (h : HId) (row col r : Nat) (ks : List (Option DRegion)) (as : List Nat) :
    Got (FFlags × State) :=
  let ps := plainElems ks as
  let xs := handleNums c e e.fd h row col r e.xpose
  let els := dElems ks as
  let ys := (els.zip (invNums ks)).map fun p =>
    let g := (cellFmt p.1.1.type).convert .rne false (scaled e.fd 10 e.k (xs.getD p.2 .zero))
    ((p.1, (cellFmt p.1.1.type).decode g.1), g.2)
  (checkCells s w els).bind fun t =>
    (loadElems t w (ewidth e.fs) ps).bind fun q =>
      (accumCells q.2 w (ys.foldl (fun f y => f ||| y.2) fNone) (ys.map fun y => y.1)).bind fun z =>
        match z.1.ctx c.id with
        | some d =>
          (match d.handle h with
          | some y =>
            let b := setNums e.fd e.split e.satfp (isInt e.fs) y fNone (q.1.map fun p =>
              (if e.xpose then row + p.1 else row + r, if e.xpose then col + r else col + p.1,
                scaled e.fs e.fd e.k (elemNum e.fs p.2)))
            .ok (z.2 ||| b.2, if ps = [] then z.1 else z.1.putCtx (d.putHandle b.1))
          | none => .ok (z.2, z.1))
        | none => .ok (z.2, z.1)

/-- Record-mode writes of the elements of a row in order (R199, R275), inverted ones with their pushes: the state so far and the number of
elements done, from `n` on, come with the answer. -/
def recordRow (s : State) (x : CtxId) (w : Who) (n : Nat) : List (Option DRegion × Nat × List Byte) → State × Nat × Got Unit
  | [] => (s, n, .ok ())
  | e :: es =>
    match (match e.1 with
      | some r => recordElem s x w r.type e.2.1 e.2.2
      | none => storeVirt s w .store false e.2.1 e.2.2) with
    | .ok u => recordRow u x w (n + 1) es
    | .fail c d a => (s, n, .fail c d a)
    | .stall => (s, n, .stall)

/-- The elements of memory row `r` of a transfer: their addresses and what they are. -/
def rowElems (c : Ctx) (e : Xfer) (r : Nat) : List Nat × Except Nat (List (Option DRegion)) :=
  match e.src, e.dst with
  | .mem va pitch, .hnd _ _ _ =>
    (memElems e va pitch r e.fs false, rowKind c (c.dmode == 2) (memWidth e e.fs) (memElems e va pitch r e.fs false))
  | .hnd _ _ _, .mem va pitch =>
    (memElems e va pitch r e.fd e.xpose, rowKind c true (memWidth e e.fd) (memElems e va pitch r e.fd e.xpose))
  | _, _ => ([], .ok [])

/-- Is a row all plain? -/
def rowPlain (c : Ctx) (e : Xfer) (r : Nat) : Bool :=
  match (rowElems c e r).2 with
  | .ok ks => allPlain ks
  | .error _ => false

/-- Copy rows that have no inverted element: a row, or `n` rows of a band of a transpose. -/
def plainUnit (s : State) (c : Ctx) (w : Who) (e : Xfer) (k : WalkSt) (r n : Nat) : Ran :=
  match (if e.xpose then copyBand s c.id w e r n else copyRow s c.id w e r) with
  | .ok q => .ok q.2.2 { k with rowsDone := k.rowsDone + n, amax := foldMax k.amax q.2.1 } q.1
  | .fail a b d => .trap s k fNone a b d
  | .stall => .stall

/-- A row that has inverted elements. -/
def inverseUnit (s : State) (c : Ctx) (w : Who) (e : Xfer) (k : WalkSt) (r : Nat) (as : List Nat) (ks : List (Option DRegion)) : Ran :=
  match e.src, e.dst with
  | .mem _ _, .hnd h row col =>
    (match accumRow s c w e h row col r ks as with
    | .ok q => .ok q.2 { k with rowsDone := k.rowsDone + 1 } q.1
    | .fail a b d => .trap s k fNone a b d
    | .stall => .stall)
  | .hnd h row col, .mem _ _ =>
    if c.dmode = 2 then
      match popRow s c w e h row col r (match c.handle h with
        | some y => (handleSplit s c y).val
        | none => 3) ks as with
      | .ok q => .ok q.2 { k with rowsDone := k.rowsDone + 1 } q.1
      | .fail a b d => .trap s k fNone a b d
      | .stall => .stall
    else
      match (readSide s c.id w e.fs e.cols e.src r).bind fun q =>
          (checkElemsAt q.2 w .store (ewidth e.fd) ((List.range as.length).zip as)).bind fun t => .ok (q.1, t) with
      | .ok q =>
        let b := convRow e e.cols q.1
        let n := ewidth e.fd
        let ws := (ks.zip ((List.range as.length).zip as)).map fun p => (p.1, p.2.2, (b.1.drop (p.2.1 * n)).take n)
        (match recordRow q.2 c.id w k.elemsDone (ws.drop k.elemsDone) with
        | (t, _, .ok ()) => .ok t { k with
            rowsDone := k.rowsDone + 1
            elemsDone := 0
            amax := foldMax k.amax (rowNums e.fs e.cols q.1) } b.2
        | (t, m, .fail a b d) => .trap t { k with elemsDone := m } fNone a b d
        | (_, _, .stall) => .stall)
      | .fail a b d => .trap s k fNone a b d
      | .stall => .stall
  | _, _ => .stall

/-- The next unit of a record (R143): a row, or a band of a transpose. In a D-region mode a row with inverted elements is a unit of its own,
which waits while `held` for earlier ones of the job (R269); in reverse mode a store with such rows goes from its last row to its first (R270). -/
def runUnit (s : State) (c : Ctx) (w : Who) (e : Xfer) (k : WalkSt) (held : Bool) : Ran :=
  let left := e.rows - k.rowsDone
  let n := if e.xpose then min (bandRows e.wf - k.rowsDone % bandRows e.wf) left else 1
  if c.dmode = 0 then plainUnit s c w e k k.rowsDone n
  else
    let back := c.dmode == 2 && (match e.dst with
      | .mem _ _ => !((List.range e.rows).all (rowPlain c e))
      | .hnd _ _ _ => false)
    let r := if back then left - 1 else k.rowsDone
    let m := if back || !((List.range n).all fun i => rowPlain c e (r + i)) then 1 else n
    match rowElems c e r with
    | (_, .error i) => .trap s k fNone 7 i 0
    | (as, .ok ks) =>
      if allPlain ks then plainUnit s c w e k r m
      else if held then .stall
      else inverseUnit s c w e k r as ks

/-! ## Setting a record up (R142, R144) -/

/-- Which endpoints a command takes (Table 7.8): from memory or a handle, into a chain handle, a handle or memory. -/
structure Takes where
  memSrc : Bool
  hndSrc : Bool
  memDst : Bool
  hndDst : Bool
  chainDst : Bool
  capture : Bool

def Instr.takes : Instr → Takes
  | .copy .. => ⟨true, true, false, true, true, false⟩
  | .chain .. => ⟨true, true, false, true, false, false⟩
  | .pref .. => ⟨true, false, true, true, true, false⟩
  | .retn .. => ⟨true, false, false, true, false, false⟩
  | .copya .. => ⟨false, true, true, true, false, true⟩
  | .chaina .. => ⟨false, true, true, true, false, true⟩
  | .offl .. => ⟨false, true, true, false, false, false⟩
  | _ => ⟨false, true, true, true, false, false⟩

/-- A layout record (Table 7.6): format, `split`, pitch, tensor-table entry. -/
structure Layout where
  fmt : Fin 16
  split : Nat
  pitch : Nat
  tt : Option Nat

/-- Decode a layout record; none where a reserved bit is set. -/
def layoutOf (v : Nat) : Option Layout :=
  if bitsN v 127 61 ≠ 0 ∨ bitsN v 15 8 ≠ 0 then none
  else some ⟨nib v, if bitsN v 7 4 = 0 then 3 else bitsN v 7 4, bitsN v 47 16, if bitN v 60 then some (bitsN v 59 48) else none⟩

/-- `fault(8)`: sub-reason 8, the chain handle (R141). -/
def fault8 {α : Type} (h : HId) : Got α := .fail 5 (8 * 256 + h.val) 0

/-- Read the layout record of a data record; none for one between handles. -/
def readLayout (s : State) (c : Ctx) (w : Who) (h : HId) (r : DataRec) : Got (Option Layout × State) :=
  match r.src, r.dst with
  | .hnd _ _, .hnd _ _ => .ok (none, s)
  | _, _ =>
    if c.card.nlay ≤ r.lay then fault8 h
    else
      (loadVirt s w .load false ((c.card.lay.toNat + 16 * r.lay) % 2 ^ 64) 16).bind fun q =>
        match layoutOf (leValue q.1) with
        | some l => .ok (some l, q.2)
        | none => fault8 h

/-- A handle endpoint of a transfer of `rows` × `cols`, with its offset: its side and format; none outside the handle. A chain handle
takes raw bytes of format `raw`; it has no columns, so `cr.hcol` counts elements of that format there, a multiple of 32 in a BX one (DESIGN
CHOICE, log 93). -/
def handleSide (s : State) (c : Ctx) (h : HId) (row : Nat) (off : Int) (col rows cols : Nat) (raw : Option (Fin 16)) :
    Option (Side × Fin 16) :=
  match c.handle h with
  | none => none
  | some y =>
    let r0 := (row : Int) + off
    if r0 < 0 ∨ (y.rows : Int) < r0 + rows then none
    else
      match y.kind, raw with
      | .tile, _ =>
        let f := handleFmt s c y
        if y.cols < col + cols ∨ (isBx f && col % 32 != 0) then none else some (.hnd h r0.toNat col, f)
      | .chain, some f =>
        if 32 < colBytes f col + rowBytes f cols ∨ (isBx f && col % 32 != 0) then none else some (.hnd h r0.toNat col, f)
      | _, _ => none

/-- A memory endpoint with its offset; none for a pitch smaller than the row bytes. -/
def memSide (va : Nat) (off : Int) (l : Layout) (cols : Nat) : Option (Side × Fin 16) :=
  if l.pitch < rowBytes l.fmt cols then none else some (.mem (wrapN 64 ((va : Int) + off)) l.pitch, l.fmt)

/-- Set up the transfer of a data record, with no scale yet and no capture; none is `fault(8)`. -/
def setup (s : State) (c : Ctx) (t : Takes) (r : DataRec) (l : Option Layout) (so dof : Int) (satfp : Bool) :
    Option Xfer :=
  let lay : Layout := l.getD ⟨0, 3, 0, none⟩
  let dRows := if r.xpose then r.cols else r.rows
  let dCols := if r.xpose then r.rows else r.cols
  let src := match r.src with
    | .mem va => if t.memSrc then memSide va so lay r.cols else none
    | .hnd h row => if t.hndSrc then handleSide s c h row so r.hcol r.rows r.cols none else none
  match src with
  | none => none
  | some sd =>
    let dst := match r.src, r.dst with
      | .mem _, .mem _ => none
      | _, .mem va => if t.memDst then memSide va dof lay dCols else none
      | _, .hnd h row =>
        if t.hndDst then handleSide s c h row dof r.hcol dRows dCols (if t.chainDst then some sd.2 else none) else none
    match dst with
    | none => none
    | some dd =>
      let wf := match l with
        | some y => y.fmt
        | none => sd.2
      let split := match dd.1 with
        | .mem _ _ => lay.split
        | .hnd h _ _ => (match c.handle h with
          | some y => (handleSplit s c y).val
          | none => 3)
      if r.xpose && isBx wf then none
      else some { src := sd.1, dst := dd.1, fs := sd.2, fd := dd.2, split := split, k := 0, rows := r.rows, cols := r.cols
                  xpose := r.xpose, satfp := satfp, wf := wf, cap := none }

/-- Does a setup apply the scale of its layout's entry (R43)? -/
def usesScale (e : Xfer) : Bool := e.fs != e.fd && isBx e.fs != isBx e.fd

/-! ## Running a data record -/

/-- A command arrives at a cell (R146, R193). A cell field that names no allocated cell row is a protection trap of sub-reason 0 with the cell
handle as object, once the record's bytes are written (DESIGN CHOICE, log 93). -/
def cmdArrive (s : State) (x : CtxId) (d : Cmd) (cell : HId × Nat) : Got (State × Cmd) :=
  match s.ctx x with
  | none => .ok (s, d)
  | some c =>
    match check10 c cell.1 .cell cell.2 with
    | none => .fail 5 cell.1.val 0
    | some y =>
      let k := Clock.tick d.clk (cmdAgent c.job d.seq (queueEng d.q))
      if y.meets cell.2 0 16 then .fail 14 0 0
      else
      match arriveAt c y cell.2 false k with
      | none => .fail 5 (6 * 256 + cell.1.val) 0
      | some c1 => .ok (s.putCtx c1, { d with clk := k })

/-- Arrive at the cell of a completed record. -/
def recordArrive (s : State) (x : CtxId) (d : Cmd) (r : DataRec) : Got (State × Cmd) := cmdArrive s x d r.cell

/-- Is a `RETN` the return of a kept handle, which reads no memory (R148)? -/
def keptReturn (c : Ctx) (i : Instr) (r : DataRec) (so dof : Int) : Bool :=
  match i, r.src, r.dst with
  | .retn .., .mem va, .hnd h row =>
    (match c.handle h with
    | some y => decide (y.kept = some ⟨((row : Int) + dof).toNat, if r.xpose then r.cols else r.rows, r.hcol,
        if r.xpose then r.rows else r.cols, wrapN 64 ((va : Int) + so), r.lay⟩)
    | none => false)
  | _, _, _ => false

/-- Mark the source of `OFFL … keep` (R148). -/
def markKept (s : State) (x : CtxId) (i : Instr) (r : DataRec) (so dof : Int) : State :=
  match i, r.src, r.dst with
  | .offl _ _ _ true, .hnd h row, .mem va =>
    s.mapCtx x fun c => match c.handle h with
      | some y => c.putHandle { y with kept := some ⟨((row : Int) + so).toNat, r.rows, r.hcol, r.cols, wrapN 64 ((va : Int) + dof),
          r.lay⟩ }
      | none => c
  | _, _, _ => s

/-- The entry that a record captures into (R145). -/
def captureEntry (t : Takes) (l : Option Layout) : Option Nat :=
  if t.capture then l.bind fun y => y.tt else none

/-- Begin the data record `v` of command `d` at `k` (R142, R145): the transfer, with its source rows already done. A kept return moves none. -/
def beginRecord (s : State) (c : Ctx) (d : Cmd) (h : HId) (v : Nat) (k : WalkSt) : Got (Xfer × Nat × State) :=
  let t := Instr.takes d.word
  let w := whoCmd s c d
  match dataRec c.card false v with
  | none => fault8 h
  | some r =>
    if keptReturn c d.word r k.so k.dof then .ok (⟨.mem 0 0, .mem 0 0, 0, 0, 0, 0, r.rows, r.cols, false, false, 0, none⟩, r.rows, s)
    else
      (readLayout s c w h r).bind fun q =>
        match setup q.2 c t r q.1 k.so k.dof (c.stream d.src).satfp with
        | none => fault8 h
        | some e =>
          (match q.1.bind fun y => y.tt with
            | some n => if usesScale e then tableExp q.2 c w h.val n else .ok (0, q.2)
            | none => .ok (0, q.2)).bind fun z =>
            (match captureEntry t q.1 with
              | some n => tableCheck z.2 c w .atomic h.val (some n)
              | none => .ok z.2).bind fun u =>
              .ok ({ e with k := z.1, cap := captureEntry t q.1 }, k.rowsDone, u)

/-! ## Walks (R141) -/

/-- Where control records lead a walk: to a data record, to its end, to a record that waits for a guard, to a fault. `q`: what its ring
tests have acquired. -/
inductive Next where
  | data (k : WalkSt) (v : Nat) (q : Clock)
  | fin (k : WalkSt) (q : Clock)
  | wait (k : WalkSt) (q : Clock)
  | fault (k : WalkSt)

/-- Bits of a loop, condition or range record that Table 7.7 does not list for it are zero. -/
def controlOk (v : Nat) : Bool :=
  match recKind v with
  | 1 => bitsN v 188 181 == 0 && bitsN v 179 153 == 0 && bitsN v 127 0 == 0 && bitsN v 143 128 != 0 && bitsN v 152 144 != 0
  | 2 =>
    bitsN v 255 192 == 0 && bitsN v 188 185 == 0 && bitsN v 180 178 == 0 && bitsN v 127 0 == 0 && bitsN v 136 128 != 0 &&
    (if bitsN v 184 181 < 2 then bitsN v 177 148 == 0 && bitsN v 143 137 == 0 && bitsN v 147 144 != 0
     else if bitsN v 184 181 < 4 then bitsN v 160 156 == 0 && bitsN v 149 137 == 0 && bitsN v 155 150 != 0
     else false)
  | _ => false

/-- Answer of a condition record, with what a ring test acquires of the commits it counts (Table 7.12): none waits, and `none` inside is a
fault. -/
def condTest (c : Ctx) (now : Nat) (v : Nat) : Option (Option (Bool × Clock)) :=
  let g : GSlot := ⟨(bitsN v 147 144 - 1) % 15, Nat.mod_lt _ (by decide)⟩
  match bitsN v 184 181 with
  | 0 => (c.guardSeen now g).map fun b => some (b, [])
  | 1 => (c.guardSeen now g).map fun b => some (!b, [])
  | t =>
    match check10 c (recCell v).1 .cell (recCell v).2 with
    | none => some none
    | some y =>
      let g := ringOf (cellRow y (recCell v).2)
      if g.n = 0 then some none
      else if t = 2 then some (some (decide (bitsN v 155 150 ≤ g.fl), slotClock c (recCell v).1 (recCell v).2 2 g.filled))
      else some (some (decide (bitsN v 155 150 ≤ g.free), []))

/-- Follow control records from a walk's place to its next data record. `n`: records at most; `lo`: the row the walk starts at. -/
def follow (c : Ctx) (now : Nat) (y : Handle) (lo : Nat) (k : WalkSt) (q : Clock) : Nat → Next
  | 0 => .fault k
  | n + 1 =>
    if y.rows ≤ k.row then .fault k
    else
      let v := recordAt y k.row
      match recKind v with
      | 0 => .data k v q
      | 1 =>
        let back := bitsN v 152 144
        let sinc := sextN 32 (bitsN v 223 192)
        let dinc := sextN 32 (bitsN v 255 224)
        let cnt := bitsN v 143 128
        if !controlOk v || decide (k.row < lo + back) then .fault k
        else if (assocFind k.act k.row).isNone && k.act.length == 4 then .fault k
        else
          let left := assocGet cnt k.act k.row - 1
          if 0 < left then
            follow c now y lo { k with
              act := assocSet k.act k.row left, so := k.so + sinc, dof := k.dof + dinc, row := k.row - back } q n
          else
            let k1 := { k with
              act := assocDel k.act k.row, so := k.so - sinc * ((cnt : Int) - 1), dof := k.dof - dinc * ((cnt : Int) - 1) }
            if bitN v 180 then .fin k1 q else follow c now y lo { k1 with row := k.row + 1 } q n
      | 2 =>
        if !controlOk v then .fault k
        else
          match condTest c now v with
          | none => .wait k q
          | some none => .fault k
          | some (some b) =>
            follow c now y lo { k with row := k.row + 1 + if b.1 then 0 else bitsN v 136 128 } (Clock.join q b.2) n
      | _ => .fault k

/-- Control records that a walk can pass between two data records: at most four loops of 65,535 runs over 512 rows. -/
def walkFuel : Nat := 2 ^ 80

/-- Is it a walk? -/
def isWalk (i : Instr) : Bool :=
  match i with
  | .chain .. => true
  | .chaino .. => true
  | .chaina .. => true
  | _ => false

/-- A walk at its start. -/
def walkStart (row : Nat) : WalkSt := ⟨row, 0, 0, [], 0, 0, [], .zero, none⟩

/-- A walk past a data record. -/
def WalkSt.past (k : WalkSt) : WalkSt := { k with row := k.row + 1, rowsDone := 0, elemsDone := 0, amax := .zero, cur := none }

/-- The record a command runs next. -/
def nextRecord (c : Ctx) (now : Nat) (d : Cmd) (y : Handle) (k : WalkSt) : Next :=
  if isWalk d.word then follow c now y d.sval.toNat k [] walkFuel
  else if y.rows ≤ k.row then .fault k
  else .data k (recordAt y k.row) []

/-- How a command stands after a data record: at its end, or on its way to the next one. -/
def afterRecord (d : Cmd) (r : DataRec) (k : WalkSt) : Prog := if !isWalk d.word || r.last then .done else .walk k.past

/-! ## What is still owed to D-regions (R201, R269) -/

/-- Does a memory range touch a D-region? -/
def touchesD (c : Ctx) (lo hi : Int) : Bool :=
  c.dregs.any fun r => decide (lo < ((r.base + r.pages * 4096 : Nat) : Int)) && decide ((r.base : Int) < hi)

/-- Can a condition record of a loop's body leave the loop, whose offset then stays (R141)? `l`: the loop's control row. -/
def loopLeft (y : Handle) (l : Nat) : Bool :=
  (List.range (bitsN (recordAt y l) 152 144)).any fun j =>
    let v := recordAt y (l - 1 - j)
    recKind v == 2 && decide (l < l - j + bitsN v 136 128)

/-- The offsets that a record can have by the loops it lies in, and by those that a condition record can have left, from the least to the
greatest; `dst`: of its destination. -/
def loopSpan (y : Handle) (lo row : Nat) (dst : Bool) : Int × Int :=
  (List.range y.rows).foldl (fun a l =>
    let v := recordAt y l
    if lo ≤ l ∧ recKind v = 1 ∧ ((row < l ∧ l ≤ row + bitsN v 152 144) ∨ loopLeft y l = true) then
      let m := (if dst then sextN 32 (bitsN v 255 224) else sextN 32 (bitsN v 223 192)) * ((bitsN v 143 128 : Int) - 1)
      (a.1 + min 0 m, a.2 + max 0 m)
    else a) (0, 0)

/-- Does a data record of a command read (`dst`: write) memory that touches a D-region, from its least address to its end, over all runs of
its loops? One whose layout cannot be read now may, when it is read again (log 32). -/
def recTouches (s : State) (c : Ctx) (d : Cmd) (y : Handle) (row : Nat) (dst : Bool) : Bool :=
  match dataRec c.card false (recordAt y row) with
  | none => false
  | some r =>
    match (if dst then r.dst else r.src) with
    | .hnd _ _ => false
    | .mem va =>
      match readLayout s c (whoCmd s c d) y.id r with
      | .ok (some l, _) =>
        let o := if isWalk d.word then loopSpan y d.sval.toNat row dst else (0, 0)
        let down := dst && r.xpose
        touchesD c ((va : Int) + o.1) ((va : Int) + o.2 +
          (((if down then r.cols else r.rows) - 1) * l.pitch + rowBytes l.fmt (if down then r.rows else r.cols) : Nat))
      | .ok (none, _) => false
      | _ => true

/-- Can a copy that stands at `k` still make an inverted access (log 32): does a data record that it can come to make one? -/
def copyInverts (s : State) (c : Ctx) (d : Cmd) (k : WalkSt) : Bool :=
  match (chainOf d.word).bind fun h => c.handle h with
  | none => false
  | some y =>
    (if isWalk d.word then walkRows y k.act k.row else [k.row]).any fun r =>
      (c.dmode == 2 && recTouches s c d y r false) || recTouches s c d y r true

/-- Where a routine may go from a micro-op (Table 8.8). -/
def uopNexts (l : List (Nat × BitVec 64)) (a : Nat) : List Nat :=
  let v := (assocGet 0 l a).toNat
  match bitsN v 63 60 with
  | 0 => [a + 1]
  | 1 => [a + 1]
  | 2 => [a + 1]
  | 3 => [bitsN v 13 0, a + 1]
  | 4 => [a + 1]
  | _ => []

/-- Can a routine come to a `DRAINM` from a micro-op? -/
def drainsFrom (l : List (Nat × BitVec 64)) (a : Nat) : Bool :=
  (reachFrom (uopNexts l) 16384 32770 [a] []).any fun b =>
    let v := (assocGet 0 l b).toNat
    bitsN v 63 60 == 0 && bitsN v 59 54 == 0x0A

/-- Can a layer macro still make an inverted access: by a `DRAINM`, the only one of its commands that accesses memory? One that has not begun
may, unless its descriptor stands and its routine has none. -/
def macroInverts (s : State) (c : Ctx) (d : Cmd) (h : HId) (kind : Nat) : Bool :=
  match s.core c.id.core, d.prog with
  | some _, .layer m => drainsFrom m.store m.addr
  | some k, _ =>
    (match c.handle h with
    | some y =>
      chainBusy c d.seq h ||
        drainsFrom k.micro (bitsN (assocGet 0 k.micro (4 * (leValue (y.bytes (d.sval.toNat % 2 ^ 16) 0 32) % 64) + kind)).toNat 13 0)
    | none => true)
  | none, _ => false

/-- Can a command still make an inverted access (R269, log 32)? One whose chain handle is still to be written may. -/
def Cmd.inverts (s : State) (c : Ctx) (d : Cmd) : Bool :=
  c.dmode != 0 && decide (c.dregs ≠ []) &&
    (match d.word, d.prog with
    | _, .done => false
    | .layerf _ h _, _ => macroInverts s c d h 0
    | .layerd _ h _, _ => macroInverts s c d h 1
    | .layerw _ h _, _ => macroInverts s c d h 2
    | .layeru _ h _, _ => macroInverts s c d h 3
    | .drainm _ h _ _, _ => (match c.handle h with
      | some y => chainBusy c d.seq h || recTouches s c d y (d.sval.toNat % 2 ^ 16) true
      | none => false)
    | .pref .., _ => false
    | .invr .., _ => false
    | .wbr .., _ => false
    | _, .walk k => copyInverts s c d k
    | _, _ => (match chainOf d.word with
      | some h => chainBusy c d.seq h || copyInverts s c d (walkStart d.sval.toNat)
      | none => false))

/-- Does a word of some stream, issued before a place in the order, still owe pushes after a tape overflow (R275)? It makes them when its stream
has come back to it. -/
def tapeOwed (c : Ctx) (seq : Nat) : Bool :=
  allStreams.any fun x => match (c.stream x).taped with
    | some r => decide (r.2.2 < seq) && (c.stream x).run.live && ((c.stream x).stopped || decide ((c.stream x).pc = r.1))
    | none => false

/-- Are inverted accesses owed by words and commands issued before a place in the order? -/
def invertersBefore (s : State) (c : Ctx) (seq : Nat) : Bool :=
  (c.issued.any fun e => decide (e.seq < seq) && e.inverts s c) || tapeOwed c seq

/-! ## The steps of a copy -/

/-- A copy traps at a place: its record is set up anew when it goes on. -/
def copyTrap (s : State) (c : Ctx) (d : Cmd) (k : WalkSt) (fl : FFlags) (a b e : Nat) : State :=
  cmdTrap (s.mapCmd c.id d.seq fun x => { x with prog := .walk { k with cur := none }, flags := d.flags ||| fl }) c.id d
    ⟨a, b, queueEng d.q, e⟩

/-- Go on with a copy (R141-R143): to its next data record, which it sets up, or by the next row or band of the one that runs. None where it
waits, or where its record has come to its end. -/
def copyUnit (s : State) (c : Ctx) (d : Cmd) (h : HId) (k : WalkSt) : Option State :=
  match c.handle h with
  | none => some (copyTrap s c d k fNone 5 (8 * 256 + h.val) 0)
  | some y =>
    if y.kind ≠ .chain then some (copyTrap s c d k fNone 5 (8 * 256 + h.val) 0)
    else
      match k.cur with
      | none =>
        (match nextRecord c s.now d y k with
        | .wait k1 q => if k1 = k then none else some (s.putCmd c.id { d with prog := .walk k1, clk := Clock.join d.clk q })
        | .fault k1 => some (copyTrap s c d k1 fNone 5 (8 * 256 + h.val) 0)
        | .fin _ q => some (s.putCmd c.id { d with prog := .done, clk := Clock.join d.clk q })
        | .data k1 v q =>
          let d1 := { d with clk := Clock.join d.clk q }
          match beginRecord s c d1 h v k1 with
          | .ok z => some (z.2.2.putCmd c.id { d1 with prog := .walk { k1 with cur := some z.1, rowsDone := z.2.1 } })
          | .fail a b e => some (copyTrap (s.putCmd c.id d1) c d1 k1 fNone a b e)
          | .stall => none)
      | some e =>
        if e.rows ≤ k.rowsDone then none
        else
          match runUnit s c (whoCmd s c d) e k (invertersBefore s c d.seq) with
          | .ok t k1 fl => some (t.mapCmd c.id d.seq fun x => { x with prog := .walk k1, flags := d.flags ||| fl })
          | .trap t k1 fl a b e => some (copyTrap t c d k1 fl a b e)
          | .stall => none

/-- Complete the data record that a copy has run to its end (R145, R146): the capture, the mark of `OFFL … keep`, the arrival. -/
def completeRecord (s : State) (c : Ctx) (d : Cmd) (h : HId) (k : WalkSt) : Option State :=
  match k.cur, (c.handle h).bind fun y => dataRec c.card false (recordAt y k.row) with
  | some e, some r =>
    if k.rowsDone < e.rows then none
    else
      match (match e.cap with
        | some n => entryUpdate s c (whoCmd s c d) false n (teCapture (f32.convert .rne false k.amax).1)
        | none => .ok s) with
      | .fail a b v => some (copyTrap s c d k fNone a b v)
      | .stall => none
      | .ok u =>
        let t := markKept u c.id d.word r k.so k.dof
        let d1 := ((t.ctx c.id).bind fun x => x.cmd d.seq).getD d
        if r.arv then
          match recordArrive t c.id d1 r with
          | .ok q => some (q.1.putCmd c.id { q.2 with prog := afterRecord d r k })
          | .fail a b v => some (copyTrap t c d1 k fNone a b v)
          | .stall => none
        else some (t.putCmd c.id { d1 with prog := afterRecord d r k })
  | _, _ => none

/-! ## `PREF`, `WBR`, `INVR` (R147, R149) -/

/-- Fill the lines of checked pieces into a die's caches. -/
def fillPieces (m : MemSt) (w : Who) : List Piece → MemSt
  | [] => m
  | p :: l =>
    fillPieces (match w.copyOf p.leaf with
      | some d => if p.len = 0 then m
          else dieFills m d p.idx p.key (p.pa / 128) ((p.pa + p.len - 1) / 128 - p.pa / 128 + 1)
      | none => m) w l

/-- Read rows of a record into the caches; a row that fails a check is skipped. `n` rows from `r` on. -/
def prefRows (s : State) (w : Who) (va pitch n r : Nat) : Nat → State
  | 0 => s
  | k + 1 =>
    prefRows (match checkAccess s.mem s.hub s.free w .probe false ((va + r * pitch) % 2 ^ 64) n with
      | .ok q => s.setMem (fillPieces q.1 w q.2)
      | _ => s) w va pitch n (r + 1) k

/-- Run `PREF`. -/
def runPref (s : State) (c : Ctx) (d : Cmd) (h : HId) (v : Nat) : Got State :=
  match dataRec c.card true v with
  | none => fault8 h
  | some r =>
    match r.src with
    | .hnd _ _ => fault8 h
    | .mem va =>
      (readLayout s c (whoCmd s c d) h r).bind fun q =>
        match q.1 with
        | none => fault8 h
        | some l =>
          if l.pitch < rowBytes l.fmt r.cols then fault8 h
          else .ok (prefRows q.2 (whoCmd s c d) va l.pitch (rowBytes l.fmt r.cols) 0 r.rows)

/-- Act on `n` lines of a page from a physical line on: write back, and drop for `INVR`. Only the die's L2 and below are told
apart, so fn 0 changes nothing that can be seen (log 35). -/
def rangeLines (m : MemSt) (d : Die) (drop : Bool) (line : Nat) : Nat → MemSt
  | 0 => m
  | n + 1 =>
    let m1 := writeBack m d line
    rangeLines (if drop then dropLine m1 d line else m1) d drop (line + 1) n

/-- Act on the lines of a range that begins at `lo`, from line number `i` (of the virtual address), page by page: a failing page leaves the rest. -/
def rangeGo (s : State) (w : Who) (drop l2 : Bool) (lo i last : Nat) : Nat → State × Nat × Got Unit
  | 0 => (s, i, .ok ())
  | n + 1 =>
    if last < i then (s, i, .ok ())
    else
      let va := max lo (i * 128)
      let e := min (last + 1) ((va / 4096 + 1) * 32)
      match checkAccess s.mem s.hub s.free w .probe false va (e * 128 - va) with
      | .ok q =>
        let m := match q.2 with
          | p :: _ => (match w.copyOf p.leaf with
            | some d => if l2 then rangeLines q.1 d drop (p.pa / 128) (e - i) else q.1
            | none => q.1)
          | [] => q.1
        rangeGo (s.setMem m) w drop l2 lo e last n
      | .fail a b d => (s, i, .fail a b d)
      | .stall => (s, i, .stall)

/-- Range record (kind 3): address and length; none where it breaks Table 7.7. -/
def rangeRec (v : Nat) : Option (Nat × Nat) :=
  if recKind v ≠ 3 ∨ bitsN v 255 192 ≠ 0 ∨ bitsN v 188 160 ≠ 0 ∨ bitsN v 127 64 ≠ 0 ∨ bitsN v 63 52 ≠ 0 ∨ bitsN v 159 128 = 0
  then none else some (bitsN v 51 0, bitsN v 159 128)

/-! ## Starting (R144) -/

/-- The memory range of a row set at a pitch: first byte and end. -/
def memExtent (c : Ctx) (s : State) (d : Cmd) (v : Nat) (dst : Bool) : Option (Nat × Nat) :=
  match dataRec c.card false v with
  | none => none
  | some r =>
    match (if dst then r.dst else r.src), chainOf d.word with
    | .mem va, some h =>
      (match readLayout s c (whoCmd s c d) h r with
      | .ok (some l, _) =>
        if dst && r.xpose then some (va, va + (r.cols - 1) * l.pitch + rowBytes l.fmt r.rows)
        else some (va, va + (r.rows - 1) * l.pitch + rowBytes l.fmt r.cols)
      | _ => none)
    | _, _ => none

/-- Is a `RETN` held behind an earlier `OFFL` of the job whose destination overlaps its source (R148)? -/
def retnHeld (s : State) (c : Ctx) (d : Cmd) : Bool :=
  match d.word, chainOf d.word with
  | .retn .., some h =>
    match (c.handle h).bind fun y => memExtent c s d (recordAt y d.sval.toNat) false with
    | none => false
    | some a =>
      c.cmds.any fun e => decide (e.seq < d.seq) &&
        (match e.word with
        | .offl _ g _ _ =>
          (match (c.handle g).bind fun y => memExtent c s e (recordAt y e.sval.toNat) true with
          | some b => decide (a.1 < b.2) && decide (b.1 < a.2)
          | none => false)
        | _ => false)
  | _, _ => false

/-- Start, or go on with, a range word: from line `i`. -/
def startRange (s : State) (c : Ctx) (d : Cmd) (h : HId) (v : Nat) (drop l2 : Bool) (from_ : Option Nat) : Option State :=
  let fail (t : State) (p : Prog) (a b e : Nat) : Option State :=
    let d1 := { d with prog := p }
    some (cmdTrap (t.putCmd c.id d1) c.id d1 ⟨a, b, queueEng d.q, e⟩)
  match rangeRec v with
  | none => fail s d.prog 5 (8 * 256 + h.val) 0
  | some r =>
    match rangeGo s (whoCmd s c d) drop l2 r.1 (from_.getD (r.1 / 128)) ((r.1 + r.2 - 1) / 128) (r.2 / 4096 + 2) with
    | (t, _, .ok ()) => some (t.putCmd c.id { d with prog := .done })
    | (t, i, .fail a b e) => fail t (.range i) a b e
    | (_, _, .stall) => none

/-- Start a copy command at its queue head: copies and walks begin, `PREF`, `WBR` and `INVR` make their effect. -/
def startCopy (s : State) (c : Ctx) (d : Cmd) (h : HId) : Option State :=
  let v := match c.handle h with
    | some y => recordAt y d.sval.toNat
    | none => 4 * 2 ^ 189
  let line := match d.prog with
    | .range i => some i
    | _ => none
  match d.word with
  | .pref .. =>
    (match runPref s c d h v with
    | .ok t => some (t.putCmd c.id { d with prog := .done })
    | .fail a b e => some (cmdTrap s c.id d ⟨a, b, 3, e⟩)
    | .stall => none)
  | .invr _ _ _ l2 => startRange s c d h v true l2 line
  | .wbr _ _ _ l2 => startRange s c d h v false l2 line
  | _ => if retnHeld s c d then none else some (s.putCmd c.id { d with prog := .walk (walkStart d.sval.toNat) })

/-- The source handle that an `OFFL` without `keep` frees when it completes (R148). -/
def offlHandle (c : Ctx) (d : Cmd) : Option HId :=
  match d.word with
  | .offl _ h _ false =>
    (match (c.handle h).bind fun y => dataRec c.card false (recordAt y d.sval.toNat) with
    | some r => (match r.src with
      | .hnd g _ => some g
      | .mem _ => none)
    | none => none)
  | _ => none

/-! ## Words -/

/-- `COPY` (R144). -/
def execCopy (g : Guard) (h : HId) (x : SReg) (s : State) : Host.Outcome State Fault Refusal :=
  issue s (.copy g h x) (chainBody (.copy g h x) .L h x)

/-- `CHAIN` (R141, R144). -/
def execChain (g : Guard) (h : HId) (x : SReg) (s : State) : Host.Outcome State Fault Refusal :=
  issue s (.chain g h x) (chainBody (.chain g h x) .L h x)

/-- `PREF` (R147). -/
def execPref (g : Guard) (h : HId) (x : SReg) (l2 : Bool) (s : State) : Host.Outcome State Fault Refusal :=
  issue s (.pref g h x l2) (chainBody (.pref g h x l2) .L h x)

/-- `RETN` (R148). -/
def execRetn (g : Guard) (h : HId) (x : SReg) (s : State) : Host.Outcome State Fault Refusal :=
  issue s (.retn g h x) (chainBody (.retn g h x) .L h x)

/-- `INVR` (R149). -/
def execInvr (g : Guard) (h : HId) (x : SReg) (l2 : Bool) (s : State) : Host.Outcome State Fault Refusal :=
  issue s (.invr g h x l2) (chainBody (.invr g h x l2) .L h x)

/-- `COPYO` (R144). -/
def execCopyo (g : Guard) (h : HId) (x : SReg) (s : State) : Host.Outcome State Fault Refusal :=
  issue s (.copyo g h x) (chainBody (.copyo g h x) .S h x)

/-- `CHAINO` (R141, R144). -/
def execChaino (g : Guard) (h : HId) (x : SReg) (s : State) : Host.Outcome State Fault Refusal :=
  issue s (.chaino g h x) (chainBody (.chaino g h x) .S h x)

/-- `COPYA` (R145). -/
def execCopya (g : Guard) (h : HId) (x : SReg) (s : State) : Host.Outcome State Fault Refusal :=
  issue s (.copya g h x) (chainBody (.copya g h x) .S h x)

/-- `CHAINA` (R145). -/
def execChaina (g : Guard) (h : HId) (x : SReg) (s : State) : Host.Outcome State Fault Refusal :=
  issue s (.chaina g h x) (chainBody (.chaina g h x) .S h x)

/-- `OFFL` (R148). -/
def execOffl (g : Guard) (h : HId) (x : SReg) (keep : Bool) (s : State) : Host.Outcome State Fault Refusal :=
  issue s (.offl g h x keep) (chainBody (.offl g h x keep) .S h x)

/-- `WBR` (R149). -/
def execWbr (g : Guard) (h : HId) (x : SReg) (l2 : Bool) (s : State) : Host.Outcome State Fault Refusal :=
  issue s (.wbr g h x l2) (chainBody (.wbr g h x l2) .S h x)

/-! ## `WAITP` (R150) -/

/-- Does a Traverse still owe packets (R150, R295)? -/
def owes (s : State) (core : CoreId) (seq : Nat → Bool) : Bool :=
  s.router.outbox.any fun o => decide (o.ctx.core = core) && (s.ctxs.any fun c => c.job == o.job) && seq o.seq

/-- Has a fabric command handed its last packet to the router? A Traverse that no rank supplies announces itself to none; one that sends nothing
else either has done so once it has started. -/
def handedOff (s : State) (core : CoreId) (d : Cmd) : Bool :=
  match d.prog with
  | .trav t => (t.announced || decide (t.need = [])) && !owes s core (fun n => n == d.seq)
  | .push p => decide (p.todo = [])
  | .done => true
  | _ => false

/-- Does `WAITP` wait for a command? -/
def waitpCounts (s : State) (core : CoreId) (p : Path) (seq : Nat) (d : Cmd) : Bool :=
  decide (d.seq < seq) && d.paths.getLsbD (pathIdx p) && !(decide (p = .fabric) && handedOff s core d)

/-- Does a `WAITP` on the fabric path order a command after itself that has handed its last packet over and goes on (R150, R231)? -/
def waitpHands (s : State) (core : CoreId) (p : Path) (seq : Nat) (d : Cmd) : Bool :=
  decide (p = .fabric) && decide (d.seq < seq) && d.paths.getLsbD (pathIdx p) && handedOff s core d

/-- What such commands of a job release by their hand-off: the accesses that they have made. -/
def handsClock (s : State) (core : CoreId) (p : Path) (seq : Nat) (c : Ctx) : Clock :=
  (c.cmds.filter (waitpHands s core p seq)).foldl (fun k d => Clock.join k (Clock.tick d.clk (cmdAgent c.job d.seq (queueEng d.q)))) []

/-- The commands of a job after that: what they do from now on is not covered. -/
def handsOn (s : State) (core : CoreId) (p : Path) (seq : Nat) (c : Ctx) : Ctx :=
  { c with cmds := c.cmds.map fun d =>
      if waitpHands s core p seq d then { d with clk := Clock.tick d.clk (cmdAgent c.job d.seq (queueEng d.q)) } else d }

/-- Body of `WAITP`: commands of every stream of the core count, those that R144 still holds at issue among them. -/
def waitpBody (p : Path) (w : At) (t : State) : Res :=
  let core := w.ref.ctx.core
  let mine := t.ctxs.filter fun c => decide (c.id.core = core)
  if (mine.any fun c => c.issued.any (waitpCounts t core p w.seq)) ||
      (decide (p = .fabric) && owes t core fun n => decide (n < w.seq)) then .hold t
  else
    let k := Clock.join (mine.foldl (fun k c => Clock.join k (handsClock t core p w.seq c)) w.st.clk) (releasedBefore t w.cx p w.seq)
    let u := { t with ctxs := t.ctxs.map fun (c : Ctx) => if c.id.core = core then handsOn t core p w.seq c else c }
    .done (u.mapStream w.ref fun st => { st with clk := k })

/-- `WAITP` (R150). -/
def execWaitp (p : Path) (s : State) : Host.Outcome State Fault Refusal := issue s (.waitp p) (waitpBody p)

/-! ## `TREAD` (R201) -/

/-- Body of `TREAD`: it waits until every earlier push of the job is written. In a handler the commands stand still, and it does not wait. -/
def treadBody (x : SReg) (w : At) (t : State) : Res :=
  if w.cx.dmode = 1 ∧ invertersBefore t w.cx w.seq = true ∧ !(w.st.mode && !w.ref.ctx.core.isSup) then .hold t
  else w.interlock t (.s x) w.cx.tapePos

/-- `TREAD` (R201). -/
def execTread (x : SReg) (s : State) : Host.Outcome State Fault Refusal := issue s (.tread x) (treadBody x)

end Sys2Proof.Machine
end

