-- ==== Sys2Proof/Machine/Array.lean ====
section
/-! DEFINITION. The matrix array: row values, B-slots, `MMA`, `MMA3`, the drain chain, `DRAINM`, and the A words of a G-core but the
layer macros (spec/08_array_engine.md, R163-R178; R47-R49). -/

namespace Sys2Proof.Machine

/-! ## Row values and values of a handle (R163, R164) -/

/-- A trap of an A command with a sub-reason of Table 8.1 and a handle. -/
def aFault {α : Type} (sub : Nat) (h : HId) : Got α := .fail 5 (sub * 256 + h.val) 0

/-- First column of a row value. -/
def svCol (sv : Nat) : Nat := bitsN sv 47 32

/-- Is a row value good for a handle of a format? `eight`: the row must be a multiple of 8; `cols`: the command uses c0. -/
def rowValueOk (x : Handle) (f : Fin 16) (sv : Nat) (eight cols : Bool) : Bool :=
  decide (svRow sv < x.rows) && (!eight || svRow sv % 8 == 0) && (!cols || !isBx f || svCol sv % 32 == 0)

/-- The bytes of a row. -/
def Handle.rowData (x : Handle) (f : Fin 16) (row : Nat) : List Byte :=
  Memory.gets (x.data.dropWhile fun e => decide (e.1 < x.rowAt row)) (x.rowAt row) (rowBytes f x.cols)

/-- `n` values of a row from column `c0`; those beyond the handle's end are +0. -/
def Handle.values (x : Handle) (f : Fin 16) (row c0 n : Nat) : List Num :=
  let l := if row < x.rows then ((rowNums f x.cols (x.rowData f row)).drop c0).take n else []
  l ++ List.replicate (n - l.length) .zero

/-- Bits of `f32` element `e` of a row, 0 beyond the handle's end. -/
def Handle.f32At (x : Handle) (row e : Nat) : BitVec 32 :=
  if row < x.rows ∧ e < x.cols then BitVec.ofNat 32 (x.raw 10 row e) else 0

/-! ## B-slots (R169) -/

/-- The high part of an `f32` value (R49). -/
def splitHi (x : Num) : Num := (bf16.rn x).1

/-- The low part. -/
def splitLo (x : Num) : Num :=
  if x.isNan then .nan false
  else if (splitHi x).isInf then .zero
  else (bf16.rn (Num.add .rne x (splitHi x).neg).1).1

/-- Columns of a slot of a format. -/
def slotCols (f : Fin 16) : Nat := if f = 9 then 128 else 256

/-- Rows `r` to `r + 255` of a handle. -/
def slotRows (x : Handle) (f : Fin 16) (sv n : Nat) : List (List Num) :=
  (List.range 256).map fun k => x.values f (svRow sv + k) (svCol sv) n

/-- The other slot after a `BLOAD` of a format but `f32`: empty where it was part of a pair. -/
def keepSlot (o : Option BSlot) : Option BSlot := o.filter fun b => !b.pair

/-- `BLOAD` (Table 8.2). -/
def runBload (c : Ctx) (x : Handle) (f : Fin 16) (sv : Nat) (k : Bool) : Got Ctx :=
  if !rowValueOk x f sv false true then aFault 10 x.id
  else if f = 10 then
    if k then aFault 11 x.id
    else
      let rows := slotRows x f sv 128
      .ok { c with
        slot0 := some ⟨9, true, rows.map fun l => l.map splitHi⟩
        slot1 := some ⟨9, true, rows.map fun l => l.map splitLo⟩ }
  else if f = 14 ∨ f = 15 ∨ f = 1 ∨ f = 9 then
    let b : BSlot := ⟨f, false, slotRows x f sv (slotCols f)⟩
    .ok (if k then { c with slot1 := some b, slot0 := keepSlot c.slot0 }
      else { c with slot0 := some b, slot1 := keepSlot c.slot1 })
  else aFault 11 x.id

/-! ## `MMA` (R47, R170) -/

/-- Groups of 32, `n` at most. -/
def groups32 {α : Type} : Nat → List α → List (List α)
  | 0, _ => []
  | n + 1, l => l.take 32 :: groups32 n (l.drop 32)

/-- The exact sums of one group of K for every column: elements of A against rows of B. An exact zero is +0. -/
def groupSums (as : List Num) (rows : List (List Num)) (n : Nat) : List Num :=
  (as.zip rows).foldl (fun ss p => (ss.zip p.2).map fun q => (Num.add .rne q.1 (p.1.mul q.2).1).1) (List.replicate n .zero)

/-- acc := rne32(acc + rne32(pb)). -/
def accAdd (x pb : Num) : Num := (f32.rn (Num.add .rne x (f32.rn pb).1).1).1

/-- Value of an accumulator element for a float A-step. An `i32` element that is not 0 has no stated value there: a free value
(log 9). -/
def accFloat (free : Nat) : AccVal → Num
  | .f b => f32.decode b.toNat
  | .i b => if b = 0 then .zero else f32.decode ((Config.freeWord free).toNat % 2 ^ 32)

/-- Value of an accumulator element for an `i8` A-step; a float one that is not +0 has no stated value there. -/
def accInt (free : Nat) : AccVal → BitVec 32
  | .i b => b
  | .f b => if b = 0 then 0 else (Config.freeWord free).setWidth 32

/-- One accumulator row of a float A-step over all of K. -/
def mmaFloat (xs : List Num) (as : List Num) (rows : List (List Num)) (n : Nat) : List Num :=
  ((groups32 8 as).zip (groups32 8 rows)).foldl (fun acc g =>
    (acc.zip (groupSums g.1 g.2 n)).map fun p => accAdd p.1 p.2) xs

/-- One accumulator row of an `i8` A-step. -/
def mmaInt (xs : List (BitVec 32)) (as : List Num) (rows : List (List Num)) (n : Nat) : List (BitVec 32) :=
  (xs.zip (groupSums as rows n)).map fun p =>
    p.1 + BitVec.ofInt 32 (match p.2.toInt .rne with
      | some v => v.1
      | none => 0)

/-- A row of the accumulator context; one that nothing has written is +0. -/
def Ctx.accRow (c : Ctx) (a : Nat) : List AccVal := assocGet (List.replicate 256 (.f 0)) c.acc a

/-- Replace columns from `b0` of an accumulator row. -/
def Ctx.setAcc (c : Ctx) (a b0 : Nat) (xs : List AccVal) : Ctx :=
  { c with acc := assocSet c.acc a ((c.accRow a).take b0 ++ xs ++ (c.accRow a).drop (b0 + xs.length)) }

/-- Free-value index of an accumulator element. -/
def accFree (free a n : Nat) : Nat := free + 2 ^ 32 + a * 256 + n

/-- The old elements of an accumulator row from column `b0`, `n` of them, with their free-value index. -/
def accOld (c : Ctx) (free a b0 n : Nat) : List (AccVal × Nat) :=
  (((c.accRow a).drop b0).take n).zip ((List.range n).map fun k => accFree free a (b0 + k))

/-- One row of an A-step. -/
def stepRow (c : Ctx) (free a b0 n : Nat) (z ints : Bool) (as : List Num) (rows : List (List Num)) : Ctx :=
  if ints then
    let xs := if z then List.replicate n 0 else (accOld c free a b0 n).map fun p => accInt p.2 p.1
    c.setAcc a b0 ((mmaInt xs as rows n).map .i)
  else
    let xs := if z then List.replicate n .zero else (accOld c free a b0 n).map fun p => accFloat p.2 p.1
    c.setAcc a b0 ((mmaFloat xs as rows n).map fun x => .f (BitVec.ofNat 32 (f32.result .rne false x).1))

/-- Rows of A from `r`, one A-step: `n` of them are left, `a` the accumulator row. -/
def stepRows (c : Ctx) (free a b0 nc : Nat) (z ints : Bool) (rows : List (List Num)) : List (List Num) → Ctx
  | [] => c
  | as :: l => stepRows (stepRow c free a b0 nc z ints as rows) free (a + 1) b0 nc z ints rows l

/-- Clear a status entry (R32). -/
def Ctx.clearStatus (c : Ctx) (a : Nat) : Ctx := { c with status := c.status.set (a / 8 % 32) 0 (Nat.mod_lt _ (by decide)) }

/-- The eight A rows of a command. -/
def aRows (x : Handle) (f : Fin 16) (sv : Nat) : List (List Num) :=
  (List.range 8).map fun i => x.values f (svRow sv + i) (svCol sv) 256

/-- Does a slot accept an A format (Table 8.3)? -/
def slotAccepts (slot a : Fin 16) : Bool :=
  if a = 14 ∨ a = 15 then decide (slot = 14 ∨ slot = 15) else decide (a = slot) && decide (a = 1 ∨ a = 9)

/-- `MMA` (R170). -/
def runMma (c : Ctx) (free : Nat) (x : Handle) (f : Fin 16) (sv : Nat) (z k : Bool) : Got Ctx :=
  if !rowValueOk x f sv true true then aFault 10 x.id
  else
    match (if k then c.slot1 else c.slot0) with
    | none => aFault 12 x.id
    | some b =>
      if !slotAccepts b.fmt f then aFault 11 x.id
      else
        let a := svRow sv % 256
        let c1 := if z then c.clearStatus a else c
        .ok (stepRows c1 free a (if b.fmt = 9 && k then 128 else 0) (slotCols b.fmt) z (decide (f = 1)) b.vals (aRows x f sv))

/-- `MMA3` (R49, R171). With z it clears the status entry as `MMA` does, which R32 and R170 say of `MMA` alone (DESIGN CHOICE, log 93). -/
def runMma3 (c : Ctx) (free : Nat) (x : Handle) (f : Fin 16) (sv : Nat) (z : Bool) : Got Ctx :=
  if !rowValueOk x f sv true true then aFault 10 x.id
  else
    match c.slot0, c.slot1 with
    | some hi, some lo =>
      if f ≠ 10 ∨ !hi.pair ∨ !lo.pair then aFault 11 x.id
      else
        let a := svRow sv % 256
        let rows := aRows x f sv
        let c1 := if z then c.clearStatus a else c
        let c2 := stepRows c1 free a 0 128 z false hi.vals (rows.map fun l => l.map splitLo)
        let c3 := stepRows c2 free a 0 128 false false lo.vals (rows.map fun l => l.map splitHi)
        .ok (stepRows c3 free a 0 128 false false hi.vals (rows.map fun l => l.map splitHi))
    | _, _ => aFault 11 x.id

/-! ## Setting words (R173) -/

/-- `DBIAS`. -/
def runDbias (c : Ctx) (x : Handle) (f : Fin 16) (sv : Nat) : Got Ctx :=
  if !rowValueOk x f sv false false then aFault 10 x.id
  else if f ≠ 10 ∨ x.cols < 256 then aFault 11 x.id
  else .ok { c with drain := { c.drain with bias := (List.range 256).map fun e => x.f32At (svRow sv) e } }

/-- `DACT`. -/
def runDact (c : Ctx) (x : Handle) (f : Fin 16) (sv : Nat) : Got Ctx :=
  if !rowValueOk x f sv false false then aFault 10 x.id
  else if f ≠ 10 ∨ x.cols % 3 ≠ 0 ∨ x.cols < 3 ∨ 192 < x.cols then aFault 11 x.id
  else
    let e (i : Nat) : BitVec 32 := x.f32At (svRow sv) i
    .ok { c with drain := { c.drain with act := (List.range (x.cols / 3)).map fun j => (e (3 * j), e (3 * j + 1), e (3 * j + 2)) } }

/-- `DCLAMP`. -/
def runDclamp (c : Ctx) (x : Handle) (f : Fin 16) (sv : Nat) : Got Ctx :=
  let lo := x.f32At (svRow sv) 0
  let hi := x.f32At (svRow sv) 1
  let l := f32.decode lo.toNat
  let h := f32.decode hi.toNat
  if !rowValueOk x f sv false false then aFault 10 x.id
  else if f ≠ 10 ∨ l.isNan ∨ h.isNan ∨ h.lt l then aFault 11 x.id
  else .ok { c with drain := { c.drain with clo := lo, chi := hi } }

/-- `DTT`. -/
def runDtt (c : Ctx) (sv : Nat) : Ctx :=
  { c with drain := { c.drain with tt := if bitN sv 12 then none else some ⟨sv % 4096, Nat.mod_lt _ (by decide)⟩ } }

/-! ## The drain chain (R174, R175) -/

/-- Exact value of an accumulator element. -/
def accNum : AccVal → Num
  | .f b => f32.decode b.toNat
  | .i b => numOfInt b.toInt

def AccVal.isInt : AccVal → Bool
  | .f _ => false
  | .i _ => true

/-- Round into binary32, adding flags. -/
def rne32 (x : Num × FFlags) : Num × FFlags :=
  let r := f32.rn x.1
  (r.1, x.2 ||| r.2)

/-- Highest segment whose `lo` is at most `x`, from segment `j` on; `best` so far. -/
def actSegment (x : Num) (best : Nat) (j : Nat) : List (BitVec 32 × BitVec 32 × BitVec 32) → Nat
  | [] => best
  | s :: l =>
    let lo := f32.decode s.1.toNat
    actSegment x (if !lo.isNan && !x.isNan && !x.lt lo then j else best) (j + 1) l

/-- `bias` and `act` of the chain on the element of a column. -/
def chainElem (r : DrainRegs) (fn : BitVec 4) (col : Nat) (a : AccVal) : Num × FFlags :=
  let x0 := accNum a
  let x1 := if fn.getLsbD 0 then rne32 (Num.add .rne x0 (f32.decode (r.bias.getD col 0).toNat)) else (x0, fNone)
  if fn.getLsbD 1 then
    let s := r.act.getD (actSegment x1.1 0 0 r.act) (0, 0, 0)
    let y := rne32 (Num.fma .rne (f32.decode s.2.1.toNat) x1.1 (f32.decode s.2.2.toNat))
    (y.1, x1.2 ||| y.2)
  else x1

/-- Status bits of a value (R175): never from an integer accumulator. -/
def statusOf (a : AccVal) (x : Num) : BitVec 4 :=
  if a.isInt then 0
  else
    match x with
    | .nan _ => 1
    | .inf n => if n then 4 else 2
    | .fin _ _ _ => 0

/-- sat(y, clo, chi), of a y that is no NaN; a NaN is kept. -/
def clampTo (r : DrainRegs) (y : Num) : Num :=
  let lo := f32.decode r.clo.toNat
  let hi := f32.decode r.chi.toNat
  if y.isNan then y else if y.lt lo then lo else if hi.lt y then hi else y

/-- A drained row: its bytes, flags and status bits. `cols`: the accumulator columns; `old`: the destination's values (`acc`). -/
def drainRow (c : Ctx) (fn : BitVec 4) (a col n : Nat) (f : Fin 16) (split : Nat) (k : Int) (satfp : Bool) (old : List Num) :
    List Byte × FFlags × BitVec 4 :=
  let as := ((c.accRow a).drop col).take n
  let xs := (as.zip (List.range n)).map fun p => (p.1, chainElem c.drain fn (col + p.2) p.1)
  let fl := xs.foldl (fun g x => g ||| x.2.2) fNone
  let st := xs.foldl (fun g x => g ||| statusOf x.1 x.2.1) 0
  if fn.getLsbD 3 then
    let ys := (old.zip xs).map fun p => rne32 (Num.add .rne p.1 p.2.2.1)
    ((ys.flatMap fun y => leBytes 4 (f32.result .rne false (clampTo c.drain y.1)).1),
      ys.foldl (fun g y => g ||| y.2) fl, st)
  else if fn.getLsbD 2 then
    let b := numsRow f split satfp false (xs.map fun x => scaled 10 f k x.2.1)
    (b.1, fl ||| b.2, if b.2 &&& fOF = 0 then st else st ||| 8)
  else
    let ys := xs.map fun x => f32.result .rne false x.2.1
    (ys.flatMap fun y => leBytes 4 y.1, ys.foldl (fun g y => g ||| y.2) fl, st)

/-- The status entry of an accumulator row. -/
def statusEntry (a : Nat) : Fin 32 := ⟨a / 8 % 32, Nat.mod_lt _ (by decide)⟩

/-- Drain rows `i` on of a `DRAIN`, `left` of them: the handle, flags and status bits. -/
def drainRows (c : Ctx) (fn : BitVec 4) (x : Handle) (f : Fin 16) (split : Nat) (k : Int) (satfp : Bool) (sv i : Nat)
    (fl : FFlags) (st : BitVec 4) : Nat → Handle × FFlags × BitVec 4
  | 0 => (x, fl, st)
  | left + 1 =>
    let n := min 256 (x.cols - svCol sv)
    let b := drainRow c fn (svRow sv % 256 + i) 0 n f split k satfp (x.values f (svRow sv + i) (svCol sv) n)
    let y := if svRow sv + i < x.rows then x.store (svRow sv + i) (colBytes f (svCol sv)) b.1 else x
    drainRows c fn y f split k satfp sv (i + 1) (fl ||| b.2.1) (st ||| b.2.2) left

/-- What an A command leaves: the state, its flags, the status bits it sets at completion. -/
abbrev ARan := State × FFlags × List (Fin 32 × BitVec 4)

/-- `DRAIN` (R174). -/
def runDrain (s : State) (c : Ctx) (w : Who) (satfp : Bool) (x : Handle) (f : Fin 16) (sv : Nat) (fn : BitVec 4) : Got ARan :=
  if !rowValueOk x f sv true true then aFault 10 x.id
  else if f ≠ 10 && (fn.getLsbD 3 || !fn.getLsbD 2) then aFault 11 x.id
  else
    (match c.drain.tt with
      | some e => if fn.getLsbD 2 && isBx f then tableExp s c w x.id.val e.val else .ok (0, s)
      | none => .ok (0, s)).bind fun q =>
      let r := drainRows c fn x f (handleSplit s c x).val q.1 satfp sv 0 fNone 0 8
      .ok (q.2.putCtx (c.putHandle r.1), r.2.1, [(statusEntry (svRow sv % 256), r.2.2)])

/-! ## A commands at the head of their queue -/

/-- The tile handle of an A command; one that is gone is check 10 again. -/
def tileOf {α : Type} (c : Ctx) (h : HId) (f : Handle → Got α) : Got α :=
  match c.handle h with
  | some x => if x.kind = .tile then f x else .fail 5 h.val 0
  | none => .fail 5 h.val 0

/-- Run an A command of a G-core, but `DRAINM`, the leases, the status reads and the macros. -/
def runArray (s : State) (c : Ctx) (w : Who) (satfp : Bool) (i : Instr) (sv : Nat) : Got ARan :=
  let ctx (g : Got Ctx) : Got ARan := g.bind fun d => .ok (s.putCtx d, fNone, [])
  match i with
  | .bload _ h _ k => tileOf c h fun x => ctx (runBload c x (handleFmt s c x) sv k)
  | .mma _ h _ z k => tileOf c h fun x => ctx (runMma c s.free x (handleFmt s c x) sv z k)
  | .mma3 _ h _ z => tileOf c h fun x => ctx (runMma3 c s.free x (handleFmt s c x) sv z)
  | .drain _ h _ fn => tileOf c h fun x => runDrain s c w satfp x (handleFmt s c x) sv fn
  | .dbias _ h _ => tileOf c h fun x => ctx (runDbias c x (handleFmt s c x) sv)
  | .dact _ h _ => tileOf c h fun x => ctx (runDact c x (handleFmt s c x) sv)
  | .dclamp _ h _ => tileOf c h fun x => ctx (runDclamp c x (handleFmt s c x) sv)
  | .dtt _ _ => .ok (s.putCtx (runDtt c sv), fNone, [])
  | _ => .ok (s, fNone, [])

/-! ## `DRAINM` (R176, R177) -/

/-- A `DRAINM` ready to run: first accumulator row and column, counts, destination, its format and `split`, scale. -/
structure MDrain where
  a : Nat
  col : Nat
  rows : Nat
  cols : Nat
  dst : Side
  fmt : Fin 16
  split : Nat
  k : Int

/-- Set a `DRAINM` up from its record. Rows that pass accumulator row 255 break it too, for which R176 names no outcome (DESIGN CHOICE, log
93). -/
def mdrainSetup (s : State) (c : Ctx) (w : Who) (h : HId) (fn : BitVec 4) (r : DataRec) : Got (MDrain × State) :=
  match r.src with
  | .mem _ => fault8 h
  | .hnd g arow =>
    if g ≠ 0 ∨ r.xpose ∨ 8 < r.rows ∨ 256 < r.hcol + r.cols ∨ 256 < arow + r.rows then fault8 h
    else
      let mk (d : Side × Fin 16) (split : Nat) (k : Int) : MDrain := ⟨arow, r.hcol, r.rows, r.cols, d.1, d.2, split, k⟩
      let fmtOk (f : Fin 16) : Bool := decide (f = 10) || (fn.getLsbD 2 && !fn.getLsbD 3)
      match r.dst with
      | .hnd y row =>
        match handleSide s c y row 0 r.hcol r.rows r.cols none with
        | some d => if fmtOk d.2 then
            .ok (mk d (match c.handle y with
              | some z => (handleSplit s c z).val
              | none => 3) 0, s) else fault8 h
        | none => fault8 h
      | .mem va =>
        (readLayout s c w h r).bind fun q =>
          match q.1 with
          | none => fault8 h
          | some l =>
            match memSide va 0 l r.cols with
            | none => fault8 h
            | some d =>
              if !fmtOk d.2 then fault8 h
              else
                match l.tt with
                | some e => if fn.getLsbD 2 && isBx d.2 then
                    (tableExp q.2 c w h.val e).bind fun z => .ok (mk d l.split z.1, z.2)
                  else .ok (mk d l.split 0, q.2)
                | none => .ok (mk d l.split 0, q.2)

/-- Addresses of the elements of a memory row, and bytes of each; a BX row is one element. -/
def mrowElems (f : Fin 16) (cols va : Nat) : List Nat × Nat :=
  if isBx f then ([va], rowBytes f cols) else (elemAddrs (ewidth f) va cols, ewidth f)

/-- What a row of a `DRAINM` did: it is written; it stands at an element with a trap, with the values that its elements held before; or it waits
for an HBM stack. -/
inductive MRow where
  | ok (s : State) (fl : FFlags) (st : BitVec 4)
  | trap (s : State) (elems : Nat) (olds : List Byte) (code detail eaddr : Nat)
  | stall

/-- The answer of an access as the end of a row that has written nothing. -/
def mrowOf (s : State) (n : Nat) (olds : List Byte) (g : Got (State × FFlags × BitVec 4)) : MRow :=
  match g with
  | .ok q => .ok q.1 q.2.1 q.2.2
  | .fail a b e => .trap s n olds a b e
  | .stall => .stall

/-- A row into memory outside every D-region: one store, or one atomic pair with `acc` (R177). -/
def mrowPlain (s : State) (c : Ctx) (w : Who) (fn : BitVec 4) (m : MDrain) (satfp : Bool) (i va : Nat) :
    Got (State × FFlags × BitVec 4) :=
  let out (old : List Byte) : List Byte × FFlags × BitVec 4 :=
    drainRow c fn (m.a + i) m.col m.cols m.fmt m.split m.k satfp (rowNums m.fmt m.cols old)
  if fn.getLsbD 3 then
    (atomicVirt s w va (rowBytes m.fmt m.cols) fun old => some (out old).1).bind fun q => .ok (q.2, (out q.1).2)
  else
    (storeVirt s w .store false va (out []).1).bind fun t => .ok (t, (out []).2)

/-- A record-mode write of one element by an atomic pair (R199, R228): its checks, its push, then the pair. -/
def accElem (s : State) (x : CtxId) (w : Who) (r : DRegion) (a : Nat) (bs : List Byte) : Got State :=
  if a % dtSize r.type ≠ 0 then .fail 3 0 a
  else
    let u := { w with clk := Clock.join w.clk (atomAcquire s w a bs.length) }
    (checkAccess s.mem s.hub s.free u .atomic false a bs.length).bind fun q =>
      (pushTape (s.setMem q.1) x u (leValue (readPieces q.1 u .probe q.2).1) (dtWidthCode r.type) a).bind fun t =>
        (atomicVirt t (w.fresh t) a bs.length fun _ => some bs).bind fun z => .ok z.2

/-- Write the elements of a row with `acc` in order, each an atomic pair, inverted ones with their pushes. -/
def accRow (s : State) (x : CtxId) (w : Who) (n : Nat) : List (Option DRegion × Nat × List Byte) → State × Nat × Got Unit
  | [] => (s, n, .ok ())
  | e :: es =>
    match (match e.1 with
      | some r => accElem s x (w.fresh s) r e.2.1 e.2.2
      | none => (atomicVirt s (w.fresh s) e.2.1 e.2.2.length fun _ => some e.2.2).bind fun z => .ok z.2) with
    | .ok u => accRow u x w (n + 1) es
    | .fail c d a => (s, n, .fail c d a)
    | .stall => (s, n, .stall)

/-- A record-mode row with elements in a D-region, from element `n` on (R199, R275): pushes, then the writes. The elements before it count
with the values that they held before they were accumulated, so flags and status are those of the row. -/
def mrowRecord (s : State) (c : Ctx) (w : Who) (fn : BitVec 4) (m : MDrain) (satfp : Bool) (i va n : Nat) (olds : List Byte)
    (as : List Nat) (ks : List (Option DRegion)) : MRow :=
  match (if fn.getLsbD 3 then loadVirt s w .probe false va (rowBytes m.fmt m.cols) else .ok ([], s)) with
  | .fail a b e => .trap s n olds a b e
  | .stall => .stall
  | .ok q =>
    let k := ewidth m.fmt
    let old := olds.take (n * k) ++ q.1.drop (n * k)
    let b := drainRow c fn (m.a + i) m.col m.cols m.fmt m.split m.k satfp (rowNums m.fmt m.cols old)
    let ws := ((ks.zip ((List.range as.length).zip as)).map fun p => (p.1, p.2.2, (b.1.drop (p.2.1 * k)).take k)).drop n
    match (if fn.getLsbD 3 then accRow q.2 c.id w n ws else recordRow q.2 c.id w n ws) with
    | (t, _, .ok ()) => .ok t b.2.1 b.2.2
    | (t, j, .fail a b e) => .trap t j old a b e
    | (_, _, .stall) => .stall

/-- A reverse-mode row with elements in a D-region: their records are popped, and the accumulator's elements take the adjoints (Table 9.10,
log 34); the plain ones are stored. -/
def mrowPop (s : State) (c : Ctx) (w : Who) (fn : BitVec 4) (m : MDrain) (satfp : Bool) (i : Nat) (as : List Nat)
    (ks : List (Option DRegion)) : Got (State × FFlags × BitVec 4) :=
  let ps := plainElems ks as
  let b := drainRow c fn (m.a + i) m.col m.cols m.fmt m.split m.k satfp []
  (checkElemsAt s w .store (ewidth m.fmt) ps).bind fun t =>
    (popBlock t c.id w (dElems ks as)).bind fun q =>
      (storeElems q.2 w (ewidth m.fmt) b.1 ps).bind fun u =>
        let xs := ((dElems ks as).zip q.1).map fun p => f32.convert .rne false (adjNum p.1.1 p.2)
        let fl := xs.foldl (fun f x => f ||| x.2) fNone
        .ok (u.mapCtx c.id fun d => ((invNums ks).zip xs).foldl (fun d p =>
            d.setAcc (m.a + i) (m.col + p.1) [.f (BitVec.ofNat 32 p.2.1)]) d,
          fl ||| (if ps = [] then fNone else b.2.1), if ps = [] then 0 else b.2.2)

/-- The elements of memory row `i` of a `DRAINM`, and what they are. -/
def mrowKinds (c : Ctx) (m : MDrain) (i : Nat) : List Nat × Except Nat (List (Option DRegion)) :=
  match m.dst with
  | .hnd _ _ _ => ([], .ok [])
  | .mem va pitch =>
    let e := mrowElems m.fmt m.cols ((va + i * pitch) % 2 ^ 64)
    (e.1, rowKind c true e.2 e.1)

/-- Row `i` of a `DRAINM`, from element `n` on. -/
def mdrainRow (s : State) (c : Ctx) (w : Who) (fn : BitVec 4) (m : MDrain) (satfp : Bool) (i n : Nat) (olds : List Byte) : MRow :=
  match m.dst with
  | .hnd h row col =>
    (match c.handle h with
    | none => .ok s fNone 0
    | some x =>
      let b := drainRow c fn (m.a + i) m.col m.cols m.fmt m.split m.k satfp (x.values m.fmt (row + i) col m.cols)
      .ok (s.putCtx (c.putHandle (x.store (row + i) (colBytes m.fmt col) b.1))) b.2.1 b.2.2)
  | .mem va0 pitch =>
    let va := (va0 + i * pitch) % 2 ^ 64
    let plain := mrowOf s n olds (mrowPlain s c (w.fresh s) fn m satfp i va)
    if c.dmode = 0 then plain
    else
      match mrowKinds c m i with
      | (_, .error d) => .trap s n olds 7 d 0
      | (as, .ok ks) =>
        match dElems ks as with
        | [] => plain
        | el :: _ =>
          if c.dmode = 1 then mrowRecord s c w fn m satfp i va n olds as ks
          else if fn.getLsbD 3 then .trap s n olds 7 el.1.idx.val 0
          else mrowOf s n olds (mrowPop s c w fn m satfp i as ks)

/-- The row that a `DRAINM` takes up after `i` others: in reverse mode one with elements in a D-region goes from its last row to its first, as
an S copy does (R270). -/
def mdrainAt (c : Ctx) (m : MDrain) (i : Nat) : Nat :=
  if c.dmode == 2 && !((List.range m.rows).all fun j => match (mrowKinds c m j).2 with
      | .ok ks => allPlain ks
      | .error _ => false) then m.rows - 1 - i else i

/-- How a `DRAINM` ends: done; at a row and an element with a trap; or it waits. With its flags and status bits. -/
inductive MRan where
  | ok (s : State) (fl : FFlags) (st : List (Fin 32 × BitVec 4))
  | trap (s : State) (rows elems : Nat) (olds : List Byte) (fl : FFlags) (st : List (Fin 32 × BitVec 4)) (code detail eaddr : Nat)
  | stall

/-- Run the rows of a `DRAINM` from row `i`, element `n`; `left` rows at most. They are performed in one step: whether the rows of two such
commands may come between one another R177 leaves open (log 109). -/
def mdrainRows (s : State) (x : CtxId) (w : Who) (fn : BitVec 4) (m : MDrain) (satfp : Bool) (i n : Nat) (olds : List Byte) (fl : FFlags)
    (st : List (Fin 32 × BitVec 4)) : Nat → MRan
  | 0 => .ok s fl st
  | left + 1 =>
    match s.ctx x with
    | none => .ok s fl st
    | some c =>
      match mdrainRow s c w fn m satfp (mdrainAt c m i) n olds with
      | .ok t f b => mdrainRows t x w fn m satfp (i + 1) 0 [] (fl ||| f) (st ++ [(statusEntry (m.a + mdrainAt c m i), b)]) left
      | .trap t k o a b e => .trap t i k o fl st a b e
      | .stall => .stall

/-- Run a `DRAINM` of a command from a resume point: row `i`, element `n`. The arrival at its cell comes last (R146). -/
def runDrainm (s : State) (c : Ctx) (d : Cmd) (h : HId) (fn : BitVec 4) (sv i n : Nat) (olds : List Byte) : MRan :=
  let w := whoCmd s c d
  let trap (a b e : Nat) : MRan := .trap s i n olds fNone [] a b e
  match c.handle h with
  | none => trap 5 h.val 0
  | some y =>
    if y.kind ≠ .chain then trap 5 h.val 0
    else if y.rows ≤ svRow sv then trap 5 (10 * 256 + h.val) 0
    else
      match dataRec c.card false (recordAt y (svRow sv)) with
      | none => trap 5 (8 * 256 + h.val) 0
      | some r =>
        match mdrainSetup s c w h fn r with
        | .fail a b e => trap a b e
        | .stall => .stall
        | .ok q =>
          match mdrainRows q.2 c.id w fn q.1 (c.stream d.src).satfp i n olds fNone [] (r.rows - i) with
          | .ok t fl st =>
            if r.arv then
              (match recordArrive t c.id (((t.ctx c.id).bind fun x => x.cmd d.seq).getD d) r with
              | .ok z => .ok (z.1.putCmd c.id z.2) fl st
              | .fail a b e => .trap t r.rows 0 [] fl st a b e
              | .stall => .stall)
            else .ok t fl st
          | z => z

/-! ## Words -/

/-- Issue an A word: check 10 of its handle, the array-bearing rule of R210, then the A queue. -/
def aBody (i : Instr) (hk : Option (HId × HKind)) (x : Option SReg) (sets : Nat → List RowSet × List RowSet) (paths : BitVec 5)
    (w : At) (t : State) : Res :=
  let v := match x with
    | some r => w.st.sreg r
    | none => 0
  let go : Res :=
    if !w.cx.card.arr then .trap t (protection i 19 0)
    else enqueue w t (w.cmd .A i v (sets v.toNat).1 (sets v.toNat).2 paths)
  match hk with
  | none => go
  | some hk =>
    match check10 w.cx hk.1 hk.2 0 with
    | none => .trap t (badHandle i hk.1)
    | some _ => go

/-- Rows from the first of a row value. -/
def svRows (h : HId) (n sv : Nat) : List RowSet := [⟨h, svRow sv, svRow sv + n - 1⟩]

/-- `LACQ` (R166). -/
def execLacq (g : Guard) (s : State) : Host.Outcome State Fault Refusal :=
  issue s (.lacq g) (aBody (.lacq g) none none (fun _ => ([], [])) 0)

/-- `LREL` (R166). -/
def execLrel (g : Guard) (s : State) : Host.Outcome State Fault Refusal :=
  issue s (.lrel g) (aBody (.lrel g) none none (fun _ => ([], [])) 0)

/-- `BLOAD` (R169). -/
def execBload (g : Guard) (h : HId) (x : SReg) (k : Bool) (s : State) : Host.Outcome State Fault Refusal :=
  issue s (.bload g h x k) (aBody (.bload g h x k) (some (h, .tile)) (some x) (fun v => (svRows h 256 v, [])) 0)

/-- `MMA` (R170). -/
def execMma (g : Guard) (h : HId) (x : SReg) (z k : Bool) (s : State) : Host.Outcome State Fault Refusal :=
  issue s (.mma g h x z k) (aBody (.mma g h x z k) (some (h, .tile)) (some x) (fun v => (svRows h 8 v, [])) 0)

/-- `MMA3` (R171). -/
def execMma3 (g : Guard) (h : HId) (x : SReg) (z : Bool) (s : State) : Host.Outcome State Fault Refusal :=
  issue s (.mma3 g h x z) (aBody (.mma3 g h x z) (some (h, .tile)) (some x) (fun v => (svRows h 8 v, [])) 0)

/-- `DRAIN` (R174). -/
def execDrain (g : Guard) (h : HId) (x : SReg) (f : BitVec 4) (s : State) : Host.Outcome State Fault Refusal :=
  issue s (.drain g h x f) (aBody (.drain g h x f) (some (h, .tile)) (some x)
    (fun v => (if f.getLsbD 3 then svRows h 8 v else [], svRows h 8 v)) (onPath .scratch))

/-- `DBIAS` (R173). -/
def execDbias (g : Guard) (h : HId) (x : SReg) (s : State) : Host.Outcome State Fault Refusal :=
  issue s (.dbias g h x) (aBody (.dbias g h x) (some (h, .tile)) (some x) (fun v => (svRows h 1 v, [])) 0)

/-- `DACT` (R173). -/
def execDact (g : Guard) (h : HId) (x : SReg) (s : State) : Host.Outcome State Fault Refusal :=
  issue s (.dact g h x) (aBody (.dact g h x) (some (h, .tile)) (some x) (fun v => (svRows h 1 v, [])) 0)

/-- `DCLAMP` (R173). -/
def execDclamp (g : Guard) (h : HId) (x : SReg) (s : State) : Host.Outcome State Fault Refusal :=
  issue s (.dclamp g h x) (aBody (.dclamp g h x) (some (h, .tile)) (some x) (fun v => (svRows h 1 v, [])) 0)

/-- `DTT` (R173): bits [63:13] of its operand are zero. -/
def execDtt (g : Guard) (x : SReg) (s : State) : Host.Outcome State Fault Refusal :=
  issue s (.dtt g x) fun w t =>
    if (w.st.sreg x).toNat / 2 ^ 13 ≠ 0 then .trap t (illegal (.dtt g x) 7)
    else aBody (.dtt g x) none (some x) (fun _ => ([], [])) 0 w t

/-- `DRAINM` (R176): held at issue behind earlier commands that write its chain handle (R144). -/
def execDrainm (g : Guard) (h : HId) (x : SReg) (f : BitVec 4) (s : State) : Host.Outcome State Fault Refusal :=
  issue s (.drainm g h x f) fun w t =>
    match check10 w.cx h .chain 0 with
    | none => .trap t (badHandle (.drainm g h x f) h)
    | some y =>
      if !w.cx.card.arr then .trap t (protection (.drainm g h x f) 19 0)
      else if chainBusy w.cx w.seq h then .hold t
      else
        let r := drainmSets w.cx.card y (w.arg x).toNat (f.getLsbD 3)
        enqueue w t (w.cmd .A (.drainm g h x f) (w.arg x) r.1 r.2.1 r.2.2)

/-- A status read into a register (R178): its destination waits for it from issue on. -/
def statRead (i : Instr) (d : Dst) (w : At) (t : State) : Res :=
  if !w.cx.card.arr then .trap t (protection i 19 0)
  else
    enqueue { w with st := w.st.fly w.seq d 0 .statusRead } t (w.cmd .A i 0 [] [] 0)

/-- `STATS` (R178). -/
def execStats (g : Guard) (e : Fin 32) (d : SReg) (m : BitVec 4) (s : State) : Host.Outcome State Fault Refusal :=
  issue s (.stats g e d m) (statRead (.stats g e d m) (.s d))

/-- `STATC` (R178). -/
def execStatc (g : Guard) (e : Fin 32) (c : CSlot) (m : BitVec 4) (s : State) : Host.Outcome State Fault Refusal :=
  issue s (.statc g e c m) (statRead (.statc g e c m) (.c c))

/-- `STATG` (R178). -/
def execStatg (g : Guard) (e : Fin 32) (n : GSlot) (m : BitVec 4) (s : State) : Host.Outcome State Fault Refusal :=
  issue s (.statg g e n m) (aBody (.statg g e n m) none none (fun _ => ([], [])) 0)

end Sys2Proof.Machine
end

