-- ==== Sys2Proof/Machine/Transform.lean ====
section
/-! DEFINITION. The transform unit of an X-core: `PLAN`, `FFT`, `IFFT`, `SHTF`, `SHTI` (R50-R54, R179-R182). -/

namespace Sys2Proof.Machine

/-! ## Rounded complex arithmetic (R50, R51) -/

/-- A complex value: real and imaginary part. -/
abbrev Cx := Num × Num

/-- Round an exact result into a precision, adding flags. -/
def rnd (f : FloatFmt) (x : Num × FFlags) : Num × FFlags :=
  let r := f.rn x.1
  (r.1, x.2 ||| r.2)

def cAdd (f : FloatFmt) (a b : Cx) : Cx × FFlags :=
  let r := rnd f (Num.add .rne a.1 b.1)
  let i := rnd f (Num.add .rne a.2 b.2)
  ((r.1, i.1), r.2 ||| i.2)

def cSub (f : FloatFmt) (a b : Cx) : Cx × FFlags := cAdd f a (b.1.neg, b.2.neg)

/-- Multiply by ±i: components are exchanged and one negated, exactly. -/
def cTurn (inverse : Bool) (a : Cx) : Cx := if inverse then (a.2.neg, a.1) else (a.2, a.1.neg)

/-- Multiply by a twiddle (R50): (1, 0) leaves the value unchanged, ±i exchanges and negates. -/
def cMul (f : FloatFmt) (a w : Cx) : Cx × FFlags :=
  if w.2.isZero && w.1.eq (.fin false 1 0) then (a, fNone)
  else if w.1.isZero then (cTurn (!w.2.sign) a, fNone)
  else
    let t := rnd f (a.2.mul w.2)
    let re := rnd f (Num.fma .rne a.1 w.1 t.1.neg)
    let u := rnd f (a.2.mul w.1)
    let im := rnd f (Num.fma .rne a.1 w.2 u.1)
    ((re.1, im.1), t.2 ||| re.2 ||| u.2 ||| im.2)

/-- The twiddle of index `j` of `n` in a direction. -/
def twiddle (f : FloatFmt) (inverse : Bool) (j n : Nat) : Cx :=
  (cosConst f (j % n) n, if inverse then sinConst f (j % n) n else (sinConst f (j % n) n).neg)

/-- Point `i` of a list. -/
def ptAt (l : List Cx) (i : Nat) : Cx := l.getD i (.zero, .zero)

def radix2 (f : FloatFmt) (a b : Cx) : (Cx × Cx) × FFlags :=
  let s := cAdd f a b
  let d := cSub f a b
  ((s.1, d.1), s.2 ||| d.2)

def radix4 (f : FloatFmt) (inverse : Bool) (x : List Cx) : List Cx × FFlags :=
  let p := radix2 f (ptAt x 0) (ptAt x 2)
  let q := radix2 f (ptAt x 1) (ptAt x 3)
  let m := cTurn inverse q.1.2
  let y := radix2 f p.1.1 q.1.1
  let z := radix2 f p.1.2 m
  ([y.1.1, z.1.1, y.1.2, z.1.2], p.2 ||| q.2 ||| y.2 ||| z.2)

def radix8 (f : FloatFmt) (inverse : Bool) (x : List Cx) : List Cx × FFlags :=
  let ps := (List.range 4).map fun j => radix2 f (ptAt x j) (ptAt x (j + 4))
  let od := (ps.zip (List.range 4)).map fun p => cMul f p.1.1.2 (twiddle f inverse p.2 8)
  let e := radix4 f inverse (ps.map fun p => p.1.1)
  let o := radix4 f inverse (od.map fun p => p.1)
  ((List.range 4).flatMap fun k => [ptAt e.1 k, ptAt o.1 k],
    od.foldl (fun g p => g ||| p.2) (ps.foldl (fun g p => g ||| p.2) (e.2 ||| o.2)))

/-- One output of a radix 3, 5 or 7 butterfly. -/
def radixOddOut (f : FloatFmt) (inverse : Bool) (r : Nat) (x : List Cx) (k : Nat) : Cx × FFlags :=
  (List.range (r - 1)).foldl (fun y j =>
    let t := cMul f (ptAt x (j + 1)) (twiddle f inverse ((j + 1) * k) r)
    let s := cAdd f y.1 t.1
    (s.1, y.2 ||| t.2 ||| s.2)) (ptAt x 0, fNone)

/-- A butterfly (R51). -/
def butterfly (f : FloatFmt) (inverse : Bool) (r : Nat) (x : List Cx) : List Cx × FFlags :=
  match r with
  | 2 => let p := radix2 f (ptAt x 0) (ptAt x 1); ([p.1.1, p.1.2], p.2)
  | 4 => radix4 f inverse x
  | 8 => radix8 f inverse x
  | _ =>
    let os := (List.range r).map (radixOddOut f inverse r x)
    (os.map fun o => o.1, os.foldl (fun g o => g ||| o.2) fNone)

/-! ## Plans (Table 8.6) -/

/-- A plan, decoded. -/
inductive PlanDesc where
  | fft (n : Nat) (radices : List Nat) (wide : Bool) (scale : Option Num) (batch estride bstride : Nat)
  | sht (l m j : Nat) (wide : Bool) (nh : HId) (nrow : Nat) (oh : HId) (orow : Nat)

/-- The radix of a stage code; 0 for none, and for the reserved code. -/
def radixOf : Nat → Nat
  | 1 => 2 | 2 => 3 | 3 => 4 | 4 => 5 | 5 => 7 | 6 => 8 | _ => 0

/-- The radices of the stages, up to the first 0; none where a code is reserved or a field after the first 0 is not 0. -/
def stagesOf (v : Nat) : Nat → Option (List Nat)
  | 0 => some []
  | n + 1 =>
    if v % 8 = 0 then (if v = 0 then some [] else none)
    else if radixOf (v % 8) = 0 then none
    else (stagesOf (v / 8) n).map fun l => radixOf (v % 8) :: l

/-- The precision of a plan. -/
def precOf (wide : Bool) : FloatFmt := if wide then f64 else f32

/-- The format code of its data banks. -/
def precFmt (wide : Bool) : Fin 16 := if wide then 11 else 10

/-- The scale factor of an FFT plan (R52). -/
def planScale (v n : Nat) (wide : Bool) : Option Num :=
  match bitsN v 7 6 with
  | 1 => some ((precOf wide).rn (Num.div 64 (.fin false 1 0) (numOfInt n)).1).1
  | 2 => some (if wide then f64.decode (bitsN v 255 192) else f32.decode (bitsN v 223 192))
  | _ => none

/-- Decode a plan descriptor; none where it breaks Table 8.6. -/
def planOf (v : Nat) : Option PlanDesc :=
  let wide := bitN v 5
  if bitN v 4 then none
  else
    match bitsN v 3 0 with
    | 0 =>
      let n := bitsN v 79 64 + 1
      if bitsN v 7 6 = 3 ∨ bitsN v 63 8 ≠ 0 ∨ n < 2 ∨ (!wide && bitsN v 255 224 != 0) then none
      else
        (stagesOf (bitsN v 127 80) 16).bind fun rs =>
          let es := if bitsN v 159 144 = 0 then 1 else bitsN v 159 144
          let bs := if bitsN v 191 160 = 0 then n * es else bitsN v 191 160
          if rs.foldl (· * ·) 1 = n then some (.fft n rs wide (planScale v n wide) (bitsN v 143 128 + 1) es bs) else none
    | 1 =>
      if bitsN v 255 74 ≠ 0 ∨ bitsN v 7 6 ≠ 0 ∨ bitsN v 17 8 < bitsN v 27 18 then none
      else some (.sht (bitsN v 17 8) (bitsN v 27 18) (bitsN v 39 28 + 1) wide
        ⟨bitsN v 47 40, Nat.mod_lt _ (by decide)⟩ (bitsN v 56 48) ⟨bitsN v 64 57, Nat.mod_lt _ (by decide)⟩ (bitsN v 73 65))
    | _ => none

/-- Twiddles that a plan needs. -/
def PlanDesc.twiddles : PlanDesc → Nat
  | .fft n .. => n
  | .sht .. => 0

/-- Twiddles that the loaded plans hold. -/
def twiddlesUsed (c : Ctx) : Nat := c.plans.toList.foldl (fun n p => n + (p.map fun q => q.twiddles).getD 0) 0

/-- What a loaded slot holds. -/
def Ctx.plan (c : Ctx) (k : Fin 16) : Option PlanDesc := (c.plans.get k).bind fun p => planOf (leValue p.desc)

/-- `PLAN` (R179): the context it leaves, also where it traps: the slot's earlier plan is gone then, also where the row is too short for a
descriptor (log 102). -/
def runPlan (c : Ctx) (x : Handle) (f : Fin 16) (sv : Nat) (k : Fin 16) : Ctx × Got Unit :=
  let c0 := { c with plans := c.plans.set k.val none k.isLt }
  if !rowValueOk x f sv false true then (c, aFault 10 x.id)
  else if rowBytes f x.cols < 32 then (c0, aFault 13 x.id)
  else
    let bs := x.bytes (svRow sv) 0 32
    match planOf (leValue bs) with
    | none => (c0, aFault 13 x.id)
    | some p =>
      if 65536 < twiddlesUsed c0 + p.twiddles then (c0, aFault 14 x.id)
      else ({ c0 with plans := c0.plans.set k.val (some ⟨bs, p.twiddles⟩) k.isLt }, .ok ())

/-! ## Elements of a handle from a row (R180) -/

/-- Does a handle hold `n` elements from row `r`? -/
def holds (x : Handle) (r n : Nat) : Bool := decide (n ≤ (x.rows - r) * x.cols)

/-- Value of element `e` from row `r`. -/
def elemFrom (x : Handle) (f : Fin 16) (r e : Nat) : Num := x.num f (r + e / x.cols) (e % x.cols)

/-- Complex point `q`. -/
def pointFrom (x : Handle) (f : Fin 16) (r q : Nat) : Cx := (elemFrom x f r (2 * q), elemFrom x f r (2 * q + 1))

/-- Store element `e`. -/
def storeElem (x : Handle) (f : Fin 16) (g : FloatFmt) (r e : Nat) (v : Num) : Handle :=
  x.putRaw f (r + e / x.cols) (e % x.cols) (g.result .rne false v).1

/-- Store complex points at their places. -/
def storePoints (x : Handle) (f : Fin 16) (g : FloatFmt) (r : Nat) (l : List (Nat × Cx)) : Handle :=
  l.foldl (fun y p => storeElem (storeElem y f g r (2 * p.1) p.2.1) f g r (2 * p.1 + 1) p.2.2) x

/-! ## `FFT` and `IFFT` (R180) -/

/-- One stage: points, `L`, `m` before it. -/
def fftStage (f : FloatFmt) (inverse : Bool) (n rd l m : Nat) (y : Array Cx) : Array Cx × FFlags :=
  let m2 := m / rd
  ((List.range l).flatMap fun t => (List.range m2).map fun c => (t, c)).foldl (fun z p =>
    let a := (List.range rd).map fun pp =>
      cMul f (y.getD (p.2 + m2 * pp + m * p.1) (.zero, .zero)) (twiddle f inverse (pp * p.1 * m2) n)
    let b := butterfly f inverse rd (a.map fun q => q.1)
    ((List.range rd).foldl (fun w q => w.setIfInBounds (p.2 + m2 * (p.1 + l * q)) (ptAt b.1 q)) z.1,
      a.foldl (fun g q => g ||| q.2) (z.2 ||| b.2))) (y, fNone)

/-- The stages from `L`, `m` on. -/
def fftStages (f : FloatFmt) (inverse : Bool) (n l m : Nat) (y : Array Cx) (fl : FFlags) : List Nat → Array Cx × FFlags
  | [] => (y, fl)
  | rd :: rs =>
    let z := fftStage f inverse n rd l m y
    fftStages f inverse n (l * rd) (m / rd) z.1 (fl ||| z.2) rs

/-- The plan's scaling (R52). -/
def fftScale (f : FloatFmt) (k : Option Num) (y : List Cx) : List Cx × FFlags :=
  match k with
  | none => (y, fNone)
  | some v => y.foldr (fun p r =>
      let a := rnd f (p.1.mul v)
      let b := rnd f (p.2.mul v)
      ((a.1, b.1) :: r.1, a.2 ||| b.2 ||| r.2)) ([], fNone)

/-- One transform of points. -/
def fftOf (f : FloatFmt) (inverse : Bool) (n : Nat) (rs : List Nat) (k : Option Num) (x : List Cx) : List Cx × FFlags :=
  let y := fftStages f inverse n 1 n x.toArray fNone rs
  let z := fftScale f k y.1.toList
  (z.1, y.2 ||| z.2)

/-- `FFT`, `IFFT`: every transform of the batch reads before any store. -/
def runFft (c : Ctx) (x : Handle) (f : Fin 16) (sv : Nat) (k : Fin 16) (inverse : Bool) : Got (Ctx × FFlags) :=
  if !rowValueOk x f sv false true then aFault 10 x.id
  else
    match c.plan k with
    | some (.fft n rs wide scale batch es bs) =>
      let g := precOf wide
      let r := svRow sv
      if f ≠ precFmt wide then aFault 11 x.id
      else if !holds x r (2 * ((batch - 1) * bs + (n - 1) * es) + 2) then aFault 10 x.id
      else
        let outs := (List.range batch).map fun b =>
          let qs := (List.range n).map fun i => b * bs + i * es
          let y := fftOf g inverse n rs scale (qs.map (pointFrom x f r))
          (qs.zip y.1, y.2)
        .ok (c.putHandle (outs.foldl (fun h o => storePoints h f g r o.1) x), outs.foldl (fun a o => a ||| o.2) fNone)
    | _ => aFault 12 x.id

/-! ## `SHTF` and `SHTI` (R53, R181) -/

/-- A node: x, y, w. -/
abbrev Node := Num × Num × Num

/-- Flags and a result in binary64. -/
def rn64 (x : Num × FFlags) : Num × FFlags := rnd f64 x

/-- P(n, m) for n from `n` to `n + left − 1`, from the two before; none are left at 0. -/
def legTail (x : Num) (m n : Nat) (p2 p1 : Num) : Nat → List Num × FFlags
  | 0 => ([], fNone)
  | left + 1 =>
    let t := rn64 ((sqrtRat (((n - 1) * (n - 1) - m * m) * (2 * n + 1)) ((n * n - m * m) * (2 * n - 3))).mul p2)
    let u := rn64 (x.mul p1)
    let p := rn64 (Num.fma .rne (sqrtRat (4 * n * n - 1) (n * n - m * m)) u.1 t.1.neg)
    let r := legTail x m (n + 1) p1 p.1 left
    (p.1 :: r.1, t.2 ||| u.2 ||| p.2 ||| r.2)

/-- P(m, m) to P(L, m). At m = L no P(m + 1, m) is formed, and none of its flags are set: nothing uses it (DESIGN CHOICE, log 93). -/
def legColumn (x : Num) (l m : Nat) (pmm : Num) : List Num × FFlags :=
  if l ≤ m then ([pmm], fNone)
  else
    let d := rn64 ((sqrtRat (2 * m + 3) 1).mul x)
    let p := rn64 (d.1.mul pmm)
    let r := legTail x m (m + 2) pmm p.1 (l - m - 1)
    (pmm :: p.1 :: r.1, d.2 ||| p.2 ||| r.2)

/-- P(m, m) of a node from P(m − 1, m − 1). -/
def legDiag (y : Num) (m : Nat) (p : Num) : Num × FFlags :=
  if m = 0 then (.fin false 1 0, fNone)
  else
    let g := rn64 ((sqrtRat (2 * m + 1) (2 * m)).mul y)
    let r := rn64 (g.1.mul p)
    (r.1, g.2 ||| r.2)

/-- fma on both parts. -/
def cFma (q : Num) (f g : Cx) : Cx × FFlags :=
  let a := rn64 (Num.fma .rne q f.1 g.1)
  let b := rn64 (Num.fma .rne q f.2 g.2)
  ((a.1, b.1), a.2 ||| b.2)

/-- The forward sums of one order: nodes with their columns of P and their coefficients, ascending. -/
def shtForward (n : Nat) (l : List (Node × List Num × Cx)) : List Cx × FFlags :=
  l.foldl (fun acc e =>
    let z := (acc.1.zip e.2.1).map fun p =>
      let q := rn64 (e.1.2.2.mul p.2)
      let c := cFma q.1 e.2.2 p.1
      (c.1, q.2 ||| c.2)
    (z.map fun p => p.1, z.foldl (fun g p => g ||| p.2) acc.2)) (List.replicate n (.zero, .zero), fNone)

/-- The inverse sum of one node and order. -/
def shtInverse (ps : List Num) (cs : List Cx) : Cx × FFlags :=
  (ps.zip cs).foldl (fun g p =>
    let r := cFma p.1 p.2 g.1
    (r.1, g.2 ||| r.2)) ((.zero, .zero), fNone)

/-- Place of spectral coefficient (m, m). -/
def specBase (l m : Nat) : Nat := (List.range m).foldl (fun n k => n + (l - k + 1)) 0

/-- The orders from `m` on, `left` of them: the points written, and the flags. `ps`: P(m − 1, m − 1) of each node; `src`: the
input's points. -/
def shtOrders (inverse : Bool) (l mm : Nat) (nodes : List Node) (src : Nat → Cx) (m : Nat) (ps : List Num) (fl : FFlags) :
    Nat → List (Nat × Cx) × FFlags
  | 0 => ([], fl)
  | left + 1 =>
    let ds := (nodes.zip ps).map fun p => legDiag p.1.2.1 m p.2
    let cols := (nodes.zip ds).map fun p => legColumn p.1.1 l m p.2.1
    let f1 := cols.foldl (fun g c => g ||| c.2) (ds.foldl (fun g d => g ||| d.2) fl)
    let r := if inverse then
        let cs := (List.range (l - m + 1)).map fun i => src (specBase l m + i)
        let gs := cols.map fun c => shtInverse c.1 cs
        (((List.range nodes.length).map fun j => j * (mm + 1) + m).zip (gs.map fun g => g.1),
          gs.foldl (fun a g => a ||| g.2) fNone)
      else
        let z := shtForward (l - m + 1) ((nodes.zip (List.range nodes.length)).zip cols |>.map fun p =>
          (p.1.1, p.2.1, src (p.1.2 * (mm + 1) + m)))
        (((List.range (l - m + 1)).map fun i => specBase l m + i).zip z.1, z.2)
    let t := shtOrders inverse l mm nodes src (m + 1) (ds.map fun d => d.1) (f1 ||| r.2) left
    (r.1 ++ t.1, t.2)

/-- Round the parts of points into the precision of the data. -/
def roundPoints (g : FloatFmt) (l : List (Nat × Cx)) : List (Nat × Cx) × FFlags :=
  l.foldr (fun p r =>
    let a := g.rn p.2.1
    let b := g.rn p.2.2
    ((p.1, (a.1, b.1)) :: r.1, a.2 ||| b.2 ||| r.2)) ([], fNone)

/-- Do `n` elements from a row of a handle and `k` elements from another meet in a row? -/
def rowsMeet (x : Handle) (r n : Nat) (y : Handle) (q k : Nat) : Bool :=
  decide (x.id = y.id) && decide (r ≤ q + (k - 1) / y.cols) && decide (q ≤ r + (n - 1) / x.cols)

/-- `SHTF`, `SHTI` (R181). A node table or output whose handle is not allocated is sub-reason 10, and one of another kind 11: R181 names no
outcome (log 102). -/
def runSht (s : State) (c : Ctx) (x : Handle) (f : Fin 16) (sv : Nat) (k : Fin 16) (inverse : Bool) : Got (Ctx × FFlags) :=
  if !rowValueOk x f sv false true then aFault 10 x.id
  else
    match c.plan k with
    | some (.sht l m j wide nh nrow oh orow) =>
      let r := svRow sv
      let lon := 2 * j * (m + 1)
      let spec := 2 * specBase l (m + 1)
      if f ≠ precFmt wide then aFault 11 x.id
      else if !holds x r (if inverse then spec else lon) then aFault 10 x.id
      else
        match c.handle nh, c.handle oh with
        | some nt, some o =>
          let fo := handleFmt s c o
          if nt.kind ≠ .tile ∨ handleFmt s c nt ≠ 11 then aFault 11 nh
          else if nt.rows ≤ nrow ∨ !holds nt nrow (3 * j) then aFault 10 nh
          else if o.kind ≠ .tile ∨ fo ≠ precFmt wide then aFault 11 oh
          else if o.rows ≤ orow ∨ !holds o orow (if inverse then lon else spec) ∨
              rowsMeet x r (if inverse then spec else lon) o orow (if inverse then lon else spec) then aFault 10 oh
          else
            let nodes : List Node := (List.range j).map fun i =>
              (elemFrom nt 11 nrow (3 * i), elemFrom nt 11 nrow (3 * i + 1), elemFrom nt 11 nrow (3 * i + 2))
            let z := shtOrders inverse l m nodes (pointFrom x f r) 0 (List.replicate j .zero) fNone (m + 1)
            let p := roundPoints (precOf wide) z.1
            .ok (c.putHandle (storePoints o fo (precOf wide) orow p.1), z.2 ||| p.2)
        | none, _ => aFault 10 nh
        | _, none => aFault 10 oh
    | _ => aFault 12 x.id

/-! ## At the head of the A queue of an X-core -/

/-- Run a transform word: the state it leaves, also where it traps, and its answer. -/
def runTransform (s : State) (c : Ctx) (i : Instr) (sv : Nat) : State × Got FFlags :=
  let tile (h : HId) (g : Handle → State × Got FFlags) : State × Got FFlags :=
    match c.handle h with
    | some x => if x.kind = .tile then g x else (s, .fail 5 h.val 0)
    | none => (s, .fail 5 h.val 0)
  let put (g : Got (Ctx × FFlags)) : State × Got FFlags :=
    match g with
    | .ok q => (s.putCtx q.1, .ok q.2)
    | .fail a b e => (s, .fail a b e)
    | .stall => (s, .stall)
  match i with
  | .plan _ h _ k => tile h fun x =>
      let r := runPlan c x (handleFmt s c x) sv k
      (s.putCtx r.1, r.2.bind fun _ => .ok fNone)
  | .fft _ h _ k => tile h fun x => put (runFft c x (handleFmt s c x) sv k false)
  | .ifft _ h _ k => tile h fun x => put (runFft c x (handleFmt s c x) sv k true)
  | .shtf _ h _ k => tile h fun x => put (runSht s c x (handleFmt s c x) sv k false)
  | .shti _ h _ k => tile h fun x => put (runSht s c x (handleFmt s c x) sv k true)
  | _ => (s, .ok fNone)

/-! ## Words -/

/-- Every row of every tile handle. -/
def allTiles (c : Ctx) : List RowSet := (c.handles.filter fun x => decide (x.kind = .tile)).map fun x => wholeHandle x.id

/-- The rows that `n` elements from row `r` of a handle lie in. -/
def elemRows (c : Ctx) (h : HId) (r n : Nat) : List RowSet :=
  match c.handle h with
  | some x => [⟨h, r, r + (n - 1) / max 1 x.cols⟩]
  | none => []

/-- The rows that `n` complex points from row `r` of a handle lie in, from point `q` on and `es` points apart: every row between the first and
the last where no step passes over one. -/
def pointRows (c : Ctx) (h : HId) (r n es q : Nat) : List RowSet :=
  match c.handle h with
  | some x =>
    let row (e : Nat) : Nat := r + e / max 1 x.cols
    if 2 * es ≤ x.cols then [⟨h, row (2 * q), row (2 * (q + (n - 1) * es) + 1)⟩]
    else (List.range n).map fun i => ⟨h, row (2 * (q + i * es)), row (2 * (q + i * es) + 1)⟩
  | none => []

/-- The slot, handle and direction of a transform word. -/
def transformOf (i : Instr) : Option (Fin 16 × HId × Bool) :=
  match i with
  | .fft _ h _ k => some (k, h, false)
  | .ifft _ h _ k => some (k, h, true)
  | .shtf _ h _ k => some (k, h, false)
  | .shti _ h _ k => some (k, h, true)
  | _ => none

/-- The rows that a transform reads and writes with the plan that its slot holds (R182). -/
def transformSets (c : Ctx) (i : Instr) (sv : Nat) : List RowSet × List RowSet :=
  match transformOf i with
  | none => ([], [])
  | some t =>
    match c.plan t.1 with
    | some (.fft n _ _ _ batch es bs) =>
      let l := (List.range batch).flatMap fun b => pointRows c t.2.1 (svRow sv) n es (b * bs)
      (l, l)
    | some (.sht l m j _ nh nrow oh orow) =>
      let lon := 2 * j * (m + 1)
      let spec := 2 * specBase l (m + 1)
      (elemRows c t.2.1 (svRow sv) (if t.2.2 then spec else lon) ++ elemRows c nh nrow (3 * j),
        elemRows c oh orow (if t.2.2 then lon else spec))
    | none => ([⟨t.2.1, svRow sv, svRow sv⟩], [])

/-- Does a `PLAN` into a slot, issued before a place in the order, wait or run still? -/
def planBefore (c : Ctx) (k : Fin 16) (seq : Nat) : Bool :=
  c.cmds.any fun d => decide (d.seq < seq) && decide (d.prog ≠ .done) && (match d.word with
    | .plan _ _ _ k1 => decide (k1 = k)
    | _ => false)

/-- The sets of a transform of the issue order's place `seq`: while an earlier `PLAN` may still change its slot, every tile row (log 66). -/
def transformSetsAt (c : Ctx) (i : Instr) (sv seq : Nat) : List RowSet × List RowSet :=
  match transformOf i with
  | some t => if planBefore c t.1 seq then (allTiles c, allTiles c) else transformSets c i sv
  | none => ([], [])

/-- A `PLAN` has run, or has been discarded: the sets of the transforms behind it. -/
def refreshSets (c : Ctx) : Ctx :=
  { c with cmds := c.cmds.map fun d =>
      if (transformOf d.word).isSome && decide (d.prog = .queued) then
        let r := transformSetsAt c d.word d.sval.toNat d.seq
        { d with reads := r.1, writes := r.2 }
      else d }

/-- Body of a transform word. -/
def transformBody (i : Instr) (h : HId) (x : SReg) (w : At) (t : State) : Res :=
  aBody i (some (h, .tile)) (some x) (fun v => transformSetsAt w.cx i v w.seq) 0 w t

/-- `FFT` (R180). -/
def execFft (g : Guard) (h : HId) (x : SReg) (k : Fin 16) (s : State) : Host.Outcome State Fault Refusal :=
  issue s (.fft g h x k) (transformBody (.fft g h x k) h x)

/-- `IFFT` (R180). -/
def execIfft (g : Guard) (h : HId) (x : SReg) (k : Fin 16) (s : State) : Host.Outcome State Fault Refusal :=
  issue s (.ifft g h x k) (transformBody (.ifft g h x k) h x)

/-- `SHTF` (R181). -/
def execShtf (g : Guard) (h : HId) (x : SReg) (k : Fin 16) (s : State) : Host.Outcome State Fault Refusal :=
  issue s (.shtf g h x k) (transformBody (.shtf g h x k) h x)

/-- `SHTI` (R181). -/
def execShti (g : Guard) (h : HId) (x : SReg) (k : Fin 16) (s : State) : Host.Outcome State Fault Refusal :=
  issue s (.shti g h x k) (transformBody (.shti g h x k) h x)

/-- `PLAN` (R179). -/
def execPlan (g : Guard) (h : HId) (x : SReg) (k : Fin 16) (s : State) : Host.Outcome State Fault Refusal :=
  issue s (.plan g h x k) (aBody (.plan g h x k) (some (h, .tile)) (some x) (fun v => (svRows h 1 v, [])) 0)

end Sys2Proof.Machine
end

