-- ==== Sys2Proof/Machine/Layer.lean ====
section
/-! DEFINITION. The lease of a cluster's matrix array (R165-R168) and the layer macros with their micro-ops (R183-R185). -/

namespace Sys2Proof.Machine

/-! ## The lease -/

/-- The array of a cluster. -/
def arrayOf (s : State) (cl : Fin 64) : Option ArraySt := s.arrays.find? fun a => decide (a.cluster = cl)

/-- Replace an array. -/
def putArray (s : State) (a : ArraySt) : State :=
  { s with arrays := s.arrays.map fun b => if b.cluster = a.cluster then a else b }

/-- The array of a core's cluster. -/
def arrayAt (s : State) (k : CoreId) : Option ArraySt := k.cluster.bind fun cl => arrayOf s cl

/-- Does a context hold the lease of its cluster? -/
def holdsLease (s : State) (x : CtxId) : Bool :=
  match arrayAt s x.core with
  | some a => decide (a.holder = some x)
  | none => false

/-- Place of a core's G-core in its cluster, 0 to 3. -/
def gIndex (k : CoreId) : Fin 4 :=
  match k with
  | .core _ n => ⟨n.val % 6 % 4, Nat.mod_lt _ (by decide)⟩
  | .sup => 0

/-- Is it a command that runs only under a lease (R165)? -/
def isArrayCmd (i : Instr) : Bool :=
  match i with
  | .bload .. => true | .mma .. => true | .mma3 .. => true | .drain .. => true | .drainm .. => true
  | .layerf .. => true | .layerd .. => true | .layerw .. => true | .layeru .. => true
  | _ => false

/-- Is a command in progress that keeps its job's lease and stops only when it completes, or at a safe point? -/
def arrayBusy (d : Cmd) : Bool :=
  isArrayCmd d.word &&
    (match d.prog with
      | .done => true
      | .layer m => !m.trapped && m.since != 0
      | _ => false)

/-- Has a lease reached its bound (R167)? -/
def leaseOver (s : State) (a : ArraySt) : Bool :=
  match a.holder.bind s.ctx with
  | some c => decide (c.leaseCmds ≤ a.started) || decide (c.leaseCycles ≤ s.now - a.since)
  | none => false

/-- Do other cores wait for an array? -/
def leaseWanted (a : ArraySt) : Bool := a.requests.any fun r => decide (some r.1 ≠ a.holder)

/-- Request the lease, in the cycle `now`, unless the context holds it or has asked. A request stays in the pick when a trap stops its job (R167,
log 109). -/
def requestLease (s : State) (x : CtxId) : State :=
  match arrayAt s x.core with
  | some a =>
    if a.holder = some x ∨ a.requests.any (fun r => decide (r.1 = x)) then s
    else putArray s { a with requests := a.requests ++ [(x, s.now)] }
  | none => s

/-- Release the lease of a context, if it holds one; the array then stays idle 4 cycles before another holder (R166). -/
def releaseLease (s : State) (x : CtxId) : State :=
  match arrayAt s x.core with
  | some a =>
    if a.holder = some x then putArray s { a with holder := none, idleUntil := s.now + 4, timeout := none } else s
  | none => s

/-- Count an array command started under a lease. -/
def countArray (s : State) (x : CtxId) : State :=
  match arrayAt s x.core with
  | some a => putArray s { a with started := a.started + 1 }
  | none => s

/-- Weight of a job: 1 + the priority of its region. -/
def leaseWeight (s : State) (x : CtxId) : Int :=
  match s.ctx x with
  | some c => 1 + (c.card.prio : Int)
  | none => 1

/-- The pending requests by place of their core: weight and context. -/
def pendingAt (s : State) (a : ArraySt) (k : Fin 4) : Option CtxId :=
  (a.requests.find? fun r => decide (r.2 < s.now) && decide (gIndex r.1.core = k)).map fun r => r.1

/-- The pick of R167: the credits before the winner pays, and the winner. -/
def leasePick (s : State) (a : ArraySt) : Vector Int 4 × Option (Fin 4) :=
  let cr : Vector Int 4 := Vector.ofFn fun k =>
    match pendingAt s a k with
    | some x => a.credit.get k + leaseWeight s x
    | none => 0
  let order := [1, 2, 3, 4].map fun i => (⟨(a.lastWin + i) % 4, Nat.mod_lt _ (by decide)⟩ : Fin 4)
  (cr, (order.filter fun k => (pendingAt s a k).isSome).foldl (fun best k =>
    match best with
    | none => some k
    | some b => if cr.get b < cr.get k then some k else some b) none)

/-- Weights of all pending cores. -/
def leaseSum (s : State) (a : ArraySt) : Int :=
  [(0 : Fin 4), 1, 2, 3].foldl (fun n k => n + ((pendingAt s a k).map (leaseWeight s)).getD 0) 0

/-- The array grants its lease (R166, R167): free, idle long enough between two holders, to the winner of the pending cores.
Two jobs of one core in succession are no two holders: the array knows its cores (log 109). -/
def execLeaseGrant (cl : Fin 64) (s : State) : Host.Outcome State Fault Refusal :=
  match arrayOf s cl with
  | none => .refused (.notEnabled "LEASE_GRANT")
  | some a =>
    if a.holder.isSome then .refused (.notEnabled "LEASE_GRANT")
    else
      match leasePick s a with
      | (_, none) => .refused (.notEnabled "LEASE_GRANT")
      | (cr, some k) =>
        if s.now < a.idleUntil ∧ k.val ≠ a.lastWin then .refused (.notEnabled "LEASE_GRANT")
        else .next (putArray s { a with
          holder := pendingAt s a k
          requests := a.requests.filter fun r => decide (some r.1 ≠ pendingAt s a k)
          credit := cr.set k.val (cr.get k - leaseSum s a) k.isLt
          lastWin := k.val
          started := 0
          since := s.now
          timeout := none })

/-- A lease reaches its bound after the array command in progress, or at a safe point (R167): it renews with fresh counts, or
ends where another core waits. -/
def execLeaseBound (cl : Fin 64) (s : State) : Host.Outcome State Fault Refusal :=
  match arrayOf s cl with
  | none => .refused (.notEnabled "LEASE_BOUND")
  | some a =>
    match a.holder.bind s.ctx with
    | none => .refused (.notEnabled "LEASE_BOUND")
    | some c =>
      if !leaseOver s a || c.cmds.any arrayBusy then .refused (.notEnabled "LEASE_BOUND")
      else if leaseWanted a then .next (releaseLease s c.id)
      else .next (putArray s { a with started := 0, since := s.now, timeout := none })

/-- The macro that runs on a context. -/
def macroOf (c : Ctx) : Option (Cmd × MacroSt) :=
  c.cmds.findSome? fun d =>
    match d.prog with
    | .layer m => some (d, m)
    | _ => none

/-- Stop a macro at its micro-op with a trap. While its job is stopped by another trap none is raised, as the micro-op runs again (R224,
R185); one of a job that is being lifted off is recorded (R309). Its address is that of the macro word, in `tinfo`; `epc` records the stream's
own resume point, as for every queued command (log 107). -/
def macroTrap (s : State) (c : Ctx) (d : Cmd) (m : MacroSt) (x : Cause) : State :=
  let t := s.mapCmd c.id d.seq fun e => { e with prog := .layer { m with trapped := true } }
  if cmdsRun c || c.frozen then cmdTrap t c.id d x else t

/-- A macro past its lease bound has missed its safe point (R168): lease-timeout trap. -/
def execLeaseTimeout (cl : Fin 64) (s : State) : Host.Outcome State Fault Refusal :=
  match arrayOf s cl with
  | none => .refused (.notEnabled "LEASE_TIMEOUT")
  | some a =>
    match a.timeout, a.holder.bind s.ctx with
    | some t, some c =>
      (match macroOf c with
      | some (d, m) =>
        if t ≤ s.now then .next (macroTrap (putArray s { a with timeout := none }) c d m ⟨11, 0, 2, 0⟩)
        else .refused (.notEnabled "LEASE_TIMEOUT")
      | none => .refused (.notEnabled "LEASE_TIMEOUT"))
    | _, _ => .refused (.notEnabled "LEASE_TIMEOUT")

/-- What each cycle does for an array: a stopped job without an array command in progress releases its lease (R168); the time
limit of a macro past its bound starts while another core waits. -/
def leaseTick (s : State) (a : ArraySt) : State :=
  match a.holder.bind s.ctx with
  | none => s
  | some c =>
    if !cmdsRun c && !c.cmds.any arrayBusy then releaseLease s c.id
    else if leaseOver s a && leaseWanted a && a.timeout.isNone && (macroOf c).isSome then
      putArray s { a with timeout := some (s.now + c.leaseCycles) }
    else s

/-! ## Starting a macro (R183) -/

/-- κ of a layer word. -/
def layerKind (i : Instr) : Option (HId × Nat) :=
  match i with
  | .layerf _ h _ => some (h, 0)
  | .layerd _ h _ => some (h, 1)
  | .layerw _ h _ => some (h, 2)
  | .layeru _ h _ => some (h, 3)
  | _ => none

/-- A microcode fault (cause 17) at a micro-op address. -/
def microFault {α : Type} (addr : Nat) : Got α := .fail 17 (addr % 2 ^ 16) 0

/-- The word at an address of a microcode store. -/
def microWord (l : List (Nat × BitVec 64)) (addr : Nat) : Nat := (assocGet 0 l addr).toNat

/-- The macro of a descriptor at its entry. Bits [62:14] of the entry word, of which R183 says nothing, are ignored (log 109). -/
def startMacro (k : CoreSt) (x : Handle) (f : Fin 16) (sv kind : Nat) : Got MacroSt :=
  if !rowValueOk x f sv false true then aFault 10 x.id
  else if rowBytes f x.cols < 32 then aFault 13 x.id
  else
    let bs := x.bytes (svRow sv) 0 32
    let entry := 4 * (leValue bs % 64) + kind
    let e := microWord k.micro entry
    if !bitN e 63 || bitsN e 13 0 < 256 then microFault entry
    else .ok {
      k := Vector.ofFn fun i => if i.val < 4 then listWord bs (8 * i.val) else 0
      addr := bitsN e 13 0, since := 0, rows := 0, elems := 0, olds := [], flags := 0, stat := [], trapped := false, store := k.micro }

/-! ## Micro-ops (Table 8.8) -/

/-- A macro ready for its next micro-op: context, command, macro. -/
structure Uop where
  cx : Ctx
  d : Cmd
  m : MacroSt

/-- May a macro go on: its job holds the lease and runs, or is stopped and the macro has not come to a safe point or a trap
(R185)? -/
def macroRuns (s : State) (c : Ctx) (m : MacroSt) : Bool :=
  holdsLease s c.id && (cmdsRun c || (m.since != 0 && !m.trapped))

/-- Run a micro-op of the macro of the current context; a 65th one without a safe point is a microcode fault (R184).
`last`: it is `SAFE` or `END`. A micro-op whose access waits for an HBM stack does not happen yet. -/
def uop (s : State) (name : String) (last : Bool) (f : Uop → Option State) : Host.Outcome State Fault Refusal :=
  match s.cur.bind fun r => s.ctx r.ctx with
  | none => .refused (.notEnabled name)
  | some c =>
    match macroOf c with
    | none => .refused (.notEnabled name)
    | some (d, m) =>
      if !macroRuns s c m then .refused (.notEnabled name)
      else if 64 ≤ m.since && !last then .next (macroTrap s c d m ⟨17, m.addr % 2 ^ 16, 2, 0⟩)
      else
        match f ⟨c, d, m⟩ with
        | some t => .next t
        | none => .refused (.notEnabled name)

/-- The next micro-op is none of Table 8.8, or its address is beyond the store (R184). -/
def uopFault (s : State) : Host.Outcome State Fault Refusal :=
  uop s "UOP" true fun u => some (macroTrap s u.cx u.d u.m ⟨17, u.m.addr % 2 ^ 16, 2, 0⟩)

/-- The macro after a micro-op: the next address, one micro-op more since the last safe point. -/
def MacroSt.next (m : MacroSt) : MacroSt :=
  { m with
    addr := m.addr + 1, since := m.since + 1, rows := 0, elems := 0, olds := [], flags := 0, stat := [], trapped := false }

def MacroSt.setK (m : MacroSt) (r : KReg) (v : Word) : MacroSt := { m with k := m.k.set r.val v r.isLt }

/-- Go on with a macro. -/
def Uop.go (u : Uop) (s : State) (m : MacroSt) : State := s.putCmd u.cx.id { u.d with prog := .layer m }

/-- The A command of an `ARR` micro-op, by the decoder of words: unguarded, with s field 0. -/
def arrWord (op : ArrOp) (fn : BitVec 4) (h : Nat) : Except DecodeError Instr :=
  decode (wordOf 2 op.code (qw .always (h % 256) 0 fn.toNat))

/-- An `ARR` command has run: its flags and status bits, and the macro's next micro-op. -/
def Uop.ran (u : Uop) (s : State) (array : Bool) (fl : FFlags) (st : List (Fin 32 × BitVec 4)) : State :=
  let t := s.mapCtx u.cx.id fun c =>
    let c1 := (c.putStream u.d.src ((c.stream u.d.src).orFlags fl)).setStatus st
    { c1 with cmds := c1.cmds.map fun e => if e.seq = u.d.seq then { e with prog := .layer u.m.next } else e }
  if array then countArray t u.cx.id else t

/-- Does a `DRAINM` micro-op wait for inverted accesses that were issued earlier (R269)? -/
def Uop.drainWaits (u : Uop) (s : State) (h : HId) (sv : Nat) : Bool :=
  u.cx.dmode != 0 && invertersBefore s u.cx u.d.seq && (match u.cx.handle h with
    | some y => recTouches s u.cx u.d y (svRow sv) true
    | none => false)

/-- Run the A command of an `ARR` micro-op: it checks and traps as the Q command would. -/
def Uop.arr (u : Uop) (s : State) (i : Instr) (sv : Nat) : Option State :=
  let w := whoCmd s u.cx u.d
  match i with
  | .drainm _ h _ fn =>
    if u.drainWaits s h sv then none
    else
      (match runDrainm s u.cx u.d h fn sv u.m.rows u.m.elems u.m.olds with
      | .ok t fl st => some (u.ran t true (u.m.flags ||| fl) (u.m.stat ++ st))
      | .trap t r e o fl st a b x =>
        some (macroTrap t u.cx u.d { u.m with rows := r, elems := e, olds := o, flags := u.m.flags ||| fl, stat := u.m.stat ++ st } ⟨a, b, 2, x⟩)
      | .stall => none)
  | _ =>
    if (match i with
      | .dtt _ _ => decide (sv / 2 ^ 13 ≠ 0)
      | _ => false) then some (macroTrap s u.cx u.d u.m ⟨1, illegalDetail 7 0x08, 2, 0⟩)
    else
      match runArray s u.cx w (u.cx.stream u.d.src).satfp i sv with
      | .ok q => some (u.ran q.1 (isArrayCmd i) q.2.1 q.2.2)
      | .fail a b x => some (macroTrap s u.cx u.d u.m ⟨a, b, 2, x⟩)
      | .stall => none

/-- `ARR` (Table 8.8): runs an A command with handle bits(k[ka], 7, 0) and row value k[kb]. -/
def execUopArr (op : ArrOp) (fn : BitVec 4) (ka kb : KReg) (s : State) : Host.Outcome State Fault Refusal :=
  uop s "UOP_ARR" false fun u =>
    match arrWord op fn (u.m.k.get ka).toNat with
    | .error e => some (macroTrap s u.cx u.d u.m ⟨1, illegalDetail e.reason.val op.code, 2, 0⟩)
    | .ok i => u.arr s i (u.m.k.get kb).toNat

/-- `SET`: k[kd] := sext(imm, 32). -/
def execUopSet (kd : KReg) (imm : BitVec 32) (s : State) : Host.Outcome State Fault Refusal :=
  uop s "UOP_SET" false fun u => some (u.go s (u.m.next.setK kd (imm.signExtend 64)))

/-- `ADD`: k[kd] := k[ka] + sext(imm, 32). -/
def execUopAdd (kd ka : KReg) (imm : BitVec 32) (s : State) : Host.Outcome State Fault Refusal :=
  uop s "UOP_ADD" false fun u => some (u.go s (u.m.next.setK kd (u.m.k.get ka + imm.signExtend 64)))

/-- `LOOP`: k[kd] := k[kd] − 1; to the target unless it is 0. -/
def execUopLoop (kd : KReg) (target : BitVec 14) (s : State) : Host.Outcome State Fault Refusal :=
  uop s "UOP_LOOP" false fun u =>
    let v := u.m.k.get kd - 1
    let m := u.m.next.setK kd v
    some (u.go s (if v = 0 then m else { m with addr := target.toNat }))

/-- `SAFE`: a safe point. -/
def execUopSafe (s : State) : Host.Outcome State Fault Refusal :=
  uop s "UOP_SAFE" true fun u => some (u.go s { u.m.next with since := 0 })

/-- `END`: the macro completes. -/
def execUopEnd (s : State) : Host.Outcome State Fault Refusal :=
  uop s "UOP_END" true fun u => some (s.putCmd u.cx.id { u.d with prog := .done })

/-! ## Layer words -/

/-- Issue a layer word: its access set is every row of every tile handle (R185). -/
def layerBody (i : Instr) (h : HId) (x : SReg) (w : At) (t : State) : Res :=
  aBody i (some (h, .tile)) (some x) (fun _ => (allTiles w.cx, allTiles w.cx)) (onPath .scratch ||| onPath .hbm) w t

/-- `LAYERF` (R183). -/
def execLayerf (g : Guard) (h : HId) (x : SReg) (s : State) : Host.Outcome State Fault Refusal :=
  issue s (.layerf g h x) (layerBody (.layerf g h x) h x)

/-- `LAYERD` (R183). -/
def execLayerd (g : Guard) (h : HId) (x : SReg) (s : State) : Host.Outcome State Fault Refusal :=
  issue s (.layerd g h x) (layerBody (.layerd g h x) h x)

/-- `LAYERW` (R183). -/
def execLayerw (g : Guard) (h : HId) (x : SReg) (s : State) : Host.Outcome State Fault Refusal :=
  issue s (.layerw g h x) (layerBody (.layerw g h x) h x)

/-- `LAYERU` (R183). -/
def execLayeru (g : Guard) (h : HId) (x : SReg) (s : State) : Host.Outcome State Fault Refusal :=
  issue s (.layeru g h x) (layerBody (.layeru g h x) h x)

end Sys2Proof.Machine
end

