-- ==== Sys2Proof/Machine/Region.lean ====
section
/-! DEFINITION. The region table (R250, R251) and the gang table (R304), read at their physical addresses. -/

namespace Sys2Proof.Machine

/-- Region control block of a region, as a number (Table 13.2). -/
def rcb (s : State) (x : Nat) : Nat := leValue (physLoad s (s.hub.rcbase.toNat + 64 * x) 64)

def rcbValid (b : Nat) : Bool := bitN b 259
def rcbLevel (b : Nat) : Nat := bitsN b 247 245
def rcbParent (b : Nat) : Nat := bitsN b 244 233

/-- A field of a region: its bit in `rcb.ovr` and its place in the block. -/
structure RcbField where
  bit : Nat
  hi : Nat
  lo : Nat

def rcbGc : RcbField := ⟨0, 200, 192⟩
def rcbXc : RcbField := ⟨1, 208, 201⟩
def rcbL2q : RcbField := ⟨3, 111, 96⟩
def rcbFab : RcbField := ⟨4, 119, 112⟩
def rcbPorts : RcbField := ⟨5, 191, 128⟩
def rcbPrio : RcbField := ⟨6, 224, 221⟩
def rcbFdom : RcbField := ⟨7, 232, 225⟩
def rcbKey : RcbField := ⟨8, 220, 209⟩
def rcbTags : RcbField := ⟨9, 127, 120⟩
def rcbPtroot : RcbField := ⟨10, 45, 12⟩

/-- The value in force of a field of a region (R251); regions are at most eight levels deep. -/
def effAt (s : State) (f : RcbField) (x : Nat) : Nat → Nat
  | 0 => 0
  | n + 1 =>
    let b := rcb s x
    if x = 0 ∨ bitN b (248 + f.bit) then bitsN b f.hi f.lo else effAt s f (rcbParent b) n

def eff (s : State) (f : RcbField) (x : Nat) : Nat := effAt s f x 8

/-- Level of a region: 0 for region 0, whatever its block holds. -/
def levelOf (s : State) (x : Nat) : Nat := if x = 0 then 0 else rcbLevel (rcb s x)

/-- Do a region and its ancestors keep the rule of R250? -/
def regionOkAt (s : State) (x : Nat) : Nat → Bool
  | 0 => false
  | n + 1 =>
    let b := rcb s x
    rcbValid b && (x == 0 || (levelOf s x == levelOf s (rcbParent b) + 1 && regionOkAt s (rcbParent b) n))

def regionOk (s : State) (x : Nat) : Bool := regionOkAt s x 8

/-- A region and its ancestors, itself first. -/
def ancestorsAt (s : State) (x : Nat) : Nat → List Nat
  | 0 => []
  | n + 1 => if x = 0 then [0] else x :: ancestorsAt s (rcbParent (rcb s x)) n

def ancestors (s : State) (x : Nat) : List Nat := ancestorsAt s x 8

/-! ## Gangs -/

/-- Physical address of a gang record. -/
def gangAddr (s : State) (g : Nat) : Nat := s.hub.gangbase.toNat + 64 * g

/-- Gang record, as a number (Table 18.2). -/
def gangRec (s : State) (g : Nat) : Nat := leValue (physLoad s (gangAddr s g) 64)

def ggValid (v : Nat) : Bool := bitN v 152
def ggRegion (v : Nat) : Nat := bitsN v 139 128
def ggState (v : Nat) : Nat := bitsN v 227 224

/-- Write a field of a gang record: its bytes. Fields begin at a byte; beside `gg.state` the rest of the byte is reserved and zero. -/
def gangSet (s : State) (g hi lo x : Nat) : State :=
  physStore s (gangAddr s g + lo / 8) (leBytes ((hi - lo + 8) / 8) (x % 2 ^ (hi + 1 - lo)))

/-- The gang of a region with these ancestors: the lowest valid record that covers it; 0 for none (R304). -/
def gangOf (s : State) (anc : List Nat) : Nat :=
  if s.hub.gangbase = 0 then 0
  else (((List.range 4096).drop 1).find? fun g => ggValid (gangRec s g) && anc.contains (ggRegion (gangRec s g))).getD 0

/-- The gang of a job. -/
def jobGang (s : State) (k : Card) : Nat := gangOf s (k.anc.map fun a => a.1)

/-- The fabric IDs of a gang's members: `gg.nmem` + 1 entries of its member list. -/
def gangMembers (s : State) (g : Nat) : List Fid :=
  let v := gangRec s g
  (List.range (bitsN v 151 140 + 1)).map fun i =>
    fidOf (leValue (physLoad s (bitsN v 109 76 * 4096 + 2 * i) 2) % 4096)

/-- The switch of a gang that the router knows of. -/
def gangFind (s : State) (g : Nat) : Option GangSt := s.router.gangs.find? fun x => x.id == g

/-- A gang of which nothing is recorded. -/
def GangSt.fresh (g : Nat) : GangSt := ⟨g, 0, false, [], [], [], false, 0, 0, 0, false, [], none, [], (0, 0)⟩

def gangGet (s : State) (g : Nat) : GangSt := (gangFind s g).getD (GangSt.fresh g)

/-- Replace what is recorded of a gang, and write `gg.state`. -/
def gangPut (s : State) (x : GangSt) : State :=
  let l := x :: s.router.gangs.filter fun y => y.id != x.id
  s.setRouter { s.router with gangs := l }

/-- The state of a gang. -/
def gangState (s : State) (g : Nat) : Fin 5 := (gangGet s g).state

/-- Does this module hold back what it would send of a gang: from its markers on until its `GRES` completes (R306, R319)? -/
def gangMuted (s : State) (g : Nat) : Bool :=
  let x := gangGet s g
  g != 0 && (x.state == 2 || x.state == 3 || (x.state == 1 && x.lifted))

end Sys2Proof.Machine
end

