-- ==== Sys2Proof/Machine/Fabric.lean ====
section
/-! DEFINITION. Ports, lanes, filters and announcements (R279-R283, R324), and the sending side of the router: sequence numbers,
routes and arbitration (R284-R287). -/

namespace Sys2Proof.Machine

/-- A refused event. -/
def noEvent (name : String) : Host.Outcome State Fault Refusal := .refused (.notEnabled name)

/-! ## Lanes (R281-R283, R324) -/

/-- The lane of a port in a state. -/
def laneOf (s : State) (p : Port) (l : Lane) : LaneSt := (s.hub.port p).lane l

/-- Replace a lane, its state apart. -/
def putLane (s : State) (p : Port) (l : Lane) (y : LaneSt) : State := s.setHub (s.hub.putPort p ((s.hub.port p).putLane l y))

/-- Does a lane receive data? -/
def LaneSt.hears (y : LaneSt) : Bool := y.state == 2 || y.state == 3

/-- A flit is received (R282): a bad CRC sends a NAK, and the lane holds the later flits until the failed one comes again. -/
def execFlitReceived (p : Port) (l : Lane) (crcOk : Bool) (s : State) : Host.Outcome State Fault Refusal :=
  let y := laneOf s p l
  if y.hears then .next (putLane s p l { y with holding := !crcOk }) else noEvent "FLIT_RECEIVED"

/-- Count a retry of a port (R281: `pt.lane` [63:32]). -/
def countRetry (s : State) (p : Port) : State :=
  s.setHub (s.hub.putPort p { s.hub.port p with retries := (s.hub.port p).retries + 1 })

/-- A NAK arrives, or a replay ends (R282). A NAK on a lane in UP starts a replay; a replay that passes returns the lane to UP; a
replay that fails starts another, and after 16 in a row the lane is DOWN. A lane in RX-DARK, which still sends data, replays where it
is: it leaves that state only through TRAIN (R283) or to DOWN; its `fails` counts the replays begun since one has passed, one more than
those that have failed. A NAK of the patterns of a lane in TRAIN says that its training has failed: the lane
is DOWN (Table 16.2, log 58). -/
def execNakReceived (p : Port) (l : Lane) (passed : Bool) (s : State) : Host.Outcome State Fault Refusal :=
  let y := laneOf s p l
  if y.state = 2 then
    (if passed then noEvent "NAK_RECEIVED" else .next (setLane (countRetry s p) p l 3))
  else if y.state = 4 then
    if passed then (if y.fails = 0 then noEvent "NAK_RECEIVED" else .next (putLane s p l { y with fails := 0 }))
    else if 16 ≤ y.fails then .next (setLane s p l 5)
    else .next (putLane (countRetry s p) p l { y with fails := y.fails + 1 })
  else if y.state = 1 ∧ s.hub.lit p l then (if passed then noEvent "NAK_RECEIVED" else .next (setLane s p l 5))
  else if y.state = 3 then
    if passed then .next (setLane s p l 2)
    else if 15 ≤ y.fails then .next (setLane s p l 5)
    else .next (putLane (countRetry s p) p l { y with fails := y.fails + 1 })
  else noEvent "NAK_RECEIVED"

/-- Light is lost on a receive fibre (R283). A replay in progress goes on. -/
def execRxLightLoss (p : Port) (l : Lane) (s : State) : Host.Outcome State Fault Refusal :=
  let y := laneOf s p l
  if (y.state = 1 ∨ y.state = 2 ∨ y.state = 3) ∧ s.hub.lit p l then
    let t := setLane s p l 4
    .next (if y.state = 3 then putLane t p l { laneOf t p l with fails := y.fails + 1 } else t)
  else noEvent "RX_LIGHT_LOSS"

/-- Light returns on a receive fibre: the lane leaves RX-DARK through TRAIN (R283). -/
def execRxLightReturn (p : Port) (l : Lane) (s : State) : Host.Outcome State Fault Refusal :=
  if (laneOf s p l).state = 4 then .next (setLane s p l 1) else noEvent "RX_LIGHT_RETURN"

/-- A lane finishes training and enters UP (R324). -/
def execLaneTrained (p : Port) (l : Lane) (s : State) : Host.Outcome State Fault Refusal :=
  if (laneOf s p l).state = 1 ∧ s.hub.lit p l then .next (setLane s p l 2) else noEvent "LANE_TRAINED"

/-- A lane that is lit no more finishes its flit and enters OFF (R324). It does so of itself. -/
def execLaneUnlit (p : Port) (l : Lane) (s : State) : Host.Outcome State Fault Refusal :=
  if (laneOf s p l).state ≠ 0 ∧ !s.hub.lit p l then .next (setLane s p l 0) else noEvent "LANE_UNLIT"

/-- Loss of a supply fibre puts the port's lanes OFF, and is logged (R324). -/
def execSupplyLightLoss (p : Port) (s : State) : Host.Outcome State Fault Refusal :=
  if (s.hub.port p).supply then
    .next (allLanes.foldl (fun t l => setLane t p l 0)
      (rasLog (s.setHub (s.hub.putPort p { s.hub.port p with supply := false })) 3 0 (laneLoc p 0) 1))
  else noEvent "SUPPLY_LIGHT_LOSS"

/-- Light returns on a supply fibre: the lanes that are lit train again (R324). -/
def execSupplyLightReturn (p : Port) (s : State) : Host.Outcome State Fault Refusal :=
  if (s.hub.port p).supply then noEvent "SUPPLY_LIGHT_RETURN"
  else .next (relight s.hub p (s.setHub (s.hub.putPort p { s.hub.port p with supply := true })))

/-- A write to `lt.req` (R324). -/
def execLightRequestWrite (p : Port) (v : Word) (s : State) : Host.Outcome State Fault Refusal := .next (writeLightReq s p v)

/-- A write to `lt.grant` by the manager (R324). -/
def execLightGrantWrite (p : Port) (v : Word) (s : State) : Host.Outcome State Fault Refusal := .next (writeLightGrant s p v)

/-- A write to `pt.cfg` (R279). -/
def execPortConfigWrite (p : Port) (v : Word) (s : State) : Host.Outcome State Fault Refusal := .next (writePortCfg s p v)

/-! ## Announcements and filters (R280, R192) -/

/-- The valid member of a port's star on a colour (Table 16.1). -/
def memberOn (x : PortSt) (c : Fin 8) : Option Fid :=
  let w := if c.val < 4 then x.mem0.toNat else x.mem1.toNat
  let v := bitsN w (16 * (c.val % 4) + 15) (16 * (c.val % 4))
  if bitN v 15 then some (fidOf v) else none

/-- The colour of a module on a port's star. -/
def colourOf (x : PortSt) (f : Fid) : Option (Fin 8) := (List.finRange 8).find? fun c => decide (memberOn x c = some f)

/-- Something of a module has been heard (R288). -/
def hearFrom (s : State) (f : Fid) : State :=
  s.setRouter { s.router with lastHeard := assocSet s.router.lastHeard f s.now }

/-- Does the route entry of a module name a relay (R287)? -/
def relaysFor (s : State) (m f : Fid) : Bool :=
  let w := (assocGet 0 s.hub.routes f).toNat
  bitN w 19 && decide (fidOf (bitsN w 18 7) = m)

/-- The modules whose announcements come with one of a relay: which of those that it relays for is free (R288, log 73). -/
def passedOn (s : State) (m : Fid) : List Fid :=
  (s.hub.routes.map fun e => e.1).filter fun f => relaysFor s m f && Config.relayed s.free f

/-- An announcement of a member is decoded on a lane, and with it those that the member relays (R280, R288). -/
def execAnnouncementReceived (p : Port) (l : Lane) (c : Fin 8) (pending : Bool) (passes : BitVec 8) (s : State) :
    Host.Outcome State Fault Refusal :=
  let x := s.hub.port p
  if !(x.lane l).hears then noEvent "ANNOUNCEMENT_RECEIVED"
  else
    let old := x.heard.find? fun h => decide (h.colour = c)
    let since := match old with
      | some h => if h.pending then h.since else s.now
      | none => s.now
    let s1 := s.setHub (s.hub.putPort p { x with
      heard := ⟨c, s.now, pending, since, passes⟩ :: x.heard.filter fun h => decide (h.colour ≠ c) })
    .next (match memberOn x c with
      | some m => (m :: passedOn s m).foldl hearFrom s1
      | none => s1)

/-- One of the two slots of a lane. -/
def LaneSt.slot (y : LaneSt) (slot : Bool) : Filter := if slot then y.slot1 else y.slot0

def LaneSt.putSlot (y : LaneSt) (slot : Bool) (f : Filter) : LaneSt := if slot then { y with slot1 := f } else { y with slot0 := f }

/-- Retune a slot of the fibres of a mask: it passes no colour until it settles, 400 cycles later. -/
def retune (s : State) (p : Port) (mask : Nat) (slot : Bool) (c : Option (Fin 8)) : State :=
  allLanes.foldl (fun t l =>
    if bitN mask l.val then putLane t p l ((laneOf t p l).putSlot slot ⟨none, some (s.now + 400, c)⟩) else t) s

/-- Is a slot of a fibre due to settle? -/
def slotDue (s : State) (p : Port) (slot : Bool) (l : Lane) : Bool :=
  match ((laneOf s p l).slot slot).settle with
  | some q => decide (q.1 ≤ s.now)
  | none => false

/-- Commands that wait for a slot to settle are done, those of saved jobs among them (R192). -/
def tuned (s : State) (p : Port) (slot : Bool) : State :=
  let go (c : Ctx) : Ctx := { c with cmds := c.cmds.map fun d =>
    match d.prog with
    | .tune q b u => if q = p ∧ b = slot ∧ u ≤ s.now then { d with prog := .done } else d
    | _ => d }
  { s with ctxs := s.ctxs.map go, saved := s.saved.map go }

/-- A retuned slot settles (R192, R280). -/
def execFilterSettled (p : Port) (slot : Bool) (s : State) : Host.Outcome State Fault Refusal :=
  if allLanes.any (slotDue s p slot) then
    .next (tuned (allLanes.foldl (fun t l =>
      if slotDue s p slot l then
        (match ((laneOf t p l).slot slot).settle with
        | some q => putLane t p l ((laneOf t p l).putSlot slot ⟨q.2, none⟩)
        | none => t)
      else t) s) p slot)
  else noEvent "FILTER_SETTLED"

/-- Of two announcements, the older. -/
def older (a b : Option Heard) (h : Heard) : Option Heard :=
  match a with
  | some x => if h.since < x.since then b else a
  | none => b

/-- The colour that the router tunes slot 0 of a port to next: the oldest announcement of traffic for this module, of a colour that
slot 0 does not pass already (R280). -/
def nextColour (x : PortSt) : Option Heard :=
  (x.heard.filter fun h => h.pending && !(allLanes.any fun l => decide ((x.lane l).slot0.colour = some h.colour))).foldl
    (fun best h => older best (some h) h) none

/-- The router retunes slot 0 of every receive fibre of a port (R280). -/
def execSlot0Retune (p : Port) (s : State) : Host.Outcome State Fault Refusal :=
  let x := s.hub.port p
  if allLanes.any fun l => (x.lane l).slot0.settle.isSome then noEvent "SLOT0_RETUNE"
  else
    match nextColour x with
    | none => noEvent "SLOT0_RETUNE"
    | some h =>
      .next (retune (s.setHub (s.hub.putPort p { x with
        heard := x.heard.map fun k => if k.colour = h.colour then { k with since := s.now } else k })) p 255 false (some h.colour))

/-! ## Sending (R285, R287) -/

/-- The module's own fabric ID. -/
def ownFid : Fid := Config.fabricId

/-- A destination never heard of counts from here toward the loss rule (R287, R288). -/
def awaitHearing (l : List (Fid × Nat)) (f : Fid) (now : Nat) : List (Fid × Nat) :=
  if (assocFind l f).isSome then l else assocSet l f now

/-- Is it a marker of a gang switch? -/
def isMarker : PacketBody → Bool
  | .marker => true
  | .resume => true
  | _ => false

/-- A packet with the next sequence number of its (source, destination, channel), handed to the router; none is sent to a module
declared lost. What is handed over of a gang from its markers on gets its number when the switch is over, step 4 of `GRES` done; its markers
go at once
(R306, R319). -/
def sendPacket (s : State) (dst : Fid) (vc : Fin 8) (gang : Fin 4096) (region : Nat) (body : PacketBody) : State :=
  let r := s.router
  if r.lost.contains dst then s
  else if gangMuted s gang.val && !isMarker body then
    s.setRouter { r with later := r.later ++ [⟨ownFid, dst, vc, 0, gang, region, body⟩] }
  else
    let n := assocGet 0 r.txSeq (dst, vc)
    let k : Packet := ⟨ownFid, dst, vc, n, gang, region, body⟩
    let r1 := { r with txSeq := assocSet r.txSeq (dst, vc) (n + 1) }
    if dst = ownFid then s.setRouter { r1 with locals := r1.locals ++ [k] }
    else s.setRouter { r1 with
      out := r1.out ++ [k]
      lastHeard := awaitHearing r1.lastHeard dst s.now }

/-- The gang field of a job's packets (R304). -/
def gangTag (s : State) (c : Ctx) : Fin 4096 := ⟨jobGang s c.card % 4096, Nat.mod_lt _ (by decide)⟩

/-- Send a packet of a job. -/
def sendJob (s : State) (c : Ctx) (dst : Fid) (vc : Fin 8) (body : PacketBody) : State :=
  sendPacket s dst vc (gangTag s c) c.card.region body

/-- Does some lane of a port hear a module (R281)? -/
def portHears (s : State) (p : Port) (f : Fid) : Bool :=
  let x := s.hub.port p
  match colourOf x f with
  | some c => (allLanes.any fun l => (x.lane l).hears) && x.heard.any fun h => decide (h.colour = c)
  | none => false

/-- Where a packet for a module leaves (R287): the port and the next module on its way. -/
def routeOf (s : State) (f : Fid) : Option (Port × Fid) :=
  let w := (assocGet 0 s.hub.routes f).toNat
  let p : Port := ⟨bitsN w 5 0, Nat.mod_lt _ (by decide)⟩
  let q : Port := ⟨bitsN w 25 20, Nat.mod_lt _ (by decide)⟩
  if bitN w 6 && portHears s p f then some (p, f)
  else if bitN w 19 then some (q, fidOf (bitsN w 18 7))
  else none

/-- May a port send to a module now: it is enabled and lit, a lane carries data, and the module's announcements report a slot
that passes this port's colour (R279, R280)? -/
def portOpen (s : State) (p : Port) (hop : Fid) : Bool :=
  let x := s.hub.port p
  (allLanes.any fun l => s.hub.lit p l && ((x.lane l).state == 2 || (x.lane l).state == 4)) &&
    (match colourOf x hop with
    | some c => x.heard.any fun h => decide (h.colour = c) && h.passes.getLsbD (x.cfg.toNat % 8)
    | none => false)

/-- Can the router be used (R15, R323)? -/
def HubSt.routerOn (h : HubSt) : Bool := h.powered && h.rdyHub.getLsbD 4

/-- Does the router forward: while it can be used, and after a fatal error (R327)? -/
def HubSt.forwards (h : HubSt) : Bool := h.powered && (h.rdyHub.getLsbD 4 || h.fatalPorts != 0)

/-- Is some port there by which packets come (R323, R327)? -/
def HubSt.portsOn (h : HubSt) : Bool := (h.rdyPort ||| h.fatalPorts) != 0

/-- May a port send a packet now? -/
def sendable (s : State) (p : Port) (k : Packet) : Bool :=
  (if k.src = ownFid then s.hub.routerOn else s.hub.forwards) && match routeOf s k.dst with
  | some q => decide (q.1 = p) && portOpen s p q.2
  | none => false

/-! ## Own announcements (R280) -/

/-- The modules that this module's announcements on a port name: those for which it holds packets that leave there. -/
def announces (s : State) (p : Port) : List Fid :=
  ((s.router.out.filter fun k => decide ((routeOf s k.dst).map (fun q => q.1) = some p)).map fun k => k.dst).eraseDups

/-- Do this module's announcements on a port report a slot that passes a colour? -/
def passesColour (s : State) (p : Port) (c : Fin 8) : Bool :=
  allLanes.any fun l => decide ((laneOf s p l).slot0.colour = some c) || decide ((laneOf s p l).slot1.colour = some c)

/-! ## Arbitration (R286) -/

/-- The flow of a packet: 0 forward, 1 + region. -/
def flowOf (k : Packet) : Nat := if k.src = ownFid then 1 + k.region else 0

/-- Weight of a flow: that of a region as its last dispatch read it (R251). -/
def flowWeight (s : State) (f : Nat) : Int := if f = 0 then s.hub.fwdw else max 1 (((assocFind s.router.fab (f - 1)).getD 0 : Nat) : Int)

/-- Insert a flow into an ascending list. -/
def insertFlow (f : Nat) : List Nat → List Nat
  | [] => [f]
  | g :: l => if f < g then f :: g :: l else if f = g then g :: l else g :: insertFlow f l

/-- What a channel of a flow holds for a port, in arrival order. -/
def flowQueue (s : State) (p : Port) (f v : Nat) : List Packet :=
  s.router.out.filter fun k => flowOf k == f && k.vc.val == v && decide ((routeOf s k.dst).map (fun q => q.1) = some p)

/-- The packet that a channel of a flow may send: its first, where the port can send it now. -/
def flowHead (s : State) (p : Port) (f v : Nat) : Option Packet := (flowQueue s p f v).head?.filter (sendable s p)

/-- Pending flows of a port in ascending order. -/
def flowsOf (s : State) (p : Port) : List Nat :=
  (s.router.out.foldl (fun l k => insertFlow (flowOf k) l) []).filter fun f => (List.range 8).any fun v => (flowHead s p f v).isSome

/-- The cyclic order of the flows from the one after the last winner. -/
def flowCycle (flows : List Nat) (last : Option Nat) : List Nat :=
  match last with
  | none => flows
  | some w => (flows.filter fun f => decide (w < f)) ++ flows.filter fun f => decide (f ≤ w)

/-- The credits of R167 before the winner pays, and the winner. -/
def flowPick (s : State) (x : PortSt) (flows : List Nat) : List (Nat × Int) × Option Nat :=
  let cr := flows.map fun f => (f, assocGet 0 x.credit f + flowWeight s f)
  (cr, (flowCycle flows x.lastWin).foldl (fun best f =>
    match best with
    | none => some f
    | some b => if assocGet 0 cr b < assocGet 0 cr f then some f else some b) none)

/-- The packet a flow sends: its channels take turns in ascending order, each in arrival order. -/
def flowPacket (s : State) (p : Port) (f : Nat) (last : Option Nat) : Option Packet :=
  let vcs := match last with
    | some v => (List.range 8).map fun i => (v + 1 + i) % 8
    | none => List.range 8
  vcs.findSome? (flowHead s p f)

/-- What copies of a multicast share: everything but the destination and the members it names (R280). -/
def castBody : PacketBody → PacketBody
  | .result key _ code lost flags part parts bytes => .result key [] code lost flags part parts bytes
  | b => b

/-- May two packets be copies of one multicast? -/
def isMulticast (b : PacketBody) : Bool :=
  isMarker b || match b with
    | .result .. => true
    | _ => false

/-- Are two packets delivered by one transmission? -/
def sameCast (a b : Packet) : Bool :=
  decide (a = b) || (isMulticast a.body && decide (a.src = b.src) && decide (a.dst ≠ b.dst) && decide (a.vc = b.vc) && decide (a.gang = b.gang) &&
    decide (castBody a.body = castBody b.body))

/-- What one transmission delivers: a packet and the copies of its multicast behind it that the port can send too (R280). -/
def castOf (s : State) (p : Port) (f : Nat) (k : Packet) : List Packet :=
  ((flowQueue s p f k.vc.val).takeWhile (sameCast k)).filter (sendable s p)

/-- A port grants one packet (R286); a multicast leaves in one transmission to every member that the port can send to. -/
def execPortGrant (p : Port) (s : State) : Host.Outcome State Fault Refusal :=
  let flows := flowsOf s p
  let x := s.hub.port p
  match flowPick s x flows with
  | (_, none) => noEvent "PORT_GRANT"
  | (cr, some f) =>
    match flowPacket s p f (assocFind x.turn f) with
    | none => noEvent "PORT_GRANT"
    | some k =>
      let sum := flows.foldl (fun n g => n + flowWeight s g) 0
      let go := castOf s p f k
      .next ((s.setHub (s.hub.putPort p { x with
          credit := assocSet cr f (assocGet 0 cr f - sum), lastWin := some f, turn := assocSet x.turn f k.vc.val })).setRouter
        { s.router with
          out := s.router.out.filter fun j => !(go.any fun i => decide (i = j))
          sent := s.router.sent ++ go.map fun i => (p, i) })

/-! ## Drops -/

/-- Log a dropped or late packet with its source and sequence number (Table 20.6). -/
def logPacket (s : State) (kind : Nat) (k : Packet) : State :=
  rasLog s kind k.seq.toNat (k.src.val * 2 ^ 28 + 2 ^ 40) 1

/-- Does a packet go to a module declared lost? -/
def toLost (s : State) (k : Packet) : Bool := s.router.lost.contains k.dst

end Sys2Proof.Machine
end

