-- ==== Sys2Proof/Machine/Collect.lean ====
section
/-! DEFINITION. N commands with a descriptor in a handle row (R186, R193), push-mode reductions and the reduction memory
(R195, R297, R316), the Welt combine (R196, R298). -/

namespace Sys2Proof.Machine

/-! ## Descriptors and status words -/

/-- The first `n` stored bytes of the row of a row value (R186): sub-reason 16 where the handle has no such row, or its row is too
short. -/
def nBlock (s : State) (c : Ctx) (h : HId) (sv n : Nat) : Got (List Byte) :=
  match c.handle h with
  | some y =>
    if y.kind = .tile ∧ svRow sv < y.rows ∧ n ≤ rowBytes (handleFmt s c y) y.cols then .ok (y.bytes (svRow sv) 0 n) else aFault 16 h
  | none => aFault 16 h

/-- Write stored bytes of a handle row. -/
def nPut (s : State) (x : CtxId) (h : HId) (row off : Nat) (bs : List Byte) : State :=
  s.mapCtx x fun c => match c.handle h with
    | some y => c.putHandle (y.store row off bs)
    | none => c

/-- The completion status word (Table 9.4). -/
def statusBytes (code rank : Nat) : List Byte := leBytes 4 (code % 256 + (if code = 2 then rank % 4096 * 256 else 0))

/-- The handle and kind of a collective: its handle and the place of its status word in the row. -/
def statusPlace (i : Instr) : Option (HId × Nat) :=
  match i with
  | .trav _ h _ => some (h, 252)
  | .pushr _ h _ _ => some (h, 28)
  | .ncomb _ h _ => some (h, 28)
  | _ => none

/-- Write the status word of a collective. -/
def putStatus (s : State) (x : CtxId) (d : Cmd) (code rank : Nat) : State :=
  match statusPlace d.word with
  | some p => nPut s x p.1 (svRow d.sval.toNat) p.2 (statusBytes code rank)
  | none => s

/-- An answer as a state: a failing check traps the command; none where an HBM stack is not ready. -/
def Got.cmd (g : Got State) (s : State) (x : CtxId) (d : Cmd) : Option State :=
  match g with
  | .ok t => some t
  | .fail a b e => some (cmdTrap s x d ⟨a, b, queueEng d.q, e⟩)
  | .stall => none

/-- A collective ends (R193, R195): its flags join those of its stream, the status is written, and after that it arrives once; then it
leaves its queue. A failing arrival traps after the status (log 93). -/
def endCollective (s : State) (x : CtxId) (d : Cmd) (code rank : Nat) (fl : FFlags) (cell : Option (HId × Nat)) : Option State :=
  let t := putStatus (s.mapCtx x fun c => c.putStream d.src ((c.stream d.src).orFlags fl)) x d code rank
  match cell with
  | none => some (t.putCmd x { d with prog := .done })
  | some q => ((cmdArrive t x d q).bind fun r => .ok (r.1.putCmd x { r.2 with prog := .done })).cmd t x d

/-- A write of an N command to a D-region in record or reverse mode raises an adjoint-mode trap (Table 9.10). -/
def nRegion (c : Ctx) (va n : Nat) : Got Unit :=
  if c.dmode = 0 then .ok ()
  else
    match c.dregs.find? fun r => r.touches va n with
    | some r => .fail 7 r.idx.val 0
    | none => .ok ()

/-- Elements of a handle counted from column 0 of a row, running on into the following rows. -/
def Handle.runOn (x : Handle) (f : Fin 16) (row e : Nat) : Nat := x.raw f (row + e / max 1 x.cols) (e % max 1 x.cols)

/-! ## `PUSHR` (R195) -/

/-- A push descriptor (Table 9.5). -/
structure PushDesc where
  arv : Bool
  cell : HId × Nat
  rank : Nat
  need : Nat
  home : Fid
  grp : Nat
  count : Nat
  dst : Option EndPoint
  src : Option EndPoint

def hrow (v lo : Nat) : HId × Nat := (⟨bitsN v (lo + 16) (lo + 9) % 256, Nat.mod_lt _ (by decide)⟩, bitsN v (lo + 8) lo)

def pushDesc (bs : List Byte) : PushDesc :=
  let v := leValue bs
  { arv := bitN v 213, cell := hrow v 196, rank := bitsN v 195 184, need := bitsN v 183 172, home := fidOf (bitsN v 171 160)
    grp := bitsN v 159 144, count := bitsN v 143 128, dst := endPoint (bitsN v 127 64), src := endPoint (bitsN v 63 0) }

/-- Element format that an operator requires, and its width. -/
def opFmt (o : PushOp) : Fin 16 := if o = .add64 then 11 else 10
def opWidth (o : PushOp) : Nat := if o = .add64 then 8 else 4

/-- Check an endpoint of `n` contiguous elements (R195). -/
def pushEnd (s : State) (c : Ctx) (h : HId) (o : PushOp) (n : Nat) (e : Option EndPoint) : Got EndPoint :=
  match e with
  | none => aFault 16 h
  | some (.mem va) => if va % opWidth o ≠ 0 then aFault 16 h else .ok (.mem va)
  | some (.hnd g r) =>
    match c.handle g with
    | none => aFault 16 h
    | some y =>
      if y.kind ≠ .tile ∨ y.rows ≤ r then aFault 16 h
      else if handleFmt s c y ≠ opFmt o then aFault 11 h
      else if y.cols < n then aFault 10 h
      else .ok (.hnd g r)

/-- Stored bytes of an endpoint. -/
def endLoad (s : State) (c : Ctx) (w : Who) (n : Nat) (e : EndPoint) : Got (List Byte × State) :=
  match e with
  | .mem va => loadVirt s w .load false va n
  | .hnd g r => .ok (((c.handle g).map fun y => y.bytes r 0 n).getD [], s)

/-- Write bytes at an endpoint. -/
def endStore (s : State) (x : CtxId) (w : Who) (e : EndPoint) (bs : List Byte) : Got State :=
  match e with
  | .mem va => storeVirt s w .store false va bs
  | .hnd g r => .ok (nPut s x g r 0 bs)

/-- Payloads of 256 bytes; the last holds what remains (R316). -/
def payloads (bs : List Byte) : List (List Byte) :=
  (List.range ((bs.length + 255) / 256)).map fun i => (bs.drop (256 * i)).take 256

/-- Rows that the endpoints of a push descriptor name (Table 9.1): those read and those written. -/
def pushRows (q : PushDesc) : List RowSet × List RowSet :=
  let rows (e : Option EndPoint) : List RowSet := match e with
    | some (.hnd g r) => [⟨g, r, r⟩]
    | _ => []
  (rows q.src, rows q.dst ++ if q.arv then [⟨q.cell.1, q.cell.2, q.cell.2⟩] else [])

/-- The row that a row value names. -/
def nRow (h : HId) (v : Nat) : RowSet := ⟨h, svRow v, svRow v⟩

/-- Start a `PUSHR`: its checks, and its source. -/
def startPush (s : State) (c : Ctx) (d : Cmd) (h : HId) (o : PushOp) : Got State :=
  (nBlock s c h d.sval.toNat 32).bind fun bs =>
    let q := pushDesc bs
    if bitsN (leValue bs) 223 214 ≠ 0 ∨ q.need < q.rank then aFault 16 h
    else
      let n := q.count + 1
      (pushEnd s c h o n q.src).bind fun src =>
      (pushEnd s c h o n q.dst).bind fun dst =>
      (match dst with
        | .mem va => nRegion c va (n * opWidth o)
        | _ => Got.ok ()).bind fun _ =>
      (endLoad s c (whoCmd s c d) (n * opWidth o) src).bind fun r =>
        let ps := payloads r.1
        let sets := pushRows q
        .ok ((putStatus r.2 c.id d 0 0).putCmd c.id { d with
          reads := nRow h d.sval.toNat :: sets.1, writes := sets.2
          prog := .push ⟨bs, [], 0, if s.router.lost.contains q.home then 3 else 0, 0, 0, ps, ps.length⟩ })

/-- Operator of a push. -/
def pushOp (i : Instr) : PushOp :=
  match i with
  | .pushr _ _ _ o => o
  | _ => .add

/-- A push in progress hands its next packet to the router (R308, R316). -/
def pushSend (s : State) (c : Ctx) (d : Cmd) (p : PushSt) : Option State :=
  match (if gangReadable s then p.todo else []) with
  | [] => none
  | b :: l =>
    let q := pushDesc p.desc
    let u := sendJob s c q.home 0 (.contrib (.push q.grp (pushOp d.word)) c.id [] q.rank q.need q.count (p.total - (l.length + 1)) p.total b)
    some (u.putCmd c.id { d with prog := .push { p with todo := l } })

/-- The bytes of a result whose parts have all come. -/
def joinParts (l : List (Nat × List Byte)) (n : Nat) : List Byte := (List.range n).flatMap fun i => assocGet [] l i

/-- A member writes the result. -/
def writePush (s : State) (c : Ctx) (d : Cmd) (p : PushSt) : Got State :=
  match (pushDesc p.desc).dst with
  | some e => if p.code = 3 ∨ p.nparts = 0 then .ok s else endStore s c.id (whoCmd s c d) e (joinParts p.parts p.nparts)
  | none => .ok s

/-- A member writes the result, its status, and arrives (R193, R195). The result is written once: a command whose arrival traps has it
behind it. -/
def finishPush (s : State) (c : Ctx) (d : Cmd) (p : PushSt) : Option State :=
  let q := pushDesc p.desc
  match writePush s c d p with
  | .ok t =>
    let e := { ((t.ctx c.id).bind fun x => x.cmd d.seq).getD d with prog := .push { p with parts := [], nparts := 0 } }
    endCollective (t.putCmd c.id e) c.id e p.code p.lostRank (if p.code = 3 then 0 else p.flags) (if q.arv then some q.cell else none)
  | .fail a b e => some (cmdTrap s c.id d ⟨a, b, queueEng d.q, e⟩)
  | .stall => none

/-- A command of a context that runs, by its reference. -/
def runningCmd (s : State) (x : CmdRef) : Option (Ctx × Cmd) :=
  match s.ctx x.ctx with
  | some c => if cmdsRun c then (c.cmd x.seq).map fun d => (c, d) else none
  | none => none

/-- `PUSHR_COMPLETE` (R193). -/
def execPushrComplete (x : CmdRef) (s : State) : Host.Outcome State Fault Refusal :=
  match runningCmd s x with
  | some (c, d) =>
    match d.prog with
    | .push p =>
      if p.code = 0 then noEvent "PUSHR_COMPLETE"
      else
        match finishPush s c d p with
        | some t => .next t
        | none => noEvent "PUSHR_COMPLETE"
    | _ => noEvent "PUSHR_COMPLETE"
  | none => noEvent "PUSHR_COMPLETE"

/-! ## The reduction memory (R297) -/

/-- Bytes of the reduction memory. -/
def reductionSize : Nat := 2 ^ 26

/-- Operator of a group; that of a Traverse reduction stands in its box number, as first contributor × 4 + operator. -/
def keyOp : GroupKey → PushOp
  | .push _ o => o
  | .trav _ _ _ box => match box % 4 with
    | 0 => .add
    | 1 => .max
    | 2 => .min
    | _ => .add64

/-- Bytes that a group holds: its accumulator, and each contribution that has come ahead of its turn (R297). -/
def Group.bytes (g : Group) : Nat :=
  (g.count + 1) * opWidth (keyOp g.key) * (1 + (g.early.filter fun e => e.rank != g.next).length)

def reductionUsed (r : RouterSt) : Nat := r.groups.foldl (fun n g => n + g.bytes) 0

/-- Fold an element: bits of the accumulator and of the contribution (R195). -/
def foldElem (o : PushOp) (a x : Nat) : Nat × FFlags :=
  match o with
  | .add => let r := Num.add .rne (f32.decode a) (f32.decode x); let y := f32.convert .rne false r.1; (y.1, r.2 ||| y.2)
  | .add64 => let r := Num.add .rne (f64.decode a) (f64.decode x); let y := f64.convert .rne false r.1; (y.1, r.2 ||| y.2)
  | .max => elemMin false .F a x
  | .min => elemMin true .F a x

/-- Fold a contribution into an accumulator: `n` elements of `w` bytes. -/
def foldBytes (o : PushOp) (w : Nat) (acc xs : List Byte) (fl : FFlags) : Nat → List Byte × FFlags
  | 0 => ([], fl)
  | n + 1 =>
    let r := foldElem o (leValue (acc.take w)) (leValue (xs.take w))
    let t := foldBytes o w (acc.drop w) (xs.drop w) (fl ||| r.2) n
    (leBytes w r.1 ++ t.1, t.2)

/-- Payload of a contribution. -/
def contribBytes (k : Packet) : List Byte :=
  match k.body with
  | .contrib _ _ _ _ _ _ _ _ b => b
  | _ => []

/-- Have all the parts of a contribution come? -/
def Contrib.whole (x : Contrib) : Bool := decide (x.parts ≤ x.got.length)

def Contrib.bytes (x : Contrib) : List Byte :=
  (List.range x.parts).flatMap fun i => ((assocFind x.got i).map contribBytes).getD []

/-- Fold every contribution whose turn has come, in ascending rank (R195). -/
def foldGroup (g : Group) : Nat → Group
  | 0 => g
  | n + 1 =>
    match g.early.find? fun e => e.rank == g.next && e.whole with
    | none => g
    | some e =>
      let o := keyOp g.key
      let r := if g.next = 0 then (e.bytes, g.flags) else foldBytes o (opWidth o) g.acc e.bytes g.flags (g.count + 1)
      foldGroup { g with
        acc := r.1, flags := r.2, next := g.next + 1
        early := g.early.filter fun i => i.rank != e.rank
        folded := g.folded ++ [(e.rank, e.src, e.frm)] } n

/-- The members of a group on a module that a result goes to: the ranks that share the box of a Traverse reduction, or the
contributors of a push (R195, R294). -/
def groupMembers (g : Group) (f : Fid) : List (CtxId × Nat) :=
  match g.key with
  | .trav .. => (g.dst.filter fun m => decide (m.1 = f)).map fun m => (m.2, 0)
  | .push .. => (g.folded.filter fun m => decide (m.2.1 = f)).map fun m => (m.2.2, m.1)

/-- The modules that a result goes to, each once. -/
def groupModules (g : Group) : List Fid :=
  match g.key with
  | .trav .. => (g.dst.map fun m => m.1).eraseDups
  | .push .. => (g.folded.map fun m => m.2.1).eraseDups

/-- Send the parts of a result, each to every member module. -/
def sendResult (s : State) (g : Group) (ps : List (List Byte)) (i : Nat) : List (List Byte) → State
  | [] => s
  | p :: l => sendResult ((groupModules g).foldl (fun t f =>
      sendPacket t f g.vc g.gang g.region (.result g.key (groupMembers g f) g.code g.lostRank g.flags i ps.length p)) s) g ps (i + 1) l

/-- Replace a group. -/
def putGroup (s : State) (g : Group) : State :=
  s.setRouter { s.router with groups := g :: s.router.groups.filter fun x => decide (x.key ≠ g.key) }

/-- Has every contribution of a group been folded? -/
def Group.full (g : Group) : Bool := decide (g.need < g.next)

/-- Is a packet one of a group's result? -/
def ofResult (key : GroupKey) (k : Packet) : Bool :=
  decide (k.src = ownFid) && (match k.body with
    | .result key1 _ _ _ _ _ _ _ => decide (key1 = key)
    | _ => false)

/-- A group whose last contribution has been folded is multicast; it frees its memory once the multicast has been handed on to every
member (R195, R297). A stopped gang's group stays as it is (R317). -/
def groupMove (s : State) (g : Group) : Option State :=
  if !g.full then none
  else if !g.cast then
    (if g.gang ≠ 0 ∧ gangState s g.gang.val ≠ 0 ∧ gangState s g.gang.val ≠ 3 then none
     else some (sendResult (putGroup s { g with cast := true }) g (payloads g.acc) 0 (payloads g.acc)))
  else if (s.router.out ++ s.router.locals ++ s.router.later).any (ofResult g.key) then none
  else some (s.setRouter { s.router with groups := s.router.groups.filter fun x => decide (x.key ≠ g.key) })

/-- Reject a contribution: its sender's command ends with code 3. -/
def rejectContrib (s : State) (k : Packet) (key : GroupKey) (frm : CtxId) (rank : Nat) : State :=
  sendPacket s k.src k.vc k.gang k.region (.reject key frm rank 3)

/-- Is a key closed after a loss? -/
def keyClosed (s : State) (key : GroupKey) : Bool :=
  match assocFind s.router.closed key with
  | some t => decide (s.now < t)
  | none => false

/-- Add a part to the contributions of a group. -/
def addPart (l : List Contrib) (k : Packet) (frm : CtxId) (rank part parts : Nat) : List Contrib :=
  match l.find? fun e => e.rank == rank with
  | some e => { e with got := assocSet e.got part k } :: l.filter fun i => i.rank != rank
  | none => ⟨rank, k.src, frm, parts, [(part, k)]⟩ :: l

/-- A part of a contribution reaches its home router; none: flow control holds it back (R297). A second contribution of a rank that the
open group has already waits for the group to end (log 40). -/
def arriveContrib (s : State) (k : Packet) (key : GroupKey) (frm : CtxId) (dst : List (Fid × CtxId)) (rank need count part parts : Nat) :
    Option State :=
  if keyClosed s key then some (rejectContrib s k key frm rank)
  else
    match s.router.groups.find? fun g => decide (g.key = key) with
    | none =>
      let g : Group := ⟨key, need, count, 0, [], 0, addPart [] k frm rank part parts, [], dst, k.vc, k.gang, k.region, 1, 0, false⟩
      if reductionSize < reductionUsed s.router + g.bytes then none else some (putGroup s (foldGroup g (need + 1)))
    | some g =>
      if g.need ≠ need ∨ g.count ≠ count then some (rejectContrib s k key frm rank)
      else if (g.folded.any fun m => m.1 == rank) || (g.early.any fun e => e.rank == rank && (assocFind e.got part).isSome) then none
      else
        let g1 := { g with early := addPart g.early k frm rank part parts }
        if g.bytes < g1.bytes ∧ reductionSize < reductionUsed s.router + (g1.bytes - g.bytes) then none
        else some (putGroup s (foldGroup g1 (need + 1)))

/-- A closed key is free again (R297). -/
def execPushKeyReopen (k : GroupKey) (s : State) : Host.Outcome State Fault Refusal :=
  match assocFind s.router.closed k with
  | some t =>
    if t ≤ s.now then .next (s.setRouter { s.router with closed := assocDel s.router.closed k }) else noEvent "PUSH_KEY_REOPEN"
  | none => noEvent "PUSH_KEY_REOPEN"

/-- Contributors of a group that are known: rank, module, job. -/
def groupKnown (g : Group) : List (Nat × Fid × CtxId) := g.folded ++ g.early.map fun e => (e.rank, e.src, e.frm)

/-- End an open group after a loss: every surviving member that it knows gets code 3, and the key stays closed (R297). -/
def endGroup (s : State) (g : Group) (lost : Fid × CtxId → Bool) : State :=
  let t := s.setRouter { s.router with
    groups := s.router.groups.filter fun x => decide (x.key ≠ g.key)
    closed := assocSet s.router.closed g.key (s.now + 262144) }
  let ms := (groupKnown g).map (fun m => (m.2, m.1)) ++ g.dst.map fun m => (m, 0)
  ms.foldl (fun u m => if lost m.1 then u else sendPacket u m.1.1 g.vc g.gang g.region (.reject g.key m.1.2 m.2 3)) t

/-- The lower of a lost rank known before and another. -/
def lowerRank (code old r : Nat) : Nat := if code = 2 then min old r else r

/-- A packet of a group's result that has not been handed on, with the end that the group takes. -/
def recode (g : Group) (k : Packet) : Packet :=
  match k.body with
  | .result key ms _ _ fl part parts bs =>
    if k.src = ownFid ∧ key = g.key then { k with body := .result key ms g.code g.lostRank fl part parts bs } else k
  | _ => k

/-- An open group after a loss (R297): one that has every contribution completes, with code 2 where the lost member gave one; another
ends. What is still to be handed on of a multicast takes the code, too. -/
def groupLost (s : State) (g : Group) (lost : Fid × CtxId → Bool) : State :=
  if !g.full then endGroup s g lost
  else
    match (g.folded.filter fun m => lost m.2).map fun m => m.1 with
    | [] => s
    | r :: l =>
      let g1 := { g with code := 2, lostRank := lowerRank g.code g.lostRank (l.foldl min r) }
      let t := putGroup s g1
      if g.cast then
        t.setRouter { t.router with
          out := t.router.out.map (recode g1), locals := t.router.locals.map (recode g1)
          waitq := t.router.waitq.map (recode g1), later := t.router.later.map (recode g1) }
      else t

/-! ## `NCOMB` (R196, R298) -/

/-- A combine descriptor (Table 9.6). -/
structure CombDesc where
  cell : Option (HId × Nat)
  k : Nat
  t : Nat
  h : Nat
  out : HId × Nat
  idx : HId × Nat
  gate : HId × Nat
  inp : HId × Nat

def combDesc (bs : List Byte) : CombDesc :=
  let v := leValue bs
  { cell := if bitN v 99 then some (hrow v 100) else none, k := bitsN v 98 96 + 1, t := bitsN v 95 84 + 1, h := bitsN v 83 68 + 1
    out := hrow v 51, idx := hrow v 34, gate := hrow v 17, inp := hrow v 0 }

/-- A tile handle with a row; sub-reason 16 names the command's handle. -/
def combHandle (c : Ctx) (h : HId) (p : HId × Nat) : Got Handle :=
  match c.handle p.1 with
  | some y => if y.kind = .tile ∧ p.2 < y.rows then .ok y else aFault 16 h
  | none => aFault 16 h

/-- The checks of a combine: formats, and rows that hold every element (sub-reason 11). -/
def combCheck (s : State) (c : Ctx) (h : HId) (q : CombDesc) : Got Unit :=
  (combHandle c h q.inp).bind fun i =>
  (combHandle c h q.gate).bind fun g =>
  (combHandle c h q.idx).bind fun x =>
  (combHandle c h q.out).bind fun o =>
    let n := q.t * q.k
    if handleFmt s c i ≠ 10 ∨ handleFmt s c g ≠ 10 ∨ handleFmt s c x ≠ 2 then aFault 11 h
    else if i.cols < q.h ∨ o.cols < q.h ∨ i.rows < q.inp.2 + n ∨ o.rows < q.out.2 + q.t then aFault 11 h
    else if (g.rows - q.gate.2) * g.cols < n ∨ (x.rows - q.idx.2) * x.cols < n then aFault 11 h
    else .ok ()

/-- Insert a slot into a list ascending by (index, slot). -/
def insertSlot (a : Nat × Nat) : List (Nat × Nat) → List (Nat × Nat)
  | [] => [a]
  | b :: l => if a.1 < b.1 ∨ (a.1 = b.1 ∧ a.2 < b.2) then a :: b :: l else b :: insertSlot a l

/-- The sum of one output element: gate and value of each slot, in order. -/
def combSum (l : List (Num × Num)) : Num × FFlags :=
  l.foldl (fun a p =>
    let m := rne32 (Num.mul p.1 p.2)
    let r := rne32 (Num.add .rne a.1 m.1)
    (r.1, a.2 ||| m.2 ||| r.2)) (.zero, fNone)

/-- Combine a token: its output row. -/
def combToken (q : CombDesc) (i g x : Handle) (t : Nat) : List (Num × FFlags) :=
  let order := (List.range q.k).foldl (fun l j => insertSlot (x.runOn 2 q.idx.2 (t * q.k + j), j) l) []
  (List.range q.h).map fun col => combSum (order.map fun a =>
    (f32.decode (g.runOn 10 q.gate.2 (t * q.k + a.2)), f32.decode (i.raw 10 (q.inp.2 + t * q.k + a.2) col)))

/-- Combine token `t` into its output row: the state and the flags. Where H ends inside a granule of the output's format, what the columns
from H on hold is not stated: those of the granule are filled with +0 (log 102). -/
def combOne (s : State) (x : CtxId) (q : CombDesc) (satfp : Bool) (t : Nat) : State × FFlags :=
  match (s.ctx x).bind fun c => c.handle q.inp.1, (s.ctx x).bind fun c => c.handle q.gate.1, (s.ctx x).bind fun c => c.handle q.idx.1,
    s.ctx x with
  | some i, some g, some y, some c =>
    (match c.handle q.out.1 with
    | some o =>
      let row := combToken q i g y t
      let r := numsRow (handleFmt s c o) (handleSplit s c o).val satfp false (row.map fun a => a.1)
      (nPut s x q.out.1 (q.out.2 + t) 0 r.1, row.foldl (fun f a => f ||| a.2) r.2)
    | none => (s, 0))
  | _, _, _, _ => (s, 0)

/-- Rows that a combine names (Table 9.1). -/
def combRows (c : Ctx) (q : CombDesc) : List RowSet × List RowSet :=
  let n := q.t * q.k
  let run (p : HId × Nat) : RowSet := match c.handle p.1 with
    | some y => ⟨p.1, p.2, p.2 + (n - 1) / max 1 y.cols⟩
    | none => ⟨p.1, p.2, p.2⟩
  ([⟨q.inp.1, q.inp.2, q.inp.2 + n - 1⟩, run q.gate, run q.idx],
    ⟨q.out.1, q.out.2, q.out.2 + q.t - 1⟩ :: match q.cell with
      | some e => [⟨e.1, e.2, e.2⟩]
      | none => [])

/-- Start an `NCOMB`. -/
def startComb (s : State) (c : Ctx) (d : Cmd) (h : HId) : Got State :=
  (nBlock s c h d.sval.toNat 32).bind fun bs =>
    if bitsN (leValue bs) 223 117 ≠ 0 then aFault 16 h
    else
      (combCheck s c h (combDesc bs)).bind fun _ =>
        let sets := combRows c (combDesc bs)
        .ok ((putStatus s c.id d 0 0).putCmd c.id { d with
          reads := nRow h d.sval.toNat :: sets.1, writes := sets.2, prog := .ncomb bs s.fresh 0 0 })

/-- Does another combine of the core come first (R298)? -/
def combWaits (s : State) (x : CtxId) (start : Nat) : Bool :=
  s.ctxs.any fun c => decide (c.id.core = x.core) && c.cmds.any fun e =>
    match e.prog with
    | .ncomb _ n _ _ => decide (n < start)
    | _ => false

/-- Welt combines the next token (R298, R308): none where another combine of the core comes first, or no token is left. -/
def combStep (s : State) (c : Ctx) (d : Cmd) (bs : List Byte) (start token : Nat) (fl : FFlags) : Option State :=
  let q := combDesc bs
  if combWaits s c.id start || decide (q.t ≤ token) then none
  else
    let r := combOne s c.id q (c.stream d.src).satfp token
    some (r.1.putCmd c.id { d with prog := .ncomb bs start (token + 1) (fl ||| r.2) })

/-- Welt has combined every token: status 1 and arrival. -/
def execNcombComplete (x : CmdRef) (s : State) : Host.Outcome State Fault Refusal :=
  match runningCmd s x with
  | some (c, d) =>
    match d.prog with
    | .ncomb bs _ token fl =>
      let q := combDesc bs
      if token < q.t then noEvent "NCOMB_COMPLETE"
      else
        (match endCollective s c.id d 1 0 fl q.cell with
        | some t => .next t
        | none => noEvent "NCOMB_COMPLETE")
    | _ => noEvent "NCOMB_COMPLETE"
  | none => noEvent "NCOMB_COMPLETE"

/-! ## Words -/

/-- Issue an N word: check 10 of its handle and row (R58), then the N queue. -/
def nBody (i : Instr) (h : HId) (x : SReg) (sets : Ctx → Nat → List RowSet × List RowSet) (paths : BitVec 5) (w : At) (t : State) : Res :=
  let v := w.arg x
  match check10 w.cx h .tile (svRow v.toNat) with
  | none => .trap t (badHandle i h)
  | some _ => let r := sets w.cx v.toNat; enqueue w t (w.cmd .N i v r.1 r.2 paths)

/-- Stored descriptor bytes at issue, for the access set. -/
def nPeek (c : Ctx) (h : HId) (v : Nat) : List Byte :=
  match c.handle h with
  | some y => if svRow v < y.rows then y.bytes (svRow v) 0 32 else []
  | none => []

/-- Every row of every tile and cell handle (Table 9.1). -/
def allRows (c : Ctx) : List RowSet := (c.handles.filter fun y => decide (y.kind ≠ .chain)).map fun y => wholeHandle y.id

/-- The access set that a descriptor gives. While a command issued earlier may still write the descriptor's row, the rows that it names
are not known: until the command starts it is taken to use every row (log 98). -/
def descSets (h : HId) (sets : Ctx → List Byte → List RowSet × List RowSet) (c : Ctx) (v : Nat) : List RowSet × List RowSet :=
  if c.issued.any fun e => setsMeet [nRow h v] e.writes then (allRows c, allRows c)
  else
    let r := sets c (nPeek c h v)
    (nRow h v :: r.1, r.2)

/-- Access set of `PUSHR` (Table 9.1). -/
def pushSets (h : HId) (c : Ctx) (v : Nat) : List RowSet × List RowSet := descSets h (fun _ bs => pushRows (pushDesc bs)) c v

/-- Access set of `NCOMB` (Table 9.1). -/
def combSets (h : HId) (c : Ctx) (v : Nat) : List RowSet × List RowSet := descSets h (fun c bs => combRows c (combDesc bs)) c v

/-- `PUSHR` (R195). -/
def execPushr (g : Guard) (h : HId) (x : SReg) (o : PushOp) (s : State) : Host.Outcome State Fault Refusal :=
  issue s (.pushr g h x o) (nBody (.pushr g h x o) h x (pushSets h) (onPath .fabric))

/-- `NCOMB` (R196). -/
def execNcomb (g : Guard) (h : HId) (x : SReg) (s : State) : Host.Outcome State Fault Refusal :=
  issue s (.ncomb g h x) (nBody (.ncomb g h x) h x (combSets h) 0)

end Sys2Proof.Machine
end

