-- ==== Sys2Proof/Machine/Traverse.lean ====
section
/-! DEFINITION. Traverse: parameter block, layouts, rank table, pieces, the exchange between ranks, reductions and the ring pattern
(R194, R289-R296, R300). -/

namespace Sys2Proof.Machine

/-! ## The parameter block (R289, R290) -/

/-- A parameter block (Table 16.3): sizes of dimensions and mesh axes, layout words. -/
structure TravDesc where
  id : Nat
  dims : List Nat
  sizes : List Nat
  src : List Nat
  dst : List Nat
  spart : Nat
  fmt : Fin 16
  mode : Nat
  vc : Fin 8
  ring : Option Nat
  ranks : Nat
  cell : Option (HId × Nat)

def travDesc (bs : List Byte) : TravDesc :=
  let v := leValue bs
  let nd := bitsN v 245 244 + 1
  { id := bitsN v 815 800
    dims := (List.range nd).map fun d => bitsN v (32 * d + 31) (32 * d)
    sizes := (List.range 4).map fun a => bitsN v (12 * a + 203) (12 * a + 192) + 1
    src := (List.range nd).map fun d => bitsN v (64 * d + 351) (64 * d + 288)
    dst := (List.range nd).map fun d => bitsN v (64 * d + 607) (64 * d + 544)
    spart := bitsN v 287 284
    fmt := nib (bitsN v 243 240)
    mode := bitsN v 250 248
    vc := ⟨bitsN v 253 251 % 8, Nat.mod_lt _ (by decide)⟩
    ring := if bitN v 254 then some (bitsN v 257 256) else none
    ranks := bitsN v 191 128
    cell := if bitN v 255 then some (hrow v 264) else none }

/-- Mesh axis of a layout word; none for 7. -/
def layAxis (w : Nat) : Option Nat := if w % 8 < 4 then some (w % 8) else none

/-- Is a layout word well formed? -/
def layOk (w : Nat) : Bool := (w % 8 < 4 || w % 8 == 7) && bitsN w 31 3 == 0 && !bitN w 63

/-- Does a list name something twice? -/
def hasTwice : List Nat → Bool
  | [] => false
  | a :: l => l.contains a || hasTwice l

/-- Does a block keep R290? -/
def travOk (bs : List Byte) : Bool :=
  let v := leValue bs
  let q := travDesc bs
  let nd := q.dims.length
  bitsN v 2015 816 == 0 && bitsN v 283 281 == 0 && bitsN v 263 258 == 0 && bitsN v 247 246 == 0 && decide (q.mode ≤ 4) &&
  decide (q.sizes.foldl (fun n a => n * a) 1 ≤ 4096) &&
  ((List.range 4).all fun d => d < nd || (bitsN v (32 * d + 31) (32 * d) == 0 && bitsN v (64 * d + 351) (64 * d + 288) == 0 &&
    bitsN v (64 * d + 607) (64 * d + 544) == 0)) &&
  (q.dims.all fun n => 1 ≤ n && n < 2 ^ 31) && q.src.all layOk && q.dst.all layOk &&
  !hasTwice (q.src.filterMap layAxis) && !hasTwice (q.dst.filterMap layAxis) &&
  !((q.src.filterMap layAxis).any fun a => bitN q.spart a) &&
  ((q.spart == 0) == (q.mode == 0)) && !isBx q.fmt &&
  (if q.mode = 0 then true else if q.mode = 4 then q.fmt == 11 else q.fmt == 10) &&
  !(q.ring.isSome && q.spart != 0)

/-! ## Ranks and layouts (R291, R292) -/

/-- Number of ranks. -/
def TravDesc.count (q : TravDesc) : Nat := q.sizes.foldl (fun n a => n * a) 1

/-- Mesh coordinates of a rank. -/
def coordsOf (r : Nat) : List Nat → List Nat
  | [] => []
  | p :: l => r % p :: coordsOf (r / p) l

def TravDesc.coord (q : TravDesc) (r a : Nat) : Nat := (coordsOf r q.sizes).getD a 0

/-- Rank of mesh coordinates. -/
def rankOf : List Nat → List Nat → Nat
  | p :: ps, c :: cs => c + p * rankOf ps cs
  | _, _ => 0

/-- Axis size and block of a layout word along a dimension of `n`. -/
def layBlock (q : TravDesc) (n w : Nat) : Nat × Nat :=
  match layAxis w with
  | none => (1, max 1 n)
  | some a =>
    let p := q.sizes.getD a 1
    (p, if bitsN w 62 32 = 0 then max 1 (ceilDiv n p) else bitsN w 62 32)

/-- Does a rank hold global index `i` of a dimension? -/
def layOwns (q : TravDesc) (r n w i : Nat) : Bool :=
  match layAxis w with
  | none => true
  | some a => let b := layBlock q n w; i / b.2 % b.1 == q.coord r a

/-- Local index of a global one. -/
def layLocal (q : TravDesc) (n w i : Nat) : Nat :=
  match layAxis w with
  | none => i
  | some _ => let b := layBlock q n w; i / (b.2 * b.1) * b.2 + i % b.2

/-- Global indices of a dimension that a rank holds, ascending. -/
def layOwned (q : TravDesc) (r n w : Nat) : List Nat := (List.range n).filter (layOwns q r n w)

/-- Local sizes of a rank in a layout. -/
def localSizes (q : TravDesc) (lay : List Nat) (r : Nat) : List Nat :=
  (q.dims.zip lay).map fun x => (layOwned q r x.1 x.2).length

/-- Local row and column of an element. -/
def localPlace (q : TravDesc) (lay : List Nat) (r : Nat) (g : List Nat) : Nat × Nat :=
  let l := ((q.dims.zip lay).zip g).map fun x => layLocal q x.1.1 x.1.2 x.2
  (rankOf ((localSizes q lay r).drop 1) (l.drop 1), l.getD 0 0)

/-- A rank-table entry (Table 16.4): module and job, pitch, endpoint. -/
def entPos (e : Nat) : Fid × CtxId :=
  (fidOf (bitsN e 107 96), ⟨.core ⟨bitsN e 109 108 % 4, Nat.mod_lt _ (by decide)⟩ ⟨bitsN e 116 110 % 96, Nat.mod_lt _ (by decide)⟩,
    if bitN e 117 then 1 else 0⟩)

def entOk (e : Nat) : Bool := bitsN e 127 119 == 0 && bitN e 118 && decide (bitsN e 116 110 < 96)

def entPitch (e : Nat) : Nat := bitsN e 95 64

/-- Do two ranks stand at one place? -/
def samePos (l : List (Fid × CtxId)) : Bool :=
  match l with
  | [] => false
  | a :: r => r.any (fun b => decide (a = b)) || samePos r

/-! ## Pieces (R293) -/

/-- Axes that the source layout leaves unused and that hold no partial addends. -/
def TravDesc.freeAxes (q : TravDesc) : List Nat :=
  (List.range 4).filter fun a => !(q.src.filterMap layAxis).contains a && !bitN q.spart a

/-- Does rank `a` supply rank `b`? -/
def TravDesc.supplies (q : TravDesc) (a b : Nat) : Bool := q.freeAxes.all fun x => q.coord a x == q.coord b x

/-- Every choice of one index per dimension, dimension 0 fastest. -/
def product : List (List Nat) → List (List Nat)
  | [] => [[]]
  | l :: r => (product r).flatMap fun g => l.map fun x => x :: g

/-- Elements of piece (a, b), in ascending global order; empty where `a` does not supply `b`. -/
def TravDesc.piece (q : TravDesc) (a b : Nat) : List (List Nat) :=
  if q.supplies a b then
    product (((q.dims.zip q.src).zip q.dst).map fun x =>
      (layOwned q a x.1.1 x.1.2).filter (layOwns q b x.1.1 x.2))
  else []

/-- Bytes of an element. -/
def TravDesc.width (q : TravDesc) : Nat := ewidth q.fmt

/-- Parts that a piece is cut into. -/
def TravDesc.parts (q : TravDesc) (n : Nat) : Nat := (n * q.width + 255) / 256

/-- The first rank of those that differ from a rank only on partial axes (R294). -/
def TravDesc.first (q : TravDesc) (a : Nat) : Nat :=
  rankOf q.sizes ((List.range 4).map fun x => if bitN q.spart x then 0 else q.coord a x)

/-- The ranks that supply partial addends of one box, ascending. -/
def TravDesc.addends (q : TravDesc) (a : Nat) : List Nat := (List.range q.count).filter fun r => q.first r == q.first a

/-- Place of a rank among the suppliers of its box. -/
def TravDesc.addendIdx (q : TravDesc) (a : Nat) : Nat := ((q.addends a).takeWhile fun r => r != a).length

/-- The lowest of the ranks that share a rank's box and the suppliers of it in a reduction (R294): an axis that neither the
destination nor the choice of suppliers looks at does not tell them apart. In an exchange every rank has its own pieces. -/
def TravDesc.rep (q : TravDesc) (b : Nat) : Nat :=
  if q.mode = 0 then b
  else rankOf q.sizes ((List.range 4).map fun x =>
    if (q.dst.filterMap layAxis).contains x || q.freeAxes.contains x then q.coord b x else 0)

/-- The ranks that share a box, ascending. -/
def TravDesc.sharers (q : TravDesc) (b : Nat) : List Nat := (List.range q.count).filter fun r => q.rep r == q.rep b

/-- Key of the reduction of a box of `b` (R297). -/
def TravDesc.key (q : TravDesc) (inst a b : Nat) : GroupKey := .trav q.id inst (q.rep b) (q.first a * 4 + (q.mode - 1))

/-- Ranks that pass a piece on, in order (R295): along ascending coordinates of the ring axis, from `a` to the coordinate of `b`. -/
def TravDesc.relays (q : TravDesc) (a b : Nat) : List Nat :=
  match q.ring with
  | none => []
  | some x =>
    let p := q.sizes.getD x 1
    let n := (q.coord b x + p - q.coord a x) % p
    ((List.range n).drop 1).map fun i =>
      rankOf q.sizes ((List.range 4).map fun y => if y = x then (q.coord a x + i) % p else q.coord a y)

/-- Packets that a rank passes on for others. -/
def TravDesc.relayCount (q : TravDesc) (me : Nat) : Nat :=
  if q.ring.isNone then 0
  else (List.range q.count).foldl (fun n a => (List.range q.count).foldl (fun m b =>
    if a ≠ b ∧ (q.relays a b).contains me then m + q.parts (q.piece a b).length else m) n) 0

/-! ## Reading and writing elements -/

/-- What a command has read so far, and how its reading ended: it is done, or meets a failing check or a stack that is not ready. -/
abbrev ReadSoFar := List Byte × State × Got Unit

/-- Load `n` bytes from a virtual address, page by page (R194); `fuel`: pages at most. -/
def pagesLoad (s : State) (w : Who) (va n : Nat) (acc : List Byte) : Nat → ReadSoFar
  | 0 => (acc, s, .ok ())
  | fuel + 1 =>
    if n = 0 then (acc, s, .ok ())
    else
      let k := min n (frameRest va)
      match loadVirt s w .load false va k with
      | .ok r => pagesLoad r.2 w ((va + k) % 2 ^ 64) (n - k) (acc ++ r.1) fuel
      | .fail c d e => (acc, s, .fail c d e)
      | .stall => (acc, s, .stall)

/-- Load an element of this rank's array. -/
def elemLoad (s : State) (c : Ctx) (w : Who) (q : TravDesc) (e : Nat) (pl : Nat × Nat) : Got (List Byte × State) :=
  match endPoint (bitsN e 63 0) with
  | some (.mem va) => loadVirt s w .load false ((va + pl.1 * entPitch e + pl.2 * q.width) % 2 ^ 64) q.width
  | some (.hnd h r) => .ok (((c.handle h).map fun y => y.bytes (r + pl.1) (pl.2 * q.width) q.width).getD [], s)
  | none => .ok ([], s)

/-- Load elements, in order. -/
def elemsLoad (s : State) (c : Ctx) (w : Who) (q : TravDesc) (e me : Nat) (acc : List Byte) : List (List Nat) → ReadSoFar
  | [] => (acc, s, .ok ())
  | g :: l =>
    match elemLoad s c w q e (localPlace q q.src me g) with
    | .ok r => elemsLoad r.2 c w q e me (acc ++ r.1) l
    | .fail a b x => (acc, s, .fail a b x)
    | .stall => (acc, s, .stall)

/-- Address of an element of a memory destination. -/
def elemVa (q : TravDesc) (e me : Nat) (g : List Nat) : Option Nat :=
  match endPoint (bitsN e 63 0) with
  | some (.mem va) =>
    let pl := localPlace q q.dst me g
    some ((va + pl.1 * entPitch e + pl.2 * q.width) % 2 ^ 64)
  | _ => none

/-- Check the write of elements of the destination (R194). -/
def elemsCheck (s : State) (c : Ctx) (w : Who) (q : TravDesc) (e me : Nat) : List (List Nat) → Got State
  | [] => .ok s
  | g :: l =>
    match elemVa q e me g with
    | some va =>
      (nRegion c va q.width).bind fun _ =>
      (checkAccess s.mem s.hub s.free w .store false va q.width).bind fun r => elemsCheck (s.setMem r.1) c w q e me l
    | none => elemsCheck s c w q e me l

/-- Write elements of the destination, in order. -/
def elemsStore (s : State) (x : CtxId) (w : Who) (q : TravDesc) (e me : Nat) (bs : List Byte) : List (List Nat) → Got State
  | [] => .ok s
  | g :: l =>
    (match endPoint (bitsN e 63 0) with
      | some (.hnd h r) =>
        let pl := localPlace q q.dst me g
        Got.ok (nPut s x h (r + pl.1) (pl.2 * q.width) (bs.take q.width))
      | some (.mem _) => storeVirt s w .store false ((elemVa q e me g).getD 0) (bs.take q.width)
      | none => Got.ok s).bind fun t => elemsStore t x w q e me (bs.drop q.width) l

/-- Check, then write, elements: nothing is written where a check fails. -/
def elemsWrite (s : State) (c : Ctx) (w : Who) (q : TravDesc) (e me : Nat) (bs : List Byte) (l : List (List Nat)) : Got State :=
  (elemsCheck s c w q e me l).bind fun t => elemsStore t c.id w q e me bs l

/-! ## Loss (R288, R296) -/

/-- Where the reduction of this rank's box is folded (R294). -/
def travHome (q : TravDesc) (t : TravSt) : Fid := (entPos (t.ents.getD (q.rep t.rank) 0)).1

/-- Has everything that a rank's contribution to a box is needed for come: is it in the group, or is the result made? Of a group on
another module that module's router decides (R297). -/
def contribHere (s : State) (q : TravDesc) (t : TravSt) (first r : Nat) : Bool :=
  let key := q.key t.inst first t.rank
  if travHome q t ≠ ownFid then true
  else
  match s.router.groups.find? fun g => decide (g.key = key) with
  | some g => (g.folded.any fun m => m.1 == q.addendIdx r) || g.early.any fun e => e.rank == q.addendIdx r && e.whole
  | none =>
    (t.parts.any fun p => p.1 == first) || (s.router.locals ++ s.router.waitq ++ s.router.held).any fun k =>
      match k.body with
      | .result k1 .. => decide (k1 = key)
      | _ => false

/-- Parts of a piece that have come to this module's router and wait there. -/
def piecesHere (s : State) (q : TravDesc) (t : TravSt) (a : Nat) : Nat :=
  (((s.router.locals ++ s.router.waitq).filterMap fun k =>
    match k.body with
    | .piece _ _ [] id inst a1 b part _ _ => if id = q.id ∧ inst = t.inst ∧ a1 = a ∧ b = t.rank then some part else none
    | _ => none).eraseDups.filter fun part => !t.parts.any fun p => decide (p = (a, part))).length

/-- Parts of a reduction's result that have come to this module's router and wait there. -/
def resultsHere (s : State) (q : TravDesc) (t : TravSt) (first : Nat) : Nat :=
  (((s.router.locals ++ s.router.waitq).filterMap fun k =>
    match k.body with
    | .result key _ _ _ _ part _ _ => if key = q.key t.inst first t.rank then some part else none
    | _ => none).eraseDups.filter fun part => !t.parts.any fun p => decide (p = (first, part))).length

/-- Does a rank still need something that has not arrived: of a lost rank, or of the lost module that folds its box? -/
def needsLost (s : State) (q : TravDesc) (t : TravSt) (lost : Nat → Bool) : Bool :=
  if q.mode = 0 then t.need.any fun n => lost n.1 && decide (piecesHere s q t n.1 < n.2)
  else t.need.any fun n => n.2 != 0 &&
    if s.router.lost.contains (travHome q t) then decide (resultsHere s q t n.1 < n.2)
    else (q.addends n.1).any fun r => lost r && !contribHere s q t n.1 r

/-- Is a lost rank a relay of the exchange? -/
def relayLost (q : TravDesc) (lost : Nat → Bool) : Bool :=
  q.ring.isSome && (List.range q.count).any fun a => (List.range q.count).any fun b =>
    a != b && q.piece a b != [] && (q.relays a b).any lost

/-- A Traverse after the loss of ranks (Table 16.5). -/
def travLose (s : State) (t : TravSt) (isLost : Fid × CtxId → Bool) : TravSt :=
  let q := travDesc t.block
  let lost (r : Nat) : Bool := r != t.rank && isLost (entPos (t.ents.getD r 0))
  let l := (List.range q.count).filter lost
  if l = [] ∨ t.code = 3 then t
  else if needsLost s q t lost || relayLost q lost then { t with code := 3, lostRank := 0 }
  else { t with code := 2, lostRank := if t.code = 2 then min t.lostRank (l.headD 0) else l.headD 0 }

/-! ## Start (R292, R293, R300) -/

/-- Endpoint rules of this rank's entry for a layout (R292): rows wide enough, enough rows, aligned elements. -/
def endOk (s : State) (c : Ctx) (q : TravDesc) (e me : Nat) (lay : List Nat) : Bool :=
  let sz := localSizes q lay me
  let none_ := sz.any fun n => n == 0
  let l0 := if none_ then 0 else sz.getD 0 0
  let rows := if none_ then 0 else (sz.drop 1).foldl (fun n a => n * a) 1
  match endPoint (bitsN e 63 0) with
  | none => false
  | some (.mem va) =>
    none_ || (decide (l0 * q.width ≤ entPitch e) && (rows ≤ 1 || entPitch e % max 1 q.width == 0) && va % max 1 q.width == 0)
  | some (.hnd h r) =>
    entPitch e == 0 &&
    (match c.handle h with
    | some y => decide (y.kind = .tile) && decide (handleFmt s c y = q.fmt) && decide (l0 ≤ y.cols) && decide (r + rows ≤ y.rows)
    | none => false)

/-- Instance of a Traverse: how many of its identifier the jobs of the graph have started at this place (R300). -/
def travInst (s : State) (c : Ctx) (id : Nat) : Nat :=
  match s.graphs.find? fun g => g.addr == c.card.graph with
  | some g => assocGet 0 g.travs (id, c.id)
  | none => 0

/-- Count a started Traverse. -/
def travCount (s : State) (c : Ctx) (id : Nat) : State :=
  { s with graphs := s.graphs.map fun g =>
      if g.addr = c.card.graph then { g with travs := assocSet g.travs (id, c.id) (assocGet 0 g.travs (id, c.id) + 1) } else g }

/-- The packets of a piece or of a contribution, their sequence numbers still to be assigned. -/
def piecePackets (s : State) (c : Ctx) (q : TravDesc) (ents : List Nat) (inst me b : Nat) (bs : List Byte) : List Packet :=
  let ps := payloads bs
  let dst := entPos (ents.getD b 0)
  let shared := (q.sharers b).map fun r => entPos (ents.getD r 0)
  let via := ((q.relays me b).map fun r => entPos (ents.getD r 0)) ++ [dst]
  let hop := via.headD dst
  ((List.range ps.length).zip ps).map fun p =>
    ⟨ownFid, if q.mode = 0 then hop.1 else dst.1, q.vc, 0, gangTag s c, c.card.region,
      if q.mode = 0 then .piece hop.2 (ownFid, c.id) (via.drop 1) q.id inst me b p.1 ps.length p.2
      else .contrib (q.key inst me b) c.id shared (q.addendIdx me) ((q.addends me).length - 1) ((q.piece me b).length - 1) p.1
        ps.length p.2⟩

/-- The ranks that this rank reads a piece for: those that it sends one to, and its own in an exchange. -/
def TravDesc.readers (q : TravDesc) (me : Nat) : List Nat :=
  (List.range q.count).filter fun b => decide (q.piece me b ≠ []) && q.rep b == b

/-- What this rank owes, of the bytes of the pieces that it has read, in the order of their ranks; and its local piece. -/
def owedOf (s : State) (c : Ctx) (d : Cmd) (q : TravDesc) (ents : List Nat) (inst me : Nat) (bs : List Byte) : List Nat → List SendSt × List Byte
  | [] => ([], [])
  | b :: l =>
    let n := (q.piece me b).length * q.width
    let r := owedOf s c d q ents inst me (bs.drop n) l
    if q.mode = 0 ∧ b = me then (r.1, bs.take n)
    else
      (⟨c.id, c.job, d.seq, q.id, inst, me, b, (q.sharers b).map fun r => (r, entPos (ents.getD r 0), false),
        piecePackets s c q ents inst me b (bs.take n), 0⟩ :: r.1, r.2)

/-- Parts that this rank receives: of each piece by its sender, or of each box by the first of its suppliers. -/
def travNeed (q : TravDesc) (me : Nat) : List (Nat × Nat) :=
  (List.range q.count).filterMap fun a =>
    let n := q.parts (q.piece a me).length
    if n = 0 ∨ (q.mode = 0 ∧ a = me) ∨ (q.mode ≠ 0 ∧ q.first a ≠ a) then none else some (a, n)

/-- What is owed without the ranks that are lost: nothing, where no rank is left. -/
def oweLess (l : List SendSt) (lost : Fid × CtxId → Bool) : List SendSt :=
  (l.map fun o => { o with dsts := o.dsts.filter fun e => !lost e.2.1 }).filter fun o => o.packets = [] || o.dsts != []

/-- Rank `b` has announced itself to what is owed to it; none where nothing is. -/
def markOwed (dst : CtxId) (id inst a b : Nat) : List SendSt → Option (List SendSt)
  | [] => none
  | o :: l =>
    if o.ctx = dst ∧ o.id = id ∧ o.inst = inst ∧ o.a = a ∧ (o.dsts.any fun e => e.1 == b && !e.2.2) = true then
      some ({ o with dsts := o.dsts.map fun e => if e.1 = b then (e.1, e.2.1, true) else e } :: l)
    else (markOwed dst id inst a b l).map fun r => o :: r

/-- Take a packet out of those that are kept for a Traverse. -/
def dropHerald (r : RouterSt) (k : Packet) : RouterSt := { r with heralds := r.heralds.filter fun j => decide (j ≠ k) }

/-- A rank of a Traverse is lost (R288): nothing is owed to it any more, and nothing that it has announced counts. -/
def rankGone (r : RouterSt) (dst : CtxId) (id inst rank : Nat) : RouterSt :=
  let mine (o : SendSt) : Bool := decide (o.ctx = dst) && o.id == id && o.inst == inst
  { r with
    outbox := (r.outbox.map fun o => if mine o then { o with dsts := o.dsts.filter fun e => e.1 != rank } else o).filter fun o =>
      !mine o || o.packets = [] || o.dsts != []
    heralds := r.heralds.filter fun k => match k.body with
      | .announce dst1 _ id1 inst1 _ b => !(decide (dst1 = dst) && id1 == id && inst1 == inst && b == rank)
      | _ => true }

/-- A Traverse of a job after the loss of one of its ranks. -/
def loseRank (s : State) (t : TravSt) (rank : Nat) : TravSt := travLose s t fun p => decide (p = entPos (t.ents.getD rank 0))

/-- An announcement to rank `a` at a Traverse to which nothing is owed by it: where the Traverse here is that of another rank it is dropped and
logged, and the `TRAV` of the rank that sent it ends with code 3 (R292); another has come too late to matter. -/
def strayAnnounce (s : State) (k : Packet) (orig : CtxId) (id inst a b rank : Nat) : State :=
  if a = rank then s
  else sendPacket (logPacket s 5 k) k.src k.vc k.gang k.region (.reject (.trav id inst a 0) orig b 3)

/-- Take up what came before its Traverse started: announcements (R300), and the loss of a rank (R288). -/
def hearHeralds (s : State) (x : CtxId) (q : TravDesc) (t : TravSt) : List Packet → State × TravSt
  | [] => (s, t)
  | k :: l =>
    let r := s.router
    match k.body with
    | .announce dst orig id inst a b =>
      (match markOwed dst id inst a b r.outbox with
      | some o => hearHeralds (s.setRouter (dropHerald { r with outbox := o } k)) x q t l
      | none =>
        if dst = x ∧ id = q.id ∧ inst = t.inst then
          hearHeralds (strayAnnounce (s.setRouter (dropHerald r k)) k orig id inst a b t.rank) x q t l
        else hearHeralds s x q t l)
    | .reject (.trav id inst _ _) dst rank _ =>
      if dst = x ∧ id = q.id ∧ inst = t.inst then
        hearHeralds (s.setRouter (rankGone (dropHerald r k) x id inst rank)) x q (loseRank s t rank) l
      else hearHeralds s x q t l
    | _ => hearHeralds s x q t l

/-- A `TRAV` that has read its source: what it owes, what it needs, and what is known already of its peers. -/
def travBegin (s : State) (c : Ctx) (d : Cmd) (r : TravRead) (ents : List Nat) (me : Nat) : State :=
  let q := travDesc r.block
  let inst := travInst s c q.id
  let o := owedOf s c d q ents inst me r.bytes (q.readers me)
  let relays := q.relayCount me
  let relay : List SendSt := if relays = 0 then [] else [⟨c.id, c.job, d.seq, q.id, inst, me, me, [], [], relays⟩]
  let t := travCount s c q.id
  let live := oweLess o.1 fun e => t.router.lost.contains e.1
  let v := t.setRouter { t.router with
    outbox := t.router.outbox ++ live ++ relay, gone := t.router.gone.filter fun y => decide (y ≠ (c.id, q.id, inst)) }
  let tr : TravSt := ⟨r.block, ents, me, inst, false, o.2, travNeed q me, [], 0, 0, 0⟩
  let h := hearHeralds v c.id q tr v.router.heralds
  h.1.putCmd c.id { d with prog := .trav (travLose h.1 h.2 fun x => h.1.router.lost.contains x.1) }

/-- A `TRAV` at the head of its queue reads on from its resume point: the rank table, then every element that it sends or copies. A failing
page traps, and the command resumes there (R194); a table that breaks Table 16.4 or the endpoint rules traps, and it starts afresh (R186). -/
def travGoOn (s : State) (c : Ctx) (d : Cmd) (h : HId) (r : TravRead) : Option State :=
  if !gangReadable s then none else
  let q := travDesc r.block
  let w := whoCmd s c d
  let stopAt (t : State) (e : Cmd) (g : Got Unit) : Option State := match g with
    | .ok _ => none
    | .fail x y z => some (cmdTrap (t.putCmd c.id e) c.id e ⟨x, y, 5, z⟩)
    | .stall => none
  let k := r.table.length
  match pagesLoad s w ((q.ranks + k) % 2 ^ 64) (16 * q.count - k) r.table (16 * q.count / 4096 + 2) with
  | (bs, t, .ok _) =>
    let ents := (List.range q.count).map fun i => leValue ((bs.drop (16 * i)).take 16)
    let here : Fid × CtxId := (ownFid, c.id)
    let mine := (List.range q.count).filter fun i => decide (entPos (ents.getD i 0) = here)
    let me := mine.headD 0
    if !ents.all entOk || mine.length != 1 || samePos (ents.map entPos) ||
        !endOk t c q (ents.getD me 0) me q.src || !endOk t c q (ents.getD me 0) me q.dst then
      let e := { d with prog := .queued }
      stopAt t e (aFault 16 h)
    else
      let els := (q.readers me).flatMap fun b => q.piece me b
      (match elemsLoad t c w q (ents.getD me 0) me r.bytes (els.drop (r.bytes.length / max 1 q.width)) with
      | (all, u, .ok _) => some (travBegin u c d { r with table := bs, bytes := all } ents me)
      | (some_, u, g) => stopAt u { d with prog := .travRead { r with table := bs, bytes := some_ } } g)
  | (bs, t, g) => stopAt t { d with prog := .travRead { r with table := bs } } g

/-- Start a `TRAV`: its block, which is copied, and status 0 (R186, R193); or go on with one. -/
def startTrav (s : State) (c : Ctx) (d : Cmd) (h : HId) : Option State :=
  match d.prog with
  | .travRead r => travGoOn s c d h r
  | _ =>
    match nBlock s c h d.sval.toNat 256 with
    | .ok bs =>
      if !travOk bs || (travDesc bs).ranks % 16 != 0 then (aFault (α := State) 16 h).cmd s c.id d
      else
        let t := putStatus s c.id d 0 0
        travGoOn t ((t.ctx c.id).getD c) d h ⟨bs, [], []⟩
    | .fail a b e => some (cmdTrap s c.id d ⟨a, b, 5, e⟩)
    | .stall => none

/-! ## Announcement (R194, R300) -/

/-- The elements of the destination that pieces will bring, in ascending address order. -/
def travElems (q : TravDesc) (t : TravSt) : List (List Nat) :=
  let froms := (t.need.map fun n => n.1) ++ if t.own = [] then [] else [t.rank]
  (product ((q.dims.zip q.dst).map fun x => layOwned q t.rank x.1 x.2)).filter fun g =>
    froms.any fun a => ((q.dims.zip q.src).zip g).all fun x => layOwns q a x.1.1 x.1.2 x.2

/-- The ranks that supply this one, itself among them in a reduction. -/
def travSuppliers (q : TravDesc) (t : TravSt) : List Nat :=
  if q.mode = 0 then t.need.map fun n => n.1 else t.need.flatMap fun n => q.addends n.1

/-- Announce a rank: destination checks, its local piece, an announcement to each supplier. -/
def announceTrav (s : State) (c : Ctx) (d : Cmd) (t : TravSt) : Got State :=
  let q := travDesc t.block
  let e := t.ents.getD t.rank 0
  let w := whoCmd s c d
  if !gangReadable s then .stall else
  (elemsCheck s c w q e t.rank (travElems q t)).bind fun s1 =>
  (if t.own = [] then Got.ok s1 else elemsWrite s1 c w q e t.rank t.own (q.piece t.rank t.rank)).bind fun s2 =>
    .ok (((travSuppliers q t).foldl (fun u a =>
        let dst := entPos (t.ents.getD a 0)
        sendJob u c dst.1 q.vc (.announce dst.2 c.id q.id t.inst a t.rank)) s2).putCmd c.id
      { d with prog := .trav { t with announced := true, own := [] } })

/-- `TRAV_ANNOUNCE` (R300). -/
def execTravAnnounce (x : CmdRef) (s : State) : Host.Outcome State Fault Refusal :=
  match runningCmd s x with
  | some (c, d) =>
    match d.prog with
    | .trav t =>
      if t.announced then noEvent "TRAV_ANNOUNCE"
      else
        (match (announceTrav s c d t).cmd s c.id d with
        | some u => .next u
        | none => noEvent "TRAV_ANNOUNCE")
    | _ => noEvent "TRAV_ANNOUNCE"
  | none => noEvent "TRAV_ANNOUNCE"

/-- Has a Traverse come to its end: its path is lost, or it has announced itself and every piece is written (R296)? -/
def travOver (t : TravSt) : Bool := t.code == 3 || (t.announced && t.need.all fun n => n.2 == 0)

/-- `TRAV_COMPLETE` (R296). -/
def execTravComplete (x : CmdRef) (s : State) : Host.Outcome State Fault Refusal :=
  match runningCmd s x with
  | some (c, d) =>
    match d.prog with
    | .trav t =>
      if !travOver t then noEvent "TRAV_COMPLETE"
      else
        (match endCollective s c.id d (if t.code = 0 then 1 else t.code) t.lostRank t.flags (travDesc t.block).cell with
        | some u => .next u
        | none => noEvent "TRAV_COMPLETE")
    | _ => noEvent "TRAV_COMPLETE"
  | none => noEvent "TRAV_COMPLETE"

/-! ## Packets of a Traverse -/

/-- What becomes of a delivered packet: it is taken; flow control holds it back; a part of it is held back; it is held back and its
command traps. -/
inductive Arrive where
  | taken (s : State)
  | waits
  | part (s : State) (k : Packet)
  | traps (s : State)

/-- The Traverse in progress of a job, of an identifier and instance. -/
def travOf (c : Ctx) (id inst : Nat) : Option (Cmd × TravSt) :=
  c.cmds.findSome? fun d =>
    match d.prog with
    | .trav t => if (travDesc t.block).id = id ∧ t.inst = inst then some (d, t) else none
    | _ => none

/-- The Traverse in progress of the job at a place. -/
def travHere (s : State) (x : CtxId) (id inst : Nat) : Option (Ctx × Cmd × TravSt) :=
  (s.ctx x).bind fun c => (travOf c id inst).map fun q => (c, q.1, q.2)

/-- The Traverse in progress of a place, its job lifted off or not. -/
def travAt (s : State) (x : CtxId) (id inst : Nat) : Option TravSt :=
  ((s.ctxs ++ s.saved).find? fun c => decide (c.id = x) && (travOf c id inst).isSome).bind fun c => (travOf c id inst).map fun q => q.2

/-- Is the Traverse one of a job that has been lifted off this place (R22, R308)? -/
def travSaved (s : State) (x : CtxId) (id inst : Nat) : Bool :=
  s.saved.any fun c => decide (c.id = x) && (travOf c id inst).isSome

/-- Has the instance started at a place (R300)? -/
def travPast (s : State) (x : CtxId) (id inst : Nat) : Bool := s.graphs.any fun g => decide (inst < assocGet 0 g.travs (id, x))

/-- Has a `GRAPH unload` discarded the Traverse at a place (R288)? -/
def travGone (s : State) (x : CtxId) (id inst : Nat) : Bool := s.router.gone.any fun y => decide (y = (x, id, inst))

/-- Is a job lifted off, to be restored? -/
def isSaved (s : State) (x : CtxId) : Bool := s.saved.any fun c => decide (c.id = x)

/-- May a job's N engine act now? A job that has ended holds nothing back. -/
def nRuns (s : State) (x : CtxId) : Bool :=
  match s.ctx x with
  | some c => cmdsRun c
  | none => !isSaved s x

/-- May the N engine of the job that owes something act now? -/
def owerRuns (s : State) (o : SendSt) : Bool :=
  match (s.ctxs ++ s.saved).find? fun c => c.job == o.job with
  | some c => cmdsRun c && !(s.saved.any fun x => x.job == o.job)
  | none => true

/-- The router keeps a packet until what it waits for is there, in the order of arrival. -/
def noteArrival (r : RouterSt) (k : Packet) : RouterSt :=
  let key (j : Packet) : Fid × Fin 8 × BitVec 32 := (j.src, j.vc, j.seq)
  { r with arrived := (r.arrived.filter fun e => (r.waitq ++ r.heralds).any fun j => decide (key j = e)) ++
      if r.arrived.contains (key k) then [] else [key k] }

/-- Keep a packet for a Traverse that has not started (R288, R300). -/
def keepHerald (s : State) (k : Packet) : State :=
  s.setRouter { noteArrival s.router k with heralds := s.router.heralds ++ [k] }

/-- Rank `b` has announced itself: rank `a` may send it what it owes (R300); before its matching `TRAV` has started, the announcement
is kept. One that reaches another rank is answered (R292); one for a Traverse that has ended here, or been discarded, is dropped. -/
def arriveAnnounce (s : State) (k : Packet) (dst orig : CtxId) (id inst a b : Nat) : State :=
  match markOwed dst id inst a b s.router.outbox, travAt s dst id inst with
  | some l, _ => s.setRouter { s.router with outbox := l }
  | none, some t => strayAnnounce s k orig id inst a b t.rank
  | none, none => if travPast s dst id inst || travGone s dst id inst then logPacket s 5 k else keepHerald s k

/-- The N engine hands the router the next packet of a piece whose receivers have all announced themselves (R300, R308). -/
def travSend (s : State) : List SendSt → List SendSt → Option State
  | _, [] => none
  | seen, o :: l =>
    match o.packets with
    | k :: ks =>
      if owerRuns s o && o.dsts.all fun e => e.2.2 then
        let rest := if ks = [] then l else { o with packets := ks } :: l
        some (sendPacket (s.setRouter { s.router with outbox := seen ++ rest }) k.dst k.vc k.gang k.region k.body)
      else travSend s (seen ++ [o]) l
    | [] => travSend s (seen ++ [o]) l

/-- Pass a piece on to the next rank of its ring (R295). One for a relay whose Traverse has been discarded is dropped and logged (R288). -/
def arriveRelay (s : State) (k : Packet) (dst : CtxId) (hop : Fid × CtxId) (id inst : Nat) (body : PacketBody) : Arrive :=
  let hit (o : SendSt) : Bool := decide (o.ctx = dst) && o.id == id && o.inst == inst && o.relays != 0
  if !nRuns s dst then .waits
  else
    match s.router.outbox.find? hit with
    | none => if travGone s dst id inst then .taken (logPacket s 5 k) else .waits
    | some o =>
      let box := (s.router.outbox.filter fun p => !hit p) ++ if o.relays ≤ 1 then [] else [{ o with relays := o.relays - 1 }]
      .taken (sendPacket (s.setRouter { s.router with outbox := box }) hop.1 k.vc k.gang k.region body)

/-- Elements of a part of a piece. -/
def partElems (q : TravDesc) (els : List (List Nat)) (part : Nat) : List (List Nat) :=
  let n := 256 / max 1 q.width
  (els.drop (n * part)).take n

/-- Write a part that has come; a failing check traps, and the packet waits (R194). -/
def writePart (s : State) (c : Ctx) (d : Cmd) (t : TravSt) (a part : Nat) (fl : FFlags) (bs : List Byte) : Arrive :=
  let q := travDesc t.block
  if t.parts.any fun p => decide (p = (a, part)) then .taken s
  else
    match elemsWrite s c (whoCmd s c d) q (t.ents.getD t.rank 0) t.rank bs (partElems q (q.piece a t.rank) part) with
    | .ok u => .taken (u.putCmd c.id { d with prog := .trav { t with
        parts := (a, part) :: t.parts
        flags := t.flags ||| fl
        need := t.need.map fun n => if n.1 = a then (a, n.2 - 1) else n } })
    | .fail x y e => .traps (cmdTrap s c.id d ⟨x, y, 5, e⟩)
    | .stall => .waits

/-- Drop a piece that the receiver's table does not name; the sending rank's `TRAV` ends with code 3 (R292). -/
def dropPiece (s : State) (k : Packet) (orig : Fid × CtxId) (id inst a b : Nat) : Arrive :=
  .taken (sendPacket (logPacket s 5 k) orig.1 k.vc k.gang k.region (.reject (.trav id inst b 0) orig.2 a 3))

/-- A part of piece (a, b) reaches rank `b`. One for a Traverse that has ended here, or whose job has been discarded, is dropped
(Table 16.5). -/
def arrivePiece (s : State) (k : Packet) (dst : CtxId) (orig : Fid × CtxId) (id inst a b part : Nat) (bs : List Byte) : Arrive :=
  match travHere s dst id inst with
  | none =>
    if travSaved s dst id inst then .waits
    else if travPast s dst id inst || travGone s dst id inst then .taken (logPacket s 5 k)
    else dropPiece s k orig id inst a b
  | some (c, d, t) =>
    if !cmdsRun c then .waits
    else if t.rank ≠ b ∨ !(t.need.any fun n => n.1 == a) ∨ entPos (t.ents.getD a 0) ≠ orig then dropPiece s k orig id inst a b
    else if t.code = 3 then .taken s
    else writePart s c d t a part 0 bs

/-- Does this module's table not name a job as a rank that a reduction of `b`'s box goes to (R292)? -/
def misplaced (s : State) (x : CtxId) (id inst b : Nat) : Bool :=
  match travHere s x id inst with
  | some (_, _, t) => (travDesc t.block).rep t.rank != b
  | none => !travSaved s x id inst && !travPast s x id inst && !travGone s x id inst

/-- A Traverse that a result reaches whose group has lost the contributor `i` of a box (R297): code 2, with its rank. -/
def TravSt.memberLost (t : TravSt) (q : TravDesc) (first i : Nat) : TravSt :=
  let r := (q.addends first).getD i 0
  { t with code := 2, lostRank := lowerRank t.code t.lostRank r }

/-- A part of a reduction's result reaches a destination rank, with the code that its group gives (R297); one at a wrong rank is dropped and
logged, and the ranks that have contributed, as the table here names them, end with code 3 (R292). -/
def arriveTravResult (s : State) (k : Packet) (dst : CtxId) (id inst b box code lost part : Nat) (fl : FFlags) (bs : List Byte) : Arrive :=
  match travHere s dst id inst with
  | none => if travSaved s dst id inst then .waits else .taken (logPacket s 5 k)
  | some (c, d, t) =>
    let q := travDesc t.block
    if !cmdsRun c then .waits
    else if q.rep t.rank ≠ b then
      .taken ((q.addends (box / 4)).foldl (fun u r =>
        let p := entPos (t.ents.getD r 0)
        sendPacket u p.1 k.vc k.gang k.region (.reject (.trav id inst b box) p.2 r 3)) (logPacket s 5 k))
    else if t.code = 3 then .taken s
    else writePart s c d (if code = 2 then t.memberLost q (box / 4) lost else t) (box / 4) part fl bs

/-! ## Loss of ranks -/

/-- Every Traverse and push of this module's jobs after the loss of ranks; `home`: modules that are lost. -/
def losePeers (s : State) (isLost : Fid × CtxId → Bool) (home : Fid → Bool) (only : Ctx → Bool) : State :=
  let go (c : Ctx) : Ctx := if !only c then c else { c with cmds := c.cmds.map fun d =>
    match d.prog with
    | .trav t => { d with prog := .trav (travLose s t isLost) }
    | .push p => if p.code = 0 && home (pushDesc p.desc).home then { d with prog := .push { p with code := 3 } } else d
    | _ => d }
  { s with ctxs := s.ctxs.map go, saved := s.saved.map go }

/-- A packet that ends a Traverse, or names a lost rank: its loss is kept for a Traverse that has not started, which it ends too (R288). -/
def arriveTravReject (s : State) (k : Packet) (dst : CtxId) (id inst rank code : Nat) : State :=
  let go (c : Ctx) : Ctx := if c.id ≠ dst then c else { c with cmds := c.cmds.map fun d =>
    match d.prog with
    | .trav t =>
      if (travDesc t.block).id = id ∧ t.inst = inst then
        (if code = 3 then { d with prog := .trav { t with code := 3 } } else { d with prog := .trav (loseRank s t rank) })
      else d
    | _ => d }
  if code = 3 then { s with ctxs := s.ctxs.map go, saved := s.saved.map go }
  else
    let u := s.setRouter (rankGone s.router dst id inst rank)
    if (travHere s dst id inst).isNone && !travSaved s dst id inst && !travPast s dst id inst && !travGone s dst id inst then keepHerald u k
    else { u with ctxs := s.ctxs.map go, saved := s.saved.map go }

/-! ## Words -/

/-- `TRAV` (R194). -/
def execTrav (g : Guard) (h : HId) (x : SReg) (s : State) : Host.Outcome State Fault Refusal :=
  issue s (.trav g h x) (nBody (.trav g h x) h x (fun c _ => (allRows c, allRows c)) (onPath .fabric))

end Sys2Proof.Machine
end

