-- ==== Sys2Proof/Machine/Arrival.lean ====
section
/-! DEFINITION. The receiving side of the router: delivery in sequence (R285), stream registers (R188-R191), results and rejects,
gang packets and the save area (R306, R307, R311-R313), and the loss of a module (R288, R297). -/

namespace Sys2Proof.Machine

/-! ## The save area (R311, R312, R317) -/

/-- Round up to a multiple of 16. -/
def pad16 (n : Nat) : Nat := (n + 15) / 16 * 16

/-- Payload of a packet. -/
def payloadOf (k : Packet) : List Byte :=
  match k.body with
  | .entry _ _ b => b
  | .contrib _ _ _ _ _ _ _ _ b => b
  | .result _ _ _ _ _ _ _ b => b
  | .piece _ _ _ _ _ _ _ _ _ b => b
  | _ => []

/-- Bytes padded with zeros to a multiple of 16. -/
def padded (bs : List Byte) : List Byte := bs ++ List.replicate (pad16 bs.length - bs.length) 0

/-- A save-record header (Table 18.3). -/
def saveHead (kind vc len loc seq : Nat) : List Byte :=
  leBytes 16 (kind + vc * 2 ^ 4 + len * 2 ^ 16 + loc * 2 ^ 48 + seq * 2 ^ 64)

/-- Bytes whose layout is not stated: free (log 9). -/
def freeBytes (free n : Nat) : List Byte := (List.range n).map fun i => (Config.freeWord (free + i)).setWidth 8

/-- A kind-1 record: header, the packet header as received, payload. -/
def packetRec (free : Nat) (k : Packet) : List Byte :=
  let p := padded (payloadOf k)
  saveHead 1 k.vc.val (48 + p.length) k.src.val k.seq.toNat ++ freeBytes free 32 ++ p

/-- Insert a contribution by rank. -/
def insertContrib (a : Contrib) : List Contrib → List Contrib
  | [] => [a]
  | b :: l => if a.rank < b.rank then a :: b :: l else b :: insertContrib a l

/-- Early packets of a group: ascending rank, then ascending sequence number. -/
def earlyPackets (g : Group) : List Packet :=
  (g.early.foldl (fun l a => insertContrib a l) []).flatMap fun a =>
    (List.range a.parts).filterMap fun i => assocFind a.got i

/-- Group key bytes: those of a push group; others are not stated. -/
def keyBytes (free : Nat) : GroupKey → List Byte
  | .push grp o => leBytes 16 (grp % 2 ^ 16 + o.code * 2 ^ 16)
  | .trav .. => freeBytes free 16

/-- The accumulator of a group: with no rank folded yet, what its bytes hold is not stated (log 9). -/
def accBytes (free : Nat) (g : Group) : List Byte :=
  if g.next = 0 then freeBytes free ((g.count + 1) * opWidth (keyOp g.key)) else g.acc

/-- A kind-2 record. -/
def groupRec (free : Nat) (g : Group) : List Byte :=
  let body := keyBytes free g.key ++ leBytes 4 g.next ++ leBytes 4 (g.count + 1) ++ leBytes 8 0 ++ padded (accBytes (free + 16) g) ++
    (earlyPackets g).flatMap (packetRec (free + 2 ^ 20))
  saveHead 2 g.vc.val (16 + body.length) 0 0 ++ body

/-- Place of a stream register in `sv.loc`. -/
def regLoc (x : CtxId) (z : ZReg) : Nat :=
  z.val * 2 ^ 10 + x.ctx.val * 2 ^ 9 + (match x.core with
    | .core d k => k.val * 2 ^ 2 + d.val
    | .sup => 0)

/-- A save record and how many kind-1 records it holds. -/
def saveRec (free : Nat) : SaveItem → List Byte × Nat
  | .packet k => (packetRec free k, 1)
  | .group g => (groupRec free g, (earlyPackets g).length)
  | .entry x z e => (saveHead 3 (e.2.1 % 8) (16 + e.2.2.2.length) (regLoc x z) e.2.2.1 ++ e.2.2.2, 0)

/-- Log a record that does not fit, with its sequence number (R312). -/
def logLostRec (s : State) : SaveItem → State
  | .packet k => logPacket s 5 k
  | .group g => (earlyPackets g).foldl (fun t k => logPacket t 5 k) (rasLog s 5 0 (2 ^ 40) 1)
  | .entry _ _ e => rasLog s 5 e.2.2.1 (e.1.val * 2 ^ 28 + 2 ^ 40) 1

/-- Append a record to a gang's save area; one that does not fit, and every later one, is dropped and logged (R312). -/
def saveItem (s : State) (g : Nat) (it : SaveItem) : State :=
  let x := gangGet s g
  let r := saveRec s.free it
  if x.spilled || decide (x.area.2 < x.used * 16 + r.1.length) then logLostRec (gangPut s { x with spilled := true }) it
  else
    let t := physStore s (x.area.1 + 16 * x.used) r.1
    let y := { x with recs := x.recs ++ [(16 * x.used, it)], used := x.used + r.1.length / 16, npk := x.npk + r.2 }
    gangSet (gangSet (gangPut t y) g 287 256 y.used) g 319 288 y.npk

/-! ## Gang packets (R307, R313) -/

/-- Is a member closed: markers on all 8 channels, or declared lost (R306)? -/
def memberClosed (s : State) (x : GangSt) (f : Fid) : Bool :=
  s.router.lost.contains f || (List.finRange 8).all fun v => x.markers.contains (f, v)

/-- A late packet: dropped, logged, counted, and a fault for the supervisor (R313). The RAS record has no place for its channel
(Table 20.6): that stands in the router's own log. -/
def latePacket (s : State) (k : Packet) : State :=
  let g := k.gang.val
  let x := gangGet s g
  let t := gangSet (gangPut (logPacket s 4 k) { x with nlate := x.nlate + 1 }) g 351 320 (x.nlate + 1)
  { t.setRouter { t.router with lateLog := t.router.lateLog ++ [(k.src, k.vc, k.seq)] } with lateFaults := t.lateFaults ++ [g] }

/-- Deliver the late-packet faults, in log order, at word boundaries of supervisor core 0 (R313); while `GANG` or `GRES` holds
the stream they wait. -/
def deliverLate (s : State) : State :=
  match s.lateFaults, s.ctx ⟨.sup, 0⟩ with
  | g :: l, some c =>
    let held := match (c.stream .C).run with
      | .held h => (match h.word with
        | .gang _ => true
        | .gres _ => true
        | _ => false)
      | .run => false
      | .waitt _ => false
      | .stalled => false
      | _ => true
    if held || c.untaken then s
    else takeTrap { s with lateFaults := l } ⟨⟨.sup, 0⟩, .C⟩ ⟨13, g, 0, 0⟩ (c.stream .C).pc false
  | _, _ => s

/-! ## Stream registers (R188-R191) -/

/-- Jobs at a core that have a stream register open. -/
def openAt (l : List Ctx) (core : CoreId) (z : ZReg) : List Ctx := l.filter fun c => decide (c.id.core = core) && (c.z.get z).isOpen

/-- Entries of a receive buffer that hold data or are promised to a sender. -/
def ZState.used (x : ZState) : Nat := x.buf.length + x.granted + x.lent.length

/-- Does a sender on a module hold a credit of a stream register? -/
def ZState.credited (x : ZState) (f : Fid) : Bool := if f = ownFid then x.granted != 0 else x.lent.contains f

/-- A credit comes back with its entry. -/
def ZState.spent (x : ZState) (f : Fid) : ZState :=
  if f = ownFid then { x with granted := x.granted - 1 } else { x with lent := x.lent.erase f }

/-- Is there an entry for a packet of a module: its credit's, or a free one that is promised to nobody (R190, log 76)? -/
def ZState.takes (x : ZState) (f : Fid) : Bool := decide (x.buf.length < 8) && (x.credited f || decide (x.used < 8))

/-- The job that an entry goes to: one that has granted a credit, else any that has the register open (log 41). -/
def entryJob (s : State) (core : CoreId) (z : ZReg) (src : Fid) : Option Ctx :=
  let l := openAt s.ctxs core z
  match l.find? fun c => (c.z.get z).credited src with
  | some c => some c
  | none => l[Config.choice s.free % max 1 l.length]?

def Ctx.putZ (c : Ctx) (z : ZReg) (x : ZState) : Ctx := { c with z := c.z.set z.val x z.isLt }

/-- Is number `m` earlier than `n` by serial arithmetic (R285)? -/
def earlier (m n : BitVec 32) : Bool := decide (0 < (n - m).toNat) && decide ((n - m).toNat < 2 ^ 31)

/-- An entry arrives: it joins the receive buffer; at a closed register it is dropped and logged (R188). -/
def arriveEntry (s : State) (k : Packet) (dst : CtxId) (z : ZReg) (bs : List Byte) : Arrive :=
  match entryJob s dst.core z k.src with
  | none => if openAt s.saved dst.core z = [] then .taken (logPacket s 5 k) else .waits
  | some c =>
    let x := c.z.get z
    if x.takes k.src then
      .taken (s.putCtx (c.putZ z { x.spent k.src with buf := x.buf ++ [(k.src, k.vc.val, k.seq.toNat, bs)] }))
    else .waits

/-- A request of another module for an entry of a stream register reaches the router (R190). -/
def noteRequest (s : State) (k : Packet) (dst : CtxId) (z : ZReg) : State :=
  if s.router.lost.contains k.src then s
  else s.setRouter { s.router with zreqs := s.router.zreqs ++ [⟨dst.core, z, k.src, s.now⟩] }

/-! ## Results and rejects -/

/-- The push in progress of a job, by group, operator and rank. -/
def pushOf (c : Ctx) (grp : Nat) (o : PushOp) (rank : Nat) : Option (Cmd × PushSt) :=
  c.cmds.findSome? fun d =>
    match d.word, d.prog with
    | .pushr _ _ _ o1, .push p =>
      let q := pushDesc p.desc
      if o1 = o ∧ q.grp = grp ∧ q.rank = rank ∧ p.code = 0 then some (d, p) else none
    | _, _ => none

/-- Is the push one of a job that has been lifted off this place? -/
def pushSaved (s : State) (x : CtxId) (grp : Nat) (o : PushOp) (rank : Nat) : Bool :=
  s.saved.any fun c => decide (c.id = x) && (pushOf c grp o rank).isSome

/-- A part of a result reaches one member. -/
def memberResult (s : State) (k : Packet) (key : GroupKey) (m : CtxId × Nat) (code lost part parts : Nat) (fl : FFlags) (bs : List Byte) : Arrive :=
  match key with
  | .trav id inst b box => arriveTravResult s k m.1 id inst b box code lost part fl bs
  | .push grp o =>
    if pushSaved s m.1 grp o m.2 || !nRuns s m.1 then .waits
    else
      match (s.ctx m.1).bind fun c => pushOf c grp o m.2 with
      | none => .taken s
      | some (d, p) =>
        let l := assocSet p.parts part bs
        .taken (s.putCmd m.1 { d with prog := .push { p with
          parts := l, nparts := parts, flags := fl, lostRank := lost
          code := if parts ≤ l.length then code else 0 } })

/-- A part of a result reaches the members of this module one by one: those that it still has to wait for, and whether anything happened. -/
def memberResults (s : State) (k : Packet) (key : GroupKey) (code lost part parts : Nat) (fl : FFlags) (bs : List Byte) (kept : List (CtxId × Nat))
    (moved : Bool) : List (CtxId × Nat) → State × List (CtxId × Nat) × Bool
  | [] => (s, kept, moved)
  | m :: l =>
    match memberResult s k key m code lost part parts fl bs with
    | .taken t => memberResults t k key code lost part parts fl bs kept true l
    | .part t _ => memberResults t k key code lost part parts fl bs (kept ++ [m]) true l
    | .waits => memberResults s k key code lost part parts fl bs (kept ++ [m]) moved l
    | .traps t => memberResults t k key code lost part parts fl bs (kept ++ [m]) true l

def arriveResult (s : State) (k : Packet) (key : GroupKey) (ms : List (CtxId × Nat)) (code lost part parts : Nat) (fl : FFlags)
    (bs : List Byte) : Arrive :=
  match memberResults s k key code lost part parts fl bs [] false ms with
  | (t, [], _) => .taken t
  | (t, kept, true) => .part t { k with body := .result key kept code lost fl part parts bs }
  | (_, _, false) => .waits

/-- The end of a collective is forced on a member. -/
def arriveReject (s : State) (k : Packet) (key : GroupKey) (dst : CtxId) (rank code : Nat) : State :=
  match key with
  | .trav id inst _ _ => arriveTravReject s k dst id inst rank code
  | .push grp o =>
    let go (c : Ctx) : Ctx := if c.id ≠ dst then c else match pushOf c grp o rank with
      | some (d, p) => c.putCmd { d with prog := .push { p with code := 3 } }
      | none => c
    { s with ctxs := s.ctxs.map go, saved := s.saved.map go }

/-- A contributor of a group is lost (R288, R297). -/
def arriveRankLost (s : State) (key : GroupKey) (rank : Nat) : State :=
  match s.router.groups.find? fun g => decide (g.key = key) with
  | some g => groupLost s g fun p => (groupKnown g).any fun m => m.1 == rank && decide (m.2 = p)
  | none => s

/-! ## Delivery (R285) -/

/-- A part of a contribution: one of a Traverse reduction for a job that this module's table does not name as the rank is dropped and
logged, and its sender ends with code 3 (R292). -/
def arrivePart (s : State) (k : Packet) (key : GroupKey) (frm : CtxId) (dst : List (Fid × CtxId)) (rank need count part parts : Nat) : Arrive :=
  let bad := match key with
    | .trav id inst b _ => dst.any fun m => decide (m.1 = ownFid) && misplaced s m.2 id inst b
    | .push .. => false
  if bad then .taken (rejectContrib (logPacket s 5 k) k key frm rank)
  else
    match arriveContrib s k key frm dst rank need count part parts with
    | some t => .taken t
    | none => .waits

/-- Deliver the contents of a packet. -/
def deliverBody (s : State) (k : Packet) : Arrive :=
  match k.body with
  | .entry dst z bs => arriveEntry s k dst z bs
  | .contrib key frm dst rank need count part parts _ => arrivePart s k key frm dst rank need count part parts
  | .result key ms code lost fl part parts bs => arriveResult s k key ms code lost part parts fl bs
  | .piece dst orig via id inst a b part parts bs =>
    (match via with
    | [] => arrivePiece s k dst orig id inst a b part bs
    | hop :: rest => arriveRelay s k dst hop id inst (.piece hop.2 orig rest id inst a b part parts bs))
  | .announce dst orig id inst a b => .taken (arriveAnnounce s k dst orig id inst a b)
  | .reject key dst rank code => .taken (arriveReject s k key dst rank code)
  | .rankLost key rank => .taken (arriveRankLost s key rank)
  | .request dst z => .taken (noteRequest s k dst z)
  | .marker =>
    let x := gangGet s k.gang.val
    .taken (gangPut s { x with markers := (k.src, k.vc) :: x.markers })
  | .resume =>
    let x := gangGet s k.gang.val
    .taken (gangPut s { x with resumes := k.src :: x.resumes })

/-- Is it a packet that the switch of its gang takes out of delivery: one of a gang that sweeps or is switched out? -/
def gangTakes (s : State) (k : Packet) : Bool :=
  k.gang != 0 && !isMarker k.body && (gangState s k.gang.val == 1 || gangState s k.gang.val == 2)

/-- Deliver a packet whose turn has come: a gang's packets by the state of its switch (R306, R307, R310, R313). -/
def deliver (s : State) (k : Packet) : Arrive :=
  let g := k.gang.val
  if g = 0 ∨ isMarker k.body then deliverBody s k
  else
    let x := gangGet s g
    match x.state.val with
    | 1 =>
      if k.src ≠ ownFid ∧ memberClosed s x k.src then .taken (latePacket s k)
      else if !x.lifted then .taken (gangPut s { x with after := x.after ++ [k] })
      else .taken (saveItem s g (.packet k))
    | 2 => .taken (latePacket s k)
    | 3 => if x.back then deliverBody s k else .waits
    | _ => deliverBody s k

/-- Does a packet of the same source and channel wait already? Delivery is in sequence (R285). -/
def channelWaits (s : State) (k : Packet) : Bool :=
  s.router.waitq.any fun j => decide (j.src = k.src) && decide (j.vc = k.vc)

/-- Do two packets name the same stream register, or the same group? -/
def sameTarget (a b : PacketBody) : Bool :=
  match a, b with
  | .entry x z _, .entry y u _ => decide (x.core = y.core) && z == u
  | .contrib k .., .contrib j .. => decide (k = j)
  | _, _ => false

/-- Is a waiting packet the first of its source and channel? -/
def firstWaiting (s : State) (k : Packet) : Bool :=
  decide ((s.router.waitq.find? fun j => decide (j.src = k.src) && decide (j.vc = k.vc)) = some k)

/-- Does a waiting packet stay where it is for its gang's sweep: it was in the router when the gang's jobs stopped (R306, step 1)? -/
def swept (s : State) (k : Packet) : Bool := k.gang != 0 && !isMarker k.body && gangState s k.gang.val == 1

/-- Could a waiting packet be delivered now, of itself? -/
def mayDeliver (s : State) (k : Packet) : Bool :=
  firstWaiting s k && !swept s k && (match deliver s k with
    | .waits => false
    | _ => true)

/-- Does a packet stand behind one that waits before it, names the same register or group, and can be delivered now (R190, R318)? -/
def passedOver (s : State) (k : Packet) : Bool :=
  (s.router.waitq.takeWhile fun j => decide (j ≠ k)).any fun j => sameTarget j.body k.body && mayDeliver s j

/-- A delivered packet that flow control holds back. -/
def parkPacket (s : State) (k : Packet) : State := s.setRouter { noteArrival s.router k with waitq := s.router.waitq ++ [k] }

/-- Deliver a packet, or let it wait under flow control. A marker waits behind no packet whose turn has come already: it is no data (R307,
log 104). -/
def deliverOrWait (s : State) (k : Packet) : State :=
  if (channelWaits s k || passedOver s k) && !gangTakes s k && !isMarker k.body then parkPacket s k
  else
    match deliver s k with
    | .taken t => t
    | .waits => parkPacket s k
    | .part t j => parkPacket t j
    | .traps t => parkPacket t k

/-- Deliver the packet whose turn has come, and those that waited for it. -/
def deliverFrom (s : State) (k : Packet) : Nat → State
  | 0 => s
  | n + 1 =>
    let r := s.router
    let t := deliverOrWait (s.setRouter { r with rxSeq := assocSet r.rxSeq (k.src, k.vc) (k.seq + 1) }) k
    match t.router.held.find? fun j => decide (j.src = k.src) && decide (j.vc = k.vc) && decide (j.seq = k.seq + 1) with
    | some j =>
      deliverFrom (t.setRouter { t.router with held := t.router.held.filter fun i => decide (i ≠ j) }) j n
    | none => t

/-- A packet for this module comes in: its turn, too early, or a duplicate (R285). -/
def receive (s : State) (k : Packet) : State :=
  let r := s.router
  let exp := assocGet 0 r.rxSeq (k.src, k.vc)
  if k.seq = exp then deliverFrom s k (r.held.length + 1)
  else if earlier exp k.seq then
    (if r.held.any fun j => decide (j.src = k.src) && decide (j.vc = k.vc) && decide (j.seq = k.seq) then s
     else s.setRouter { r with held := r.held ++ [k] })
  else s

/-- Take one packet out of a list. -/
def takeOut (k : Packet) : List Packet → List Packet
  | [] => []
  | j :: l => if j = k then l else j :: takeOut k l

/-- Put a packet in the place of another. -/
def putFor (k x : Packet) : List Packet → List Packet
  | [] => []
  | j :: l => if j = k then x :: l else j :: putFor k x l

/-- A waiting packet is delivered, if it can be now. -/
def retryPacket (s : State) (k : Packet) : Option State :=
  if !firstWaiting s k || swept s k || passedOver s k then none
  else
    match deliver s k with
    | .taken t => some (t.setRouter { t.router with waitq := takeOut k t.router.waitq })
    | .part t j => some (t.setRouter { t.router with waitq := putFor k j t.router.waitq })
    | .waits => none
    | .traps t => some t

/-- Is there room in the input buffer of a packet's channel and class (R284)? Packets for this module fill the local class, third-party
packets the forward class; a class without room has given its senders no credit. What a `GRES` has put back takes no room, and a marker
needs none (log 104). -/
def inputRoom (s : State) (k : Packet) : Bool :=
  let r := s.router
  let mine := if k.dst = ownFid then (r.held ++ r.waitq).filter fun j => gangState s j.gang.val != 3 else r.out
  isMarker k.body || decide ((mine.filter fun j => decide (j.src ≠ ownFid) && decide (j.vc = k.vc)).length < Config.inputBuffer + 1)

/-- Does a packet ask for an entry of a stream register? -/
def isRequest : PacketBody → Bool
  | .request _ _ => true
  | _ => false

/-- A third-party packet is forwarded; one for a lost module is dropped and logged (R284, R287, R288). -/
def forward (s : State) (k : Packet) : State :=
  let r := s.router
  if toLost s k then logPacket s 5 k
  else s.setRouter { r with out := r.out ++ [k], lastHeard := awaitHearing r.lastHeard k.dst s.now }

/-- `PACKET_ARRIVAL` (R284, R285): a packet that flow control held back is taken; one on its way within the module arrives; one from
another module is received or forwarded; a request for an entry, which has no number, is taken at once (R190). The router's bit is set for
it, and a port's for one from another module (R323); after a fatal
error the router still forwards (R327). -/
def execPacketArrival (k : Packet) (s : State) : Host.Outcome State Fault Refusal :=
  let r := s.router
  if !(if k.dst = ownFid then s.hub.routerOn else s.hub.forwards) then noEvent "PACKET_ARRIVAL"
  else if r.waitq.contains k then
    (match retryPacket s k with
    | some t => .next t
    | none => noEvent "PACKET_ARRIVAL")
  else if r.locals.contains k then .next (receive (s.setRouter { r with locals := takeOut k r.locals }) k)
  else if k.src = ownFid ∨ s.hub.portsOn = false then noEvent "PACKET_ARRIVAL"
  else if k.dst = ownFid ∧ isRequest k.body = true then (match deliverBody s k with
    | .taken t => .next t
    | _ => noEvent "PACKET_ARRIVAL")
  else if inputRoom s k = false then noEvent "PACKET_ARRIVAL"
  else if k.dst = ownFid then .next (receive s k)
  else .next (forward s k)

/-! ## Loss of a module (R288, R297) -/

/-- Declare a module lost: what waits for it is dropped and logged, and every collective with a member on it, and every open group,
takes its end (R288, R296, R297). -/
def loseModule (s : State) (f : Fid) : State :=
  if s.router.lost.contains f ∨ f = ownFid then s
  else
    let drop := s.router.out.filter fun k => decide (k.dst = f)
    let late := s.router.later.filter fun k => decide (k.dst = f)
    let s1 := (drop ++ late).foldl (fun t k => logPacket t 5 k) (rasLog s 9 0 (f.val * 2 ^ 28) 1)
    let r := s1.router
    let s2 := s1.setRouter { r with
      lost := f :: r.lost
      out := r.out.filter fun k => decide (k.dst ≠ f)
      later := r.later.filter fun k => decide (k.dst ≠ f)
      outbox := oweLess r.outbox fun e => decide (e.1 = f)
      heralds := r.heralds.filter fun k => decide (k.src ≠ f)
      zreqs := r.zreqs.filter fun q => decide (q.src ≠ f) }
    let s3 := losePeers s2 (fun p => decide (p.1 = f)) (fun h => decide (h = f)) fun _ => true
    s3.router.groups.foldl (fun t g => groupLost t g fun p => decide (p.1 = f)) s3

/-- `HUB_LOST_WRITE` (R288): a write to `hub.lost`. -/
def execHubLostWrite (v : Word) (s : State) : Host.Outcome State Fault Refusal := .next (loseModule s (fidOf v.toNat))

/-- `MODULE_LOST_TIMEOUT` (R288): nothing heard for 131,072 cycles of a module heard of before, or that packets wait for. -/
def execModuleLostTimeout (f : Fid) (s : State) : Host.Outcome State Fault Refusal :=
  match assocFind s.router.lastHeard f with
  | some t =>
    if !s.router.lost.contains f && decide (f ≠ ownFid) && decide (131072 ≤ s.now - t) then .next (loseModule s f)
    else noEvent "MODULE_LOST_TIMEOUT"
  | none => noEvent "MODULE_LOST_TIMEOUT"

/-- Act on the declarations that a write to `hub.lost` in this step has made. -/
def actLost (s : State) : State :=
  s.router.lostReq.foldl loseModule (s.setRouter { s.router with lostReq := [] })

/-! ## N words on stream registers and filters (R188-R192) -/

/-- The place of `ZPUSH` and `ZPOP`: row and byte offset; sub-reason 10 outside the row. -/
def zPlace (s : State) (c : Ctx) (h : HId) (sv : Nat) : Got (Nat × Nat) :=
  match c.handle h with
  | some y =>
    if y.kind = .tile ∧ svRow sv < y.rows ∧ svCol sv % 16 = 0 ∧ svCol sv + 256 ≤ rowBytes (handleFmt s c y) y.cols then
      .ok (svRow sv, svCol sv)
    else aFault 10 h
  | none => aFault 10 h

/-- Start, or go on with, a `ZPOP` at the head: it takes the oldest entry, or waits. A closed register is reported before a bad offset (R191,
log 109). -/
def startZpop (s : State) (c : Ctx) (d : Cmd) (h : HId) (z : ZReg) : Got (Option State) :=
  let x := c.z.get z
  if !x.isOpen then aFault 15 h
  else
    (zPlace s c h d.sval.toNat).bind fun p =>
      match x.buf with
      | e :: l =>
        .ok (some ((nPut (s.putCtx (c.putZ z { x with buf := l })) c.id h p.1 p.2 e.2.2.2).putCmd c.id { d with prog := .done }))
      | [] =>
        match d.prog with
        | .waiting _ => .ok none
        | _ => .ok (some (s.putCmd c.id { d with prog := .waiting s.now }))

/-- Start a `ZPUSH` at the head: it waits for a credit. A closed register is reported before a bad offset (log 109). -/
def startZpush (s : State) (c : Ctx) (d : Cmd) (h : HId) (z : ZReg) : Got (Option State) :=
  if !(c.z.get z).isOpen then aFault 15 h
  else
    (zPlace s c h d.sval.toNat).bind fun _ =>
      match d.prog with
      | .waiting _ => .ok none
      | _ => .ok (some (s.putCmd c.id { d with prog := .waiting s.now }))

/-- Run a `ZOPEN` (Table 9.2). A descriptor that breaks the table at a register that is open is sub-reason 16: R188 gives no order (log 102). -/
def startZopen (s : State) (c : Ctx) (d : Cmd) (h : HId) (z : ZReg) : Got (Option State) :=
  (nBlock s c h d.sval.toNat 16).bind fun bs =>
    let v := leValue bs
    if bitsN v 127 40 ≠ 0 ∨ bitsN v 11 0 ≠ 0 ∨ 96 ≤ bitsN v 25 19 then aFault 16 h
    else if (c.z.get z).isOpen then aFault 15 h
    else .ok (some ((s.putCtx (c.putZ z {
      isOpen := true, peer := fidOf (bitsN v 39 28)
      peerCtx := some (⟨bitsN v 27 26 % 4, Nat.mod_lt _ (by decide)⟩, ⟨bitsN v 25 19 % 96, Nat.mod_lt _ (by decide)⟩)
      peerZ := ⟨bitsN v 18 15 % 16, Nat.mod_lt _ (by decide)⟩, vc := ⟨bitsN v 14 12 % 8, Nat.mod_lt _ (by decide)⟩
      buf := [], granted := 0, lent := [] })).putCmd c.id { d with prog := .done }))

/-- Run a `ZCLOSE`: unpopped entries are discarded. -/
def startZclose (s : State) (c : Ctx) (d : Cmd) (z : ZReg) : State :=
  (s.putCtx (c.putZ z ZState.reset)).putCmd c.id { d with prog := .done }

/-- Start a `TUNE` (Table 9.3). The supervisor, which sets slot 1 too (R280), needs no grant of a region. -/
def startTune (s : State) (c : Ctx) (d : Cmd) (h : HId) : Got (Option State) :=
  (nBlock s c h d.sval.toNat 16).bind fun bs =>
    let v := leValue bs
    let p : Port := ⟨bitsN v 29 24 % 64, Nat.mod_lt _ (by decide)⟩
    if bitsN v 127 30 ≠ 0 ∨ bitsN v 15 9 ≠ 0 ∨ bitsN v 7 4 ≠ 0 ∨ bitsN v 23 16 = 0 ∨ (bitN v 3 ∧ bitsN v 2 0 ≠ 0) then aFault 16 h
    else if !(c.id.core.isSup || c.card.ports.getLsbD p.val) then aFault 18 h
    else
      let col : Option (Fin 8) := if bitN v 3 then none else some ⟨bitsN v 2 0 % 8, Nat.mod_lt _ (by decide)⟩
      .ok (some ((retune s p (bitsN v 23 16) (bitN v 8) col).putCmd c.id { d with prog := .tune p (bitN v 8) (s.now + 400) }))

/-- Peer of a `ZPUSH`. -/
def zPeer (c : Ctx) (d : Cmd) : Option (ZState × HId) :=
  match d.word with
  | .zpush _ h _ z => some (c.z.get z, h)
  | _ => none

/-- `ZPUSH`es of this module that wait for a credit of a register at a core: job, place in issue order, since when. -/
def creditWaiters (s : State) (core : CoreId) (z : ZReg) : List (CtxId × Nat × Nat) :=
  s.ctxs.flatMap fun c => if !cmdsRun c then [] else c.cmds.filterMap fun d =>
    match d.prog, zPeer c d with
    | .waiting t, some (x, _) =>
      if x.peer = ownFid ∧ x.peerZ = z ∧ (x.peerCtx.map fun p => CoreId.core p.1 p.2) = some core then some (c.id, d.seq, t) else none
    | _, _ => none

/-- Is a request the one that reached the router first? -/
def firstRequest (l : List (CtxId × Nat × Nat)) (x : CtxId) (seq t : Nat) : Bool :=
  !(l.any fun w => decide (w.2.2 < t) && !(decide (w.1 = x) && w.2.1 == seq))

/-- Has another module's request for a register at a core come before a cycle? -/
def requestBefore (s : State) (core : CoreId) (z : ZReg) (t : Nat) : Bool :=
  s.router.zreqs.any fun q => decide (q.core = core) && q.z == z && decide (q.since < t)

/-- The job at a core whose stream register has a free entry that is promised to nobody. -/
def roomAt (s : State) (core : CoreId) (z : ZReg) : Option Ctx :=
  (openAt s.ctxs core z).find? fun j => decide ((j.z.get z).used < 8)

/-- A free entry goes to another module's request, if it came first: the credit goes out (R190). -/
def lendCredit (s : State) (q : ZReq) : Option State :=
  if requestBefore s q.core q.z q.since || (creditWaiters s q.core q.z).any fun w => decide (w.2.2 < q.since) then none
  else
    (roomAt s q.core q.z).map fun j =>
      (s.putCtx (j.putZ q.z { j.z.get q.z with lent := q.src :: (j.z.get q.z).lent })).setRouter
        { s.router with zreqs := s.router.zreqs.erase q }

/-- Hand the packet of a `ZPUSH` to the router (R189). -/
def pushEntry (s : State) (c : Ctx) (d : Cmd) (x : ZState) (h : HId) : State :=
  let bs := ((c.handle h).map fun y => y.bytes (svRow d.sval.toNat) (svCol d.sval.toNat) 256).getD []
  let dst : CtxId := ⟨match x.peerCtx with
    | some p => .core p.1 p.2
    | none => .sup, 0⟩
  sendJob (s.putCmd c.id { d with prog := .done }) c x.peer x.vc (.entry dst x.peerZ bs)

/-- `CREDIT_GRANT` (R190): a `ZPUSH` gets its credit and its packet goes. Within the module a free entry goes to the request that came
first, other modules' among them; another module's credit comes from outside. -/
def execCreditGrant (x : CmdRef) (s : State) : Host.Outcome State Fault Refusal :=
  match runningCmd s x with
  | some (c, d) =>
    match d.prog, zPeer c d with
    | .waiting t, some (z, h) =>
      if s.router.lost.contains z.peer || !gangReadable s then noEvent "CREDIT_GRANT"
      else if z.peer ≠ ownFid then .next (pushEntry s c d z h)
      else
        match z.peerCtx.bind fun p => roomAt s (.core p.1 p.2) z.peerZ with
        | none => noEvent "CREDIT_GRANT"
        | some j =>
          if !firstRequest (creditWaiters s j.id.core z.peerZ) x.ctx x.seq t || requestBefore s j.id.core z.peerZ t then
            noEvent "CREDIT_GRANT"
          else
            let y := j.z.get z.peerZ
            let s1 := s.putCtx (j.putZ z.peerZ { y with granted := y.granted + 1 })
            .next (pushEntry s1 ((s1.ctx c.id).getD c) d z h)
    | _, _ => noEvent "CREDIT_GRANT"
  | none => noEvent "CREDIT_GRANT"

/-- A `ZPUSH` or `ZPOP` that has waited `wdog` cycles of its issuing stream, and gets nothing in this one either, traps, and then waits
again with a fresh count; its request for a credit is then a new one, and cycles in which its job is stopped for another trap count too
(log 102). `detail`: of a command that waits in vain. -/
def zWatchdog (name : String) (x : CmdRef) (s : State) (detail : Ctx → Cmd → Option Nat) : Host.Outcome State Fault Refusal :=
  match runningCmd s x with
  | some (c, d) =>
    match d.prog, detail c d with
    | .waiting t, some n =>
      if (c.stream d.src).wdog ≤ s.now - t then
        let d1 := { d with prog := .queued }
        .next (cmdTrap (s.putCmd c.id d1) c.id d1 ⟨12, n, 5, 0⟩)
      else noEvent name
    | _, _ => noEvent name
  | none => noEvent name

/-- Has a `ZPUSH` a credit to take within the module? -/
def creditFree (s : State) (x : CmdRef) : Bool :=
  match runningCmd s x with
  | some (c, d) =>
    (match zPeer c d with
    | some (z, _) => decide (z.peer = ownFid) && (match execCreditGrant x s with
      | .next _ => true
      | _ => false)
    | none => false)
  | none => false

/-- `ZPUSH_WATCHDOG` (R190): detail 16 + K. -/
def execZpushWatchdog (x : CmdRef) (s : State) : Host.Outcome State Fault Refusal :=
  zWatchdog "ZPUSH_WATCHDOG" x s fun _ d => match d.word with
    | .zpush _ _ _ z => if creditFree s x then none else some (16 + z.val)
    | _ => none

/-- `ZPOP_WATCHDOG` (R191): detail K. -/
def execZpopWatchdog (x : CmdRef) (s : State) : Host.Outcome State Fault Refusal :=
  zWatchdog "ZPOP_WATCHDOG" x s fun c d => match d.word with
    | .zpop _ _ _ z => if (c.z.get z).buf = [] then some z.val else none
    | _ => none

/-- `ZPOP` (R191). -/
def execZpop (g : Guard) (h : HId) (x : SReg) (z : ZReg) (s : State) : Host.Outcome State Fault Refusal :=
  issue s (.zpop g h x z) (nBody (.zpop g h x z) h x (fun _ v => ([], [nRow h v])) 0)

/-- `ZPUSH` (R189). -/
def execZpush (g : Guard) (h : HId) (x : SReg) (z : ZReg) (s : State) : Host.Outcome State Fault Refusal :=
  issue s (.zpush g h x z) (nBody (.zpush g h x z) h x (fun _ v => ([nRow h v], [])) (onPath .fabric))

/-- `ZOPEN` (R188). -/
def execZopen (g : Guard) (h : HId) (x : SReg) (z : ZReg) (s : State) : Host.Outcome State Fault Refusal :=
  issue s (.zopen g h x z) (nBody (.zopen g h x z) h x (fun _ v => ([nRow h v], [])) 0)

/-- `ZCLOSE` (R188). -/
def execZclose (g : Guard) (z : ZReg) (s : State) : Host.Outcome State Fault Refusal :=
  issue s (.zclose g z) fun w t => enqueue w t (w.cmd .N (.zclose g z) 0 [] [] 0)

/-- `TUNE` (R192). -/
def execTune (g : Guard) (h : HId) (x : SReg) (s : State) : Host.Outcome State Fault Refusal :=
  issue s (.tune g h x) (nBody (.tune g h x) h x (fun _ v => ([nRow h v], [])) 0)

end Sys2Proof.Machine
end

