-- ==== Sys2Proof/Machine/Command.lean ====
section
/-! DEFINITION. Commands at the head of their queues: which may start, what starting one does, the completion of a record and of a
command (R165, R172, R178, R187, R216-R218, R227). -/

namespace Sys2Proof.Machine

/-! ## The head of a queue -/

/-- Is it an N command that leaves the head when it starts (R187)? -/
def isCollective (i : Instr) : Bool :=
  match i with
  | .trav .. => true
  | .pushr .. => true
  | .ncomb .. => true
  | _ => false

/-- Is a collective past the reads that it makes at the head of its queue? -/
def Cmd.begun (d : Cmd) : Bool :=
  match d.prog with
  | .queued => false
  | .travRead _ => false
  | _ => true

/-- Has a command left the head of its queue: an A command that R172 lets leave, an N command that R187 lets leave? -/
def leftHead (d : Cmd) : Bool :=
  match d.word with
  | .bload .. => decide (d.prog = .done)
  | .mma .. => decide (d.prog = .done)
  | .mma3 .. => decide (d.prog = .done)
  | .zpush .. => decide (d.prog = .done)
  | i => isCollective i && d.begun

/-- The command at the head of a queue. -/
def cmdHead (c : Ctx) (q : Queue) : Option Cmd := (queueCmds c q).find? fun d => !leftHead d

/-- Collectives of a job in progress. -/
def inProgress (c : Ctx) : Nat := (c.cmds.filter fun d => isCollective d.word && d.begun).length

/-- What a command's guard says: none while its slot is not resolved, as the queue heads see it (R63, R218). -/
def guardSays (c : Ctx) (now : Nat) (g : Guard) : Option Bool :=
  match g with
  | .always => some true
  | .onTrue n => c.guardSeen now n
  | .onFalse n => (c.guardSeen now n).map fun b => !b

/-- The G-core that `MCLOAD` numbers: die × 64 + cluster × 4 + k (Table 9.13). -/
def gCore (g : Fin 256) : CoreId :=
  .core ⟨g.val / 64, by omega⟩ ⟨g.val / 4 % 16 * 6 + g.val % 4, by omega⟩

/-- Does an `MCLOAD` wait for a core's layer macro to end? -/
def mcloadWaits (s : State) (k : CoreId) : Bool :=
  s.ctxs.any fun c => c.id.core.isSup &&
    (match (c.stream .C).run with
    | .held h => (match h.word with
      | .mcload _ g => decide (gCore g = k)
      | _ => false)
    | _ => false)

/-! ## Starting a command -/

/-- A command whose effect is made. -/
def Cmd.ended (d : Cmd) : Cmd := { d with prog := .done }

/-- The state with a command ended: none of its fields but its progress changes. -/
def endCmd (s : State) (x : CtxId) (d : Cmd) : State := s.putCmd x d.ended

/-- Give the result of a status read, 6 cycles from now (R178). -/
def statLands (s : State) (x : CtxId) (d : Cmd) (v : Word) : State :=
  (s.mapCtx x fun c =>
    let t := c.stream d.src
    c.putStream d.src { t with flight := t.flight.map fun f =>
      if f.seq = d.seq ∧ f.due = .statusRead then { f with val := v, due := .at (s.now + 6) } else f }).putCmd x d.ended

/-- A discarded status read delivers nothing. -/
def statGone (s : State) (x : CtxId) (d : Cmd) : State :=
  s.mapCtx x fun c =>
    let t := c.stream d.src
    c.putStream d.src { t with flight := t.flight.filter fun f => !(decide (f.seq = d.seq) && decide (f.due = .statusRead)) }

/-- Run a command that goes by `runArray`; a failing check traps, and the command stays at the head (R164). -/
def startPlain (s : State) (c : Ctx) (d : Cmd) : Option State :=
  match runArray s c (whoCmd s c d) (c.stream d.src).satfp d.word d.sval.toNat with
  | .ok q => some (q.1.putCmd c.id { d.ended with flags := d.flags ||| q.2.1, status := d.status ++ q.2.2 })
  | .fail a b e => some (cmdTrap s c.id d ⟨a, b, 2, e⟩)
  | .stall => none

/-- Run an array command of a job that holds the lease (R165, R167). -/
def startArray (s : State) (c : Ctx) (d : Cmd) : Option State := (startPlain s c d).map fun t => countArray t c.id

/-- Run a `DRAINM` from its resume point (R176, R143); one that makes inverted accesses waits for those issued earlier (R269). -/
def startDrainm (s : State) (c : Ctx) (d : Cmd) (h : HId) (fn : BitVec 4) : Option State :=
  let k := match d.prog with
    | .walk k => k
    | _ => walkStart 0
  if d.inverts s c && invertersBefore s c d.seq then none
  else
  match runDrainm s c d h fn d.sval.toNat k.rowsDone k.elemsDone k.olds with
  | .ok t fl st =>
    let e := ((t.ctx c.id).bind fun x => x.cmd d.seq).getD d
    some (countArray (t.putCmd c.id { e.ended with flags := d.flags ||| fl, status := d.status ++ st }) c.id)
  | .trap t r n o fl st a b e =>
    let d1 := { d with
      prog := .walk { walkStart 0 with rowsDone := r, elemsDone := n, olds := o }, flags := d.flags ||| fl, status := d.status ++ st }
    some (countArray (cmdTrap (t.putCmd c.id d1) c.id d1 ⟨a, b, 2, e⟩) c.id)
  | .stall => none

/-- Run a command of an X-core (R179-R182). -/
def startTransform (s : State) (c : Ctx) (d : Cmd) : Option State :=
  match runTransform s c d.word d.sval.toNat with
  | (t, .ok fl) =>
    let u := t.putCmd c.id { d.ended with flags := d.flags ||| fl }
    some (match d.word with
    | .plan .. => u.mapCtx c.id refreshSets
    | _ => u)
  | (t, .fail a b e) => some (cmdTrap t c.id d ⟨a, b, 2, e⟩)
  | (_, .stall) => none

/-- Start a layer macro (R183). -/
def startLayer (s : State) (c : Ctx) (d : Cmd) (h : HId) (kind : Nat) : Option State :=
  match s.core c.id.core, c.handle h with
  | some k, some x =>
    (match (if x.kind = .tile then startMacro k x (handleFmt s c x) d.sval.toNat kind else .fail 5 h.val 0) with
    | .ok m => some (s.putCmd c.id { d with prog := .layer m })
    | .fail a b e => some (cmdTrap s c.id d ⟨a, b, 2, e⟩)
    | .stall => none)
  | _, _ => some (cmdTrap s c.id d ⟨5, h.val, 2, 0⟩)

/-- Does a job's lease let an array command start? -/
def leaseOpen (s : State) (x : CtxId) : Bool :=
  match arrayAt s x.core with
  | some a => decide (a.holder = some x) && !leaseOver s a
  | none => false

/-- A status entry under a mask. -/
def statOf (c : Ctx) (e : Fin 32) (m : BitVec 4) : BitVec 4 := c.status.get e &&& m

/-- Start the A command at the head; none where it has to wait. -/
def startA (s : State) (c : Ctx) (d : Cmd) : Option State :=
  match d.word with
  | .lacq _ => if holdsLease s c.id then some (endCmd s c.id d) else none
  | .lrel _ =>
    if c.cmds.any fun e => decide (e.seq < d.seq) && isArrayCmd e.word then none else some (endCmd (releaseLease s c.id) c.id d)
  | .stats _ e _ m => some (statLands s c.id d ((statOf c e m).setWidth 64))
  | .statc _ e _ m => some (statLands s c.id d (if statOf c e m = 0 then 0 else 1))
  | .statg _ e n m => some (s.putCmd c.id { d with prog := .statg (s.now + 6) n (statOf c e m != 0) })
  | .drainm _ h _ fn => if leaseOpen s c.id then startDrainm s c d h fn else none
  | .plan .. => startTransform s c d
  | .fft .. => startTransform s c d
  | .ifft .. => startTransform s c d
  | .shtf .. => startTransform s c d
  | .shti .. => startTransform s c d
  | i =>
    match layerKind i with
    | some l => if leaseOpen s c.id && !mcloadWaits s c.id.core then startLayer s c d l.1 l.2 else none
    | none => if isArrayCmd i then (if leaseOpen s c.id then startArray s c d else none) else startPlain s c d

/-- An answer that may wait, as a start. -/
def Got.start (g : Got (Option State)) (s : State) (x : CtxId) (d : Cmd) : Option State :=
  match g with
  | .ok o => o
  | .fail a b e => some (cmdTrap s x d ⟨a, b, 5, e⟩)
  | .stall => none

/-- Start the N command at the head; none where it has to wait. -/
def startN (s : State) (c : Ctx) (d : Cmd) : Option State :=
  match d.word with
  | .zpop _ h _ z => (startZpop s c d h z).start s c.id d
  | .zpush _ h _ z => (startZpush s c d h z).start s c.id d
  | .zopen _ h _ z => (startZopen s c d h z).start s c.id d
  | .zclose _ z => some (startZclose s c d z)
  | .tune _ h _ => (startTune s c d h).start s c.id d
  | .trav _ h _ => if 4 ≤ inProgress c then none else startTrav s c d h
  | .pushr _ h _ o => if 4 ≤ inProgress c then none else (startPush s c d h o).cmd s c.id d
  | .ncomb _ h _ => if 4 ≤ inProgress c then none else (startComb s c d h).cmd s c.id d
  | _ => none

/-- Start, or go on with, a command at the head of its queue. -/
def startHead (s : State) (c : Ctx) (d : Cmd) : Option State :=
  match d.q with
  | .A => startA s c d
  | .N => startN s c d
  | _ => (chainOf d.word).bind fun h => startCopy s c d h

/-- May a command at its head be started from where it stands? -/
def startable (d : Cmd) : Bool :=
  match d.prog with
  | .queued => true
  | .range _ => true
  | .waiting _ => true
  | .travRead _ => true
  | .walk _ => decide (d.q = .A)
  | _ => false

/-- Discard a command whose guard resolved against it (R218). -/
def discard (s : State) (x : CtxId) (d : Cmd) : State :=
  let t := dropCmd (statGone s x d) x d
  match d.word with
  | .plan .. => t.mapCtx x refreshSets
  | _ => t

/-- Does a command that has not begun read rows that an uncorrectable error has struck (R327)? What it reads is its access set (log 85). -/
def cmdStruck (c : Ctx) (d : Cmd) : Bool :=
  decide (d.prog = .queued) && d.reads.any fun r =>
    match c.handle r.h with
    | some y => y.meets r.lo 0 ((r.hi + 1 - r.lo) * y.pitch)
    | none => false

/-- `COMMAND_START` (R216-R218, R223): the command at the head of a queue starts, traps, or is discarded. -/
def execCommandStart (x : CtxId) (q : Queue) (s : State) : Host.Outcome State Fault Refusal :=
  match (s.ctx x).bind fun c => if cmdsRun c then (cmdHead c q).map fun d => (c, d) else none with
  | none => noEvent "COMMAND_START"
  | some (c, d) =>
    if !startable d then noEvent "COMMAND_START"
    else
      match (if d.prog = .queued then guardSays c s.now (Instr.guard d.word) else some true) with
      | none => noEvent "COMMAND_START"
      | some false => .next (discard s x d)
      | some true =>
        if rangeHeld c d then noEvent "COMMAND_START"
        else if cmdStruck c d then .next (cmdTrap s x d ⟨14, 0, queueEng d.q, 0⟩)
        else
          match startHead s c d with
          | some t => .next t
          | none => noEvent "COMMAND_START"

/-! ## Completing -/

/-- `DATA_RECORD_COMPLETE` (R141, R146): a data record of a copy has come to its end, and arrives at its cell. -/
def execDataRecordComplete (x : CmdRef) (s : State) : Host.Outcome State Fault Refusal :=
  match runningCmd s x with
  | none => noEvent "DATA_RECORD_COMPLETE"
  | some (c, d) =>
    match d.prog, chainOf d.word with
    | .walk k, some h =>
      (match completeRecord s c d h k with
      | some t => .next t
      | none => noEvent "DATA_RECORD_COMPLETE")
    | _, _ => noEvent "DATA_RECORD_COMPLETE"

/-- Retire a completed command: an `OFFL` without `keep` frees its source (R148). -/
def retireCmd (s : State) (c : Ctx) (d : Cmd) : Option State :=
  match offlHandle c d with
  | some g =>
    if handleInUse c d.seq g then none
    else
      let t := completeCmd s c.id d
      some (match t.ctx c.id with
        | some c1 => freeHandle t c1 g
        | none => t)
  | none => some (completeCmd s c.id d)

/-- `COMMAND_COMPLETE` (R26, R227, R178): a command whose effect is made retires; a status read into a guard slot resolves it. An
array command completes also while its job is stopped (R168, R224). -/
def execCommandComplete (x : CmdRef) (s : State) : Host.Outcome State Fault Refusal :=
  match (s.ctx x.ctx).bind fun c => (c.cmd x.seq).map fun d => (c, d) with
  | none => noEvent "COMMAND_COMPLETE"
  | some (c, d) =>
    match d.prog with
    | .done =>
      if !cmdsRun c && decide (d.q ≠ .A) then noEvent "COMMAND_COMPLETE"
      else
        (match retireCmd s c d with
        | some t => .next t
        | none => noEvent "COMMAND_COMPLETE")
    | .statg due n v =>
      if !cmdsRun c || decide (s.now < due) then noEvent "COMMAND_COMPLETE"
      else
        (match resolveSlot c n v s.now with
        | some c1 => .next (completeCmd (s.putCtx c1) c.id d)
        | none => .next (cmdTrap s c.id d ⟨10, slotNo n, 2, 0⟩))
    | _ => noEvent "COMMAND_COMPLETE"

end Sys2Proof.Machine
end

