-- ==== Sys2Proof/Machine/Super.lean ====
section
/-! DEFINITION. The supervisor and system words of R205-R208: returning from a trap, system registers of other streams and jobs, the
TLBs, keys, mailboxes, microcode, and the halt of supervisor core 0. `GRAPH` is in Cairn.lean, `GANG` and `GRES` in Gang.lean. -/

namespace Sys2Proof.Machine

/-- `ERET` (R206). -/
def execEret (s : State) : Host.Outcome State Fault Refusal :=
  issue s .eret fun w t => if badResume w.cx then .trap t (illegal .eret 7) else .moved (returnTrap t w.cx)

/-! ## `CSRR` and `CSRW` (R207) -/

/-- What the selector of `CSRR` and `CSRW` names. -/
inductive Selected where
  /-- a stream of the issuing stream's job -/
  | own (x : StreamId)
  /-- a stream of a context of the module -/
  | other (x : CtxId) (st : StreamId)
  /-- a stream that runs -/
  | running
  /-- a form that only supervisor core 0 may use -/
  | privileged
  /-- a selector that breaks Table 9.12 -/
  | broken

/-- Decode a selector (Table 9.12). -/
def selectorOf (w : At) (a : SReg) : Selected :=
  let v := (w.st.sreg a).toNat
  if a = 0 then .own w.ref.st
  else if bitN v 63 then
    if bitsN v 62 3 ≠ 0 then .broken
    else
      match streamOfEng (v % 8) with
      | none => .broken
      | some x =>
        if x ≠ w.ref.st ∧ (w.cx.stream x).run.live = true ∧ (w.cx.stream x).stopped = false then .running else .own x
  else if !w.ref.ctx.core.isSup then .privileged
  else
    match streamOfEng (v % 8) with
    | none => .broken
    | some x =>
      if bitsN v 62 13 ≠ 0 ∨ 96 ≤ bitsN v 10 4 then .broken
      else .other ⟨.core (dieOf (bitsN v 12 11)) ⟨bitsN v 10 4 % 96, Nat.mod_lt _ (by decide)⟩, if bitN v 3 then 1 else 0⟩ x

/-- Does a context's job run: neither stopped for the supervisor nor stopped to be saved? -/
def jobRuns (c : Ctx) : Bool := !c.atSup && !c.frozen

/-- The trap of a selector that names a running stream or context. -/
def runningTrap (w : At) (a : SReg) : Cause := ⟨5, (w.st.sreg a).toNat % 2 ^ 16, 7, 0⟩

/-- Complete a word whose result has landed by then (Table 2.8). -/
def At.landNow (a : At) (s : State) (d : SReg) (v : Word) : Res :=
  .done (a.put s (if d = 0 then a.st else a.st.land ⟨a.seq, .s d, v, 0, .interlocked, false, false⟩))

/-- Body of `CSRR`. -/
def csrrBody (d a : SReg) (n : SysReg) (w : At) (t : State) : Res :=
  match selectorOf w a with
  | .own x => w.landNow t d (readSys t w.cx (w.cx.stream x) (if x = w.ref.st then w.st.advance.pc else (w.cx.stream x).pc) n)
  | .other c x =>
    (match t.ctx c with
    | none => w.landNow t d 0
    | some y => if jobRuns y then .trap t (runningTrap w a) else w.landNow t d (readSys t y (y.stream x) (y.stream x).pc n))
  | .running => .trap t (runningTrap w a)
  | .privileged => .trap t ⟨2, 0, 7, 0⟩
  | .broken => .trap t (illegal (.csrr d a n) 7)

/-- `CSRR` (R207). -/
def execCsrr (d a : SReg) (n : SysReg) (s : State) : Host.Outcome State Fault Refusal := issue s (.csrr d a n) (csrrBody d a n)

/-- Body of `CSRW`: a write to a register of class JR is ignored. -/
def csrwBody (d a : SReg) (n : SysReg) (w : At) (t : State) : Res :=
  match selectorOf w a with
  | .own x => .done (t.putCtx (writeSys w.cx x n (w.st.sreg d)))
  | .other c x =>
    (match t.ctx c with
    | none => .done t
    | some y => if jobRuns y then .trap t (runningTrap w a) else .done (t.putCtx (writeSys y x n (w.st.sreg d))))
  | .running => .trap t (runningTrap w a)
  | .privileged => .trap t ⟨2, 0, 7, 0⟩
  | .broken => .trap t (illegal (.csrw d a n) 7)

/-- `CSRW` (R207): the value stands in the register named in d. -/
def execCsrw (d a : SReg) (n : SysReg) (s : State) : Host.Outcome State Fault Refusal := issue s (.csrw d a n) (csrwBody d a n)

/-! ## Translations and keys (R208, R261, R262) -/

/-- Remove the cached translations that a `TLBI` covers. -/
def dropTlb (s : State) (covers : TlbEntry → Bool) : State :=
  s.setMem { s.mem with tlb := s.mem.tlb.filter fun e => !covers e }

/-- `TLBI sA, page`. -/
def execTlbiPage (a : SReg) (s : State) : Host.Outcome State Fault Refusal :=
  issue s (.tlbiPage a) fun w t =>
    let va := (w.st.sreg a).toNat
    .done (dropTlb t fun e => decide (e.page ≤ va) && decide (va < e.page + e.size))

/-- `TLBI sA, key`: the leaves that name the key index, and those that take their region's. -/
def execTlbiKey (a : SReg) (s : State) : Host.Outcome State Fault Refusal :=
  issue s (.tlbiKey a) fun w t =>
    let k := (w.st.sreg a).toNat % 2 ^ 12
    .done (dropTlb t fun e => bitsN e.leaf 60 49 == k || bitsN e.leaf 60 49 == 0)

/-- `TLBI sA, all`. -/
def execTlbiAll (a : SReg) (s : State) : Host.Outcome State Fault Refusal :=
  issue s (.tlbiAll a) fun _ t => .done (dropTlb t fun _ => true)

/-- The alignment fault of a K word. -/
def kAlign (t : State) (va : Nat) : Res := .trap t ⟨3, 0, 7, va⟩

/-- Write back and drop the lines that carry a key index. -/
def flushKey (m : MemSt) (k : Nat) : MemSt :=
  (m.dieLines.filter fun x => x.key == k).foldl (fun n x => dropLine (writeBack n x.die x.line) x.die x.line) m

/-- Can the dirty lines that carry a key index be written back: are their stacks ready (R323)? -/
def keyFlushes (m : MemSt) (h : HubSt) (k : Nat) : Bool :=
  !(m.dieLines.any fun x => x.key == k && x.dirty != 0 && !stackReady h (x.line * 128))

/-- Set or erase a key index. -/
def setKey (m : MemSt) (k : Nat) (v : Option KeyPair) : MemSt :=
  let n := flushKey m k
  match v with
  | some p => { n with keys := assocSet n.keys k p }
  | none => { n with keys := assocDel n.keys k }

/-- `KEYSET` (R208, Table 9.13). -/
def execKeyset (a : SReg) (s : State) : Host.Outcome State Fault Refusal :=
  issue s (.keyset a) fun w t =>
    let va := (w.st.sreg a).toNat
    if va % 16 ≠ 0 then kAlign t va
    else
      (loadVirt t (whoStream t w.cx w.ref.st) .load false va 80).res t 7 fun r =>
        let v := leValue r.1
        if !keyFlushes r.2.mem r.2.hub (v % 2 ^ 12) then .stall
        else .done (r.2.setMem (setKey r.2.mem (v % 2 ^ 12)
          (if bitN v 16 then some (BitVec.ofNat 256 (bitsN v 383 128), BitVec.ofNat 256 (bitsN v 639 384)) else none)))

/-! ## Mailboxes and microcode (R246, R257) -/

/-- Bytes of a list, filled up with zeros to `n`. -/
def fillBytes (n : Nat) (bs : List Byte) : List Byte := bs.take n ++ List.replicate (n - bs.length) 0

/-- `MBX` (R208, R246). -/
def execMbx (d a : SReg) (m : Fin 64) (s : State) : Host.Outcome State Fault Refusal :=
  issue s (.mbx d a m) fun w t =>
    let va := (w.st.sreg a).toNat
    let x := t.hub.mail.get m
    if va % 4096 ≠ 0 then kAlign t va
    else if !x.new then w.landNow t d 0
    else
      (storeVirt t (whoStream t w.cx w.ref.st) .store false va (fillBytes 4096 x.buf)).res t 7 fun u =>
        w.landNow (u.setHub { u.hub with mail := u.hub.mail.set m.val { x with new := false } m.isLt }) d
          (BitVec.ofNat 64 (2 ^ 63 + x.len.toNat * 2 ^ 32 + x.seq.toNat))

/-- Eight-byte words of a list, numbered from `i`; a zero word is not listed. -/
def microWords (i : Nat) (bs : List Byte) : Nat → List (Nat × BitVec 64)
  | 0 => []
  | n + 1 =>
    let v := leValue (bs.take 8)
    if v = 0 then microWords (i + 1) (bs.drop 8) n else (i, BitVec.ofNat 64 v) :: microWords (i + 1) (bs.drop 8) n

/-- Body of `MCLOAD` (R208, R257): it waits until no layer macro runs on the core. R331 extends `at.m2` by the image itself (log 103). -/
def mcloadBody (a : SReg) (g : Fin 256) (w : At) (t : State) : Res :=
  let va := (w.arg a).toNat
  if va % 128 ≠ 0 then kAlign t va
  else if t.ctxs.any fun c => decide (c.id.core = gCore g) && (macroOf c).isSome then .hold t
  else
    (loadVirt t (whoStream t w.cx w.ref.st) .load false va 131072).res t 7 fun r =>
      let u := r.2.setHub { r.2.hub with m2 := shake256 (bytes512 r.2.hub.m2 ++ r.1) }
      .done (match u.core (gCore g) with
        | some k => u.putCore { k with micro := microWords 0 r.1 16384 }
        | none => u)

/-- `MCLOAD` (R208, R257). -/
def execMcload (a : SReg) (g : Fin 256) (s : State) : Host.Outcome State Fault Refusal := issue s (.mcload a g) (mcloadBody a g)

/-- `HALT` (R208): every stream of supervisor core 0 stops, and the code is recorded. -/
def execHalt (i : BitVec 11) (s : State) : Host.Outcome State Fault Refusal :=
  issue s (.halt i) fun _ t =>
    .moved ({ t with ctxs := t.ctxs.map fun (c : Ctx) =>
      if c.id.core.isSup then c.mapStreams fun _ u => { u with run := .halted } else c }.setHub { t.hub with haltCode := some i })

end Sys2Proof.Machine
end

