-- ==== Sys2Proof/Machine/Cairn.lean ====
section
/-! DEFINITION. Cairn: graphs and their nodes (R250-R255), dispatch and restoration of jobs (R16, R22, R219), the end of a job (R20,
R226), pre-emption (R22), and quiescent cores (R220, R221). -/

namespace Sys2Proof.Machine

/-! ## Node records (Table 13.5) -/

/-- Footprint `k` of a node record. -/
def footprint (v k : Nat) : Nat := bitsN v (1471 + 128 * k) (1344 + 128 * k)

def footOk (f : Nat) : Bool :=
  decide (1 ≤ bitsN f 127 64) && decide (bitsN f 127 64 ≤ 2 ^ 52) && bitsN f 63 62 != 0 && bitsN f 61 52 == 0

/-- The footprints in use. -/
def footprints (v : Nat) : List Nat := (List.range (bitsN v 1315 1313)).map (footprint v)

/-- Does a node record keep Table 13.5? -/
def nodeOk (v : Nat) : Bool :=
  bitsN v 2047 1984 == 0 && bitsN v 1343 1334 == 0 && bitsN v 1291 1280 == 0 && decide (bitsN v 1333 1325 ≤ 256) &&
  decide (bitsN v 1324 1316 ≤ 256) && decide (bitsN v 1315 1313 ≤ 5) && decide (bitsN v 1312 1306 < 96) &&
  bitsN v 1303 1302 != 3 && bitsN v 1155 1152 == 0 && bitsN v 1093 1088 == 0 &&
  (bitsN v 1303 1302 != 2 || (decide (4 ≤ bitsN v 1312 1306 % 6) == bitN v 1292)) && (footprints v).all footOk

/-- Do two footprints conflict (R254)? -/
def footConflict (a b : Nat) : Bool :=
  (bitN a 63 || bitN b 63) && decide (bitsN a 51 0 < bitsN b 51 0 + bitsN b 127 64) &&
  decide (bitsN b 51 0 < bitsN a 51 0 + bitsN a 127 64)

/-- Do two nodes of a graph conflict? -/
def nodesConflict (g : Graph) (i j : Nat) : Bool :=
  (footprints (g.recs.getD i 0).toNat).any fun a => (footprints (g.recs.getD j 0).toNat).any (footConflict a)

/-- A handle declaration: its descriptor, where it keeps Table 7.1, and its reserved bits are zero: R253 does not say what other bits do
(log 102). -/
def declDesc (d : BitVec 128) : Option HDesc := if bitsN d.toNat 127 124 = 0 then hdesc (bitsN d.toNat 63 0) else none

def declHandle (d : BitVec 128) : HId := ⟨bitsN d.toNat 71 64, Nat.mod_lt _ (by decide)⟩

/-- Banks, or L2 units, of declarations. -/
def declUnits (l2 : Bool) (ds : List (BitVec 128)) : Nat :=
  ds.foldl (fun n d => n + match declDesc d with
    | some x => if x.l2 = l2 then x.units else 0
    | none => 0) 0

/-! ## Loading a graph (R253, Table 13.4) -/

/-- Cairn as an agent in a region's address space. -/
def whoRegion (s : State) (x : Nat) : Who :=
  { whoCairn s with root := eff s rcbPtroot x * 4096, region := some x, key := eff s rcbKey x }

/-- Numbers of `w` bytes each, from stored bytes. -/
def numbers (w : Nat) (bs : List Byte) (n : Nat) : List Nat := (List.range n).map fun i => leValue ((bs.drop (w * i)).take w)

/-- The handle declarations of a node: none where they cannot be read or break their form. -/
def readDecls (s : State) (region v : Nat) : Got (Option (List (BitVec 128)) × State) :=
  let n := bitsN v 1324 1316
  match loadVirt s (whoRegion s region) .load false (bitsN v 1279 1216) (16 * n) with
  | .stall => .stall
  | .fail _ _ _ => .ok (none, s)
  | .ok r =>
    let ds := (numbers 16 r.1 n).map (BitVec.ofNat 128)
    .ok (if ds.all fun d => (declDesc d).isSome then some ds else none, r.2)

/-- What a load finds out about its nodes: an error, or the records and declarations. -/
abbrev Nodes := Except Nat (List (BitVec 2048) × List (List (BitVec 128)))

/-- Read and check nodes, in ascending order: from address `a` on, `n` of them. -/
def readNodes (s : State) (who : Who) (region : Nat) (recs : List (BitVec 2048)) (decls : List (List (BitVec 128))) (a : Nat) :
    Nat → Got (Nodes × State)
  | 0 => .ok (.ok (recs, decls), s)
  | n + 1 =>
    (loadVirt s who .load false a 256).bind fun r =>
      let v := leValue r.1
      if !nodeOk v then .ok (.error 3, r.2)
      else
        (readDecls r.2 region v).bind fun q =>
          match q.1 with
          | none => .ok (.error 3, q.2)
          | some ds =>
            if 96 < declUnits false ds ∨ eff s rcbL2q region < declUnits true ds then .ok (.error 4, q.2)
            else readNodes q.2 who region (recs ++ [BitVec.ofNat 2048 v]) (decls ++ [ds]) (a + 256) n

/-- The valid tag records of a descriptor. -/
def tagRecords (v : Nat) : List (Tag × Nat) :=
  (List.finRange 8).filterMap fun t =>
    let r := bitsN v (32 * t.val + 159) (32 * t.val + 128)
    if bitN r 10 then some (t, r) else none

/-- Is a tag record one that a load refuses (error 5)? R157 and Table 13.4 name a tag that is not owned and one that conflicts; a record whose bits
[31:11] or arrivals break Table 13.3 is refused so too (log 109). -/
def tagRefused (s : State) (region : Nat) (t : Tag × Nat) : Bool :=
  t.2 / 2 ^ 11 != 0 || bitsN t.2 8 0 == 0 || decide (257 < bitsN t.2 8 0) || !bitN (eff s rcbTags region) t.1.val ||
  s.graphs.any fun g => g.tags.any fun u => decide (u.1 = t.1) && (g.region != region || u.2 != t.2)

/-- The graph at an address that Cairn holds. -/
def graphAt (s : State) (a : Nat) : Option Graph := s.graphs.find? fun g => g.addr == a

/-- State of the graph at an address: 0 where Cairn holds none. -/
def graphState (s : State) (a : Nat) : Nat := ((graphAt s a).map fun g => g.state.val).getD 0

def putGraph (s : State) (g : Graph) : State := { s with graphs := s.graphs.map fun h => if h.addr = g.addr then g else h }

/-- Write `gd.err`. -/
def graphErr (s : State) (a e : Nat) : State := cairnStore s (a + 49) (leBytes 1 e)

/-- Write `gd.step`. -/
def graphStep (s : State) (a n : Nat) : State := cairnStore s (a + 52) (leBytes 4 n)

/-- Load a graph: the error, 0 for none. The checks go in this order: 5, 2, then the nodes' (DESIGN CHOICE, log 42). Node records that are not
256-byte aligned are error 3: R253 states none (log 102). -/
def loadGraph (s : State) (who : Who) (a : Nat) : Got (Nat × State) :=
  (loadVirt s who .load false a 128).bind fun r =>
    let v := leValue r.1
    let region := bitsN v 91 80
    let n := bitsN v 79 64 + 1
    if bitsN v 123 92 = 0 ∨ regionOk s region = false ∨ (tagRecords v).any (tagRefused s region) = true then .ok (5, r.2)
    else if 65536 < s.graphs.foldl (fun k g => k + g.recs.length) n then .ok (2, r.2)
    else if bitsN v 63 0 % 256 ≠ 0 then .ok (3, r.2)
    else
      (readNodes r.2 who region [] [] (bitsN v 63 0) n).bind fun q =>
        match q.1 with
        | .error e => .ok (e, q.2)
        | .ok l =>
          let g : Graph := {
            addr := a, region := region, fdom := eff s rcbFdom region, steps := bitsN v 123 92, tags := tagRecords v, recs := l.1
            decls := l.2, state := 1, stopping := false, low := 0, done := [], pool := [], running := [], travs := [], clk := [] }
          .ok (0, writeGraphState { q.2 with graphs := q.2.graphs ++ [g] } g 1)

/-- A `GRAPH` word: its address is aligned to 128 bytes. -/
def graphWord (a : SReg) (w : At) (t : State) (f : Nat → Res) : Res :=
  let va := (w.arg a).toNat
  if va % 128 ≠ 0 then kAlign t va else f va

/-- `GRAPH load`: what it reads are Cairn's reads (R249), which are no events (R228). -/
def execGraphLoad (a : SReg) (s : State) : Host.Outcome State Fault Refusal :=
  issue s (.graphLoad a) fun w t => graphWord a w t fun va =>
    if graphState t va ≠ 0 then .done (graphErr t va 1)
    else if !tableReady t then .stall
    else (loadGraph t { whoStream t w.cx w.ref.st with races := false } va).res t 7 fun r => .done (graphErr r.2 va r.1)

/-! ## Belay tags of a graph (R255, R157) -/

/-- Dies of the instances of a tag record: one of module scope, or one for each die. -/
def tagDies (r : Nat) : List (Option Die) := if bitN r 9 then [none] else [some 0, some 1, some 2, some 3]

/-- Set the expected count of an instance from its record; the arrivals of the phase stay counted (log 43). -/
def configInst (t : Tag) (count : Nat) (l : List TagSt) (d : Option Die) : List TagSt :=
  if l.any fun x => decide (x.tag = t) && decide (x.die = d) then
    l.map fun x =>
      if x.tag = t ∧ x.die = d then
        { x with config := count, expect := count, pend := x.pend + (count - x.expect) }
      else x
  else l ++ [⟨t, d, [], count, count, count, 0, [], 0, [], []⟩]

/-- Set a tag from its record. -/
def configTag (s : State) (t : Tag × Nat) : State :=
  let ds := tagDies t.2
  let old := s.tags.filter fun x => !(decide (x.tag = t.1) && !ds.any fun d => decide (d = x.die))
  { s with tags := ds.foldl (configInst t.1 (bitsN t.2 8 0)) old }

/-- The tags that no member runs any more, among those of a mask, are set from the record of a loaded graph. -/
def resetTags (s : State) (mask : BitVec 8) : State :=
  (List.finRange 8).foldl (fun u t =>
    if mask.getLsbD t.val && !(u.tags.any fun x => decide (x.tag = t) && decide (x.members ≠ [])) then
      match u.graphs.findSome? fun g => g.tags.find? fun r => decide (r.1 = t) with
      | some r => configTag u r
      | none => u
    else u) s

/-- Tags whose last member has left, by a `BDROP` too, are set anew (R255). -/
def resetIdle (s : State) : State :=
  if s.tags.any fun x => decide (x.members = []) && decide (x.expect ≠ x.config) then resetTags s 255 else s

/-- A core joins the member sets of the tags of a mask. -/
def joinTags (s : State) (k : CoreId) (mask : BitVec 8) : State :=
  { s with tags := s.tags.map fun x =>
      if mask.getLsbD x.tag.val && x.serves x.tag k && !(x.members.any fun m => decide (m = k)) then { x with members := x.members ++ [k] }
      else x }

/-- A core leaves the member sets of a job's tags, unless another job of the core has joined them. A job that is saved has not ended: it
keeps its core's place (R255, log 43). -/
def leaveTags (s : State) (k : CoreId) (mask : BitVec 8) : State :=
  { s with tags := s.tags.map fun x =>
      if mask.getLsbD x.tag.val && !((s.ctxs ++ s.saved).any fun c => decide (c.id.core = k) && c.card.tags.getLsbD x.tag.val) then
        { x with members := x.members.filter fun m => decide (m ≠ k) }
      else x }

/-! ## Starting a graph -/

/-- `GRAPH start`: from state 1 or 4 the replay begins at step 0. -/
def startGraph (s : State) (g : Graph) : State :=
  let again := g.state == 1 || g.state == 4
  let g1 := if again then { g with low := 0, done := [], pool := [], travs := [], clk := [] } else g
  let t := putGraph s { g1 with stopping := false }
  let u := writeGraphState (if again then graphStep t g.addr 0 else t) g1 2
  g.tags.foldl configTag u

def execGraphStart (a : SReg) (s : State) : Host.Outcome State Fault Refusal :=
  issue s (.graphStart a) fun w t => graphWord a w t fun va =>
    match graphAt t va with
    | some g =>
      if g.state == 1 || g.state == 3 || g.state == 4 || g.state == 5 then .done (graphErr (startGraph t g) va 0)
      else .done (graphErr t va 1)
    | none => .done (graphErr t va 1)

/-! ## The end of a job (R226) -/

/-- Queue grants of a context. -/
def grantsOf (c : Ctx) : Nat := c.grants.toList.foldl (fun n k => n + k) 0

/-- Scratch banks of a context's handles. -/
def banksOf (c : Ctx) : List (Fin 96) := c.handles.flatMap fun h => h.banks

/-- What a job gives back when it leaves its core: lease, grants, banks. -/
def unplace (s : State) (c : Ctx) : State :=
  let t := releaseLease s c.id
  let u := (match arrayAt t c.id.core with
    | some a => putArray t { a with requests := a.requests.filter fun r => decide (r.1 ≠ c.id) }
    | none => t)
  let v := { u with ctxs := u.ctxs.filter fun x => decide (x.id ≠ c.id) }
  match v.core c.id.core with
  | some k => v.putCore (dropBanks { k with pool := k.pool + 16 * grantsOf c } (banksOf c))
  | none => v

/-- A core that a job has left may retire. -/
def dropRetiredOf (s : State) (k : CoreId) : State :=
  match k with
  | .core d n => dropRetired s d n
  | .sup => s

/-- A job is gone: its core leaves the job's tags, and may retire. -/
def vacate (s : State) (c : Ctx) : State :=
  dropRetiredOf (resetTags (leaveTags (unplace s c) c.id.core c.card.tags) c.card.tags) c.id.core

/-- Is an instance complete? -/
def Graph.isDone (g : Graph) (st i : Nat) : Bool := decide (st < g.low) || g.done.contains (st, i)

/-- Move past the steps whose every instance is complete. -/
def Graph.advance (g : Graph) : Nat → Graph
  | 0 => { g with done := g.done.filter fun d => decide (g.low ≤ d.1) }
  | n + 1 =>
    if (List.range g.recs.length).all (g.isDone g.low) then { g with low := g.low + 1 }.advance n
    else { g with done := g.done.filter fun d => decide (g.low ≤ d.1) }

/-- What a job has released when it ends: every event of its streams, of their `VXC`s and of its commands (R231). -/
def jobClock (c : Ctx) : Clock :=
  Clock.tick ([StreamId.C, .A, .L, .S, .N].foldl (fun k x => Clock.join k (Clock.tick (c.stream x).clk (streamAgent c.job x)))
    (Clock.join (Clock.join c.doneClk c.baseClk) c.vxcClk)) (vxcAgent c.job)

/-- Report a node complete (R226, R253). -/
def reportDone (s : State) (c : Ctx) : State :=
  match graphAt s c.card.graph with
  | none => s
  | some g =>
    let inst := (c.card.step.toNat, c.card.node)
    let g1 := { g with
      running := g.running.filter fun x => decide (x ≠ inst)
      done := inst :: g.done
      clk := assocSet g.clk c.card.node (Clock.join (assocGet [] g.clk c.card.node) (jobClock c)) }.advance (g.done.length + 1)
    let t := putGraph s g1
    let u := if g1.low = g.low then t else graphStep t g.addr g1.low
    if g1.low = g.steps ∧ g.state ≠ 4 then
      let q := takeSeq u
      cairnStore (writeGraphState q.2 g1 4) (g.addr + 56) (leBytes 8 q.1)
    else u

/-- The end of a job. -/
def endJob (s : State) (c : Ctx) : State := { reportDone (vacate s c) c with dispatched := some s.now }

/-- Body of `RDV FIN` (R20, R161, R226): supervisor core 0 runs no job, and its stream issues nothing further (log 44). -/
def rdvFinBody (w : At) (t : State) : Res :=
  if w.ref.st ≠ .C then .trap t (illegal .rdvFin 2)
  else if !joinedAll w.cx then .hold t
  else if w.ref.ctx.core.isSup then .moved (w.put t { w.st with run := .halted })
  else .moved (endJob t w.cx)

/-- `RDV FIN` (R20). -/
def execRdvFin (s : State) : Host.Outcome State Fault Refusal := issue s .rdvFin rdvFinBody

/-! ## Stopping and unloading -/

/-- Does a job of a graph run? -/
def graphRuns (s : State) (a : Nat) : Bool := s.ctxs.any fun c => !c.id.core.isSup && c.card.graph == a && jobRuns c

/-- A `GRAPH stop` that has begun: it completes when no job of the graph runs. -/
def stopGraph (t : State) (g : Graph) : Res :=
  if graphRuns t g.addr then .hold (putGraph t { g with stopping := true })
  else
    let u := putGraph t { g with stopping := false }
    .done (graphErr (if g.state == 4 then u else writeGraphState u g 3) g.addr 0)

def graphStopBody (a : SReg) (w : At) (t : State) : Res :=
  graphWord a w t fun va =>
    match graphAt t va with
    | some g => if g.stopping || g.state == 2 || g.state == 5 then stopGraph t g else .done (graphErr t va 1)
    | none => .done (graphErr t va 1)

/-- `GRAPH stop`. -/
def execGraphStop (a : SReg) (s : State) : Host.Outcome State Fault Refusal := issue s (.graphStop a) (graphStopBody a)

/-- The Traverse that a command has in progress: one that still reads its source has a rank once it has read its own entry (log 110). -/
def travBegun (s : State) (c : Ctx) (d : Cmd) : Option TravSt :=
  match d.prog with
  | .trav t => some t
  | .travRead r =>
    let q := travDesc r.block
    let ents := (List.range (r.table.length / 16)).map fun i => leValue ((r.table.drop (16 * i)).take 16)
    ((List.range ents.length).find? fun i => entOk (ents.getD i 0) && decide (entPos (ents.getD i 0) = (ownFid, c.id))).map fun me =>
      ⟨r.block, ents, me, travInst s c q.id, false, [], [], [], 0, 0, 0⟩
  | _ => none

/-- The ranks of a discarded job count as lost: of each Traverse and push in progress (R253, R288). -/
def loseRanks (s : State) (c : Ctx) : State :=
  let begun : List TravSt := c.cmds.filterMap (travBegun s c)
  let s0 := begun.foldl (fun u t =>
      let q := travDesc t.block
      ((List.range q.count).filter fun r => entOk (t.ents.getD r 0)).foldl (fun v r =>
        let dst := entPos (t.ents.getD r 0)
        let home := (entPos (t.ents.getD (q.rep r) 0)).1
        let v1 := if q.mode = 0 ∨ q.rep r ≠ r ∨ q.piece t.rank r = [] then v
          else sendJob v c home q.vc (.rankLost (q.key t.inst t.rank r) (q.addendIdx t.rank))
        if r = t.rank then v1 else sendJob v1 c dst.1 q.vc (.reject (.trav q.id t.inst t.rank 0) dst.2 t.rank 2)) u) s
  let t := c.cmds.foldl (fun u d =>
    match d.word, d.prog with
    | .pushr _ _ _ o, .push p =>
      let q := pushDesc p.desc
      sendJob u c q.home 0 (.rankLost (.push q.grp o) q.rank)
    | _, _ => u) s0
  let gone : List (CtxId × Nat × Nat) := begun.map fun t => (c.id, (travDesc t.block).id, t.inst)
  t.setRouter { t.router with
    outbox := t.router.outbox.filter fun o => o.job != c.job
    heralds := t.router.heralds.filter fun k => match k.body with
      | .announce dst _ id inst _ _ => !gone.contains (dst, id, inst)
      | _ => true
    gone := gone ++ t.router.gone }

/-- A saved context is gone: its core leaves its tags. -/
def forgetSaved (s : State) (c : Ctx) : State :=
  resetTags (leaveTags { s with saved := s.saved.filter fun y => decide (y.job ≠ c.job) } c.id.core c.card.tags) c.card.tags

/-- Discard every stopped or saved context of a graph's jobs. -/
def discardJobs (s : State) (a : Nat) : State :=
  let t := (s.ctxs.filter fun c => !c.id.core.isSup && c.card.graph == a && !jobRuns c).foldl (fun u c => vacate (loseRanks u c) c) s
  (t.saved.filter fun c => c.card.graph == a).foldl (fun u c => forgetSaved (loseRanks u c) c) t

/-- `GRAPH unload`. -/
def execGraphUnload (a : SReg) (s : State) : Host.Outcome State Fault Refusal :=
  issue s (.graphUnload a) fun w t => graphWord a w t fun va =>
    match graphAt t va with
    | some g =>
      if g.state == 1 || g.state == 3 || g.state == 4 || g.state == 5 then
        if !gangReadable t then .stall else
        let u := writeGraphState (discardJobs t va) g 0
        .done (graphErr { u with graphs := u.graphs.filter fun h => h.addr != va } va 0)
      else .done (graphErr t va 1)
    | none => .done (graphErr t va 1)

/-! ## Admission (R254, R255) -/

/-- Is an instance ready: not begun, and its dependences complete? -/
def Graph.ready (g : Graph) (st i : Nat) : Bool :=
  !g.isDone st i && !g.pool.contains (st, i) && !g.running.contains (st, i) && (st == 0 || g.isDone (st - 1) i) &&
  (List.range g.recs.length).all fun j =>
    !nodesConflict g i j || ((st == 0 || g.isDone (st - 1) j) && (decide (i ≤ j) || g.isDone st j))

/-- Instances that may be ready, in the order of R254. -/
def Graph.next (g : Graph) : List (Nat × Nat) :=
  let top := g.done.foldl (fun m d => max m (d.1 + 1)) g.low
  ((List.range (min (top + 1) g.steps - g.low)).flatMap fun k => (List.range g.recs.length).map fun i => (g.low + k, i)).filter
    fun x => g.ready x.1 x.2

/-- Does a graph take in and dispatch instances? -/
def Graph.open (g : Graph) : Bool := g.state == 2 && !g.stopping

/-- Does a switch of its gang keep a graph from admitting and dispatching (R306)? -/
def gangStops (s : State) (g : Graph) : Bool :=
  let x := gangOf s (ancestors s g.region)
  x != 0 && gangState s x != 0

/-- Instances in the ready pool. -/
def pooled (s : State) : Nat := s.graphs.foldl (fun n g => n + g.pool.length) 0

/-- Admit ready instances, until the pool holds 8,192. -/
def fillPool (s : State) : State :=
  s.graphs.foldl (fun t g =>
    if g.open && !gangStops s g then
      let l := g.next.take (8192 - pooled t)
      if l = [] then t else putGraph t { g with pool := g.pool ++ l }
    else t) s

/-- Insert an instance in ascending order. -/
def insertInst (x : Nat × Nat) : List (Nat × Nat) → List (Nat × Nat)
  | [] => [x]
  | y :: l => if x.1 < y.1 ∨ (x.1 = y.1 ∧ x.2 < y.2) then x :: y :: l else y :: insertInst x l

/-- The pool in dispatch order: effective priority descending, then load order, then step and node. -/
def poolOrder (s : State) : List (Graph × Nat × Nat) :=
  let l := (s.graphs.filter fun g => g.open && !gangStops s g).flatMap fun g => (g.pool.foldl (fun l x => insertInst x l) []).map fun x => (g, x)
  (List.range 16).reverse.flatMap fun p => l.filter fun x => eff s rcbPrio x.1.region == p

/-! ## Fitting a context (R251, R255, R323) -/

/-- The saved context of an instance. -/
def savedOf (s : State) (g : Graph) (st i : Nat) : Option Ctx :=
  s.saved.find? fun c => c.card.graph == g.addr && c.card.step.toNat == st && c.card.node == i

/-- Grants that give each queue of a context room for its commands. -/
def grantsFor (c : Ctx) (q : Queue) : Nat := ((queueCmds c q).length + 15) / 16 - 1

def grantsNeeded (c : Ctx) : Nat := grantsFor c .A + grantsFor c .L + grantsFor c .S + grantsFor c .N

/-- Does Cairn dispatch to a core? -/
def coreOpen (h : HubSt) (d : Die) (k : Fin 96) : Bool :=
  (h.rdyCore.get d).getLsbD k.val && h.rdyClus.getLsbD (d.val * 16 + k.val / 6) && h.rdyHub.getLsbD (8 + d.val) && h.rdyHub.getLsbD 3 &&
  !h.retiredCores.any fun r => decide (r = (d, k))

/-- Is a context of a core free, and, for an array-bearing job, its other context not array-bearing? -/
def ctxOpen (s : State) (x : CtxId) (arr : Bool) : Bool :=
  (s.ctx x).isNone && !(arr && s.ctxs.any fun c => decide (c.id.core = x.core) && c.card.arr)

/-- Do the budgets of a region and of its ancestors allow a job on a core? -/
def budgetOk (s : State) (region : Nat) (k : CoreId) (isX : Bool) : Bool :=
  (ancestors s region).all fun x =>
    let used := allCores.filter fun j => (if isX then j.isX else j.isG) && s.ctxs.any fun c =>
      decide (c.id.core = j) && c.card.anc.any fun a => a.1 == x
    (used.any fun j => decide (j = k)) || decide (used.length + 1 ≤ eff s (if isX then rcbXc else rcbGc) x)

/-- Do the declared handles, or those of a saved context, fit: free banks, L2 quotas, queue entries? -/
def spaceOk (s : State) (region : Nat) (d : Die) (k : CoreId) (banks l2 grants : Nat) : Bool :=
  (match s.core k with
    | some y => decide (banks ≤ (freeBanks s y).length) && decide (16 * grants ≤ y.pool)
    | none => false) &&
  decide (l2Locked s d + l2 ≤ l2Capacity) && (ancestors s region).all fun x => decide (l2Used s x d + l2 ≤ eff s rcbL2q x)

/-- Units of a context's handles at level L2. -/
def l2Of (c : Ctx) : Nat := c.handles.foldl (fun n h => if h.l2 then n + h.units else n) 0

/-- Does an instance fit a context? -/
def fits (s : State) (g : Graph) (st i : Nat) (x : CtxId) : Bool :=
  let v := (g.recs.getD i 0).toNat
  let ds := g.decls.getD i []
  match x.core with
  | .sup => false
  | .core d k =>
    let isX := bitN v 1292
    (if isX then x.core.isX else x.core.isG) &&
    (bitsN v 1303 1302 == 0 || (d.val == bitsN v 1305 1304 && (bitsN v 1303 1302 == 1 || k.val == bitsN v 1312 1306))) &&
    ctxOpen s x (bitN v 1293) && coreOpen s.hub d k && budgetOk s g.region x.core isX &&
    (match savedOf s g st i with
      | some c => spaceOk { s with saved := s.saved.filter fun y => decide (y.job ≠ c.job) } g.region d x.core (banksNeeded c) (l2Of c)
          (grantsNeeded c)
      | none => spaceOk s g.region d x.core (declUnits false ds) (declUnits true ds) 0)
where
  /-- Banks of a saved context's handles. -/
  banksNeeded (c : Ctx) : Nat := c.handles.foldl (fun n h => if h.l2 then n else n + h.units) 0

/-- Contexts in ascending order of (die, core, context). -/
def allPlaces : List CtxId :=
  (allCores.filter fun k => !k.isSup).flatMap fun k => [⟨k, 0⟩, ⟨k, 1⟩]

/-! ## Dispatching (R16, R255) -/

/-- The job card of an instance, with the effective values of its region (R251). -/
def cardOf (s : State) (g : Graph) (st i : Nat) : Card :=
  let v := (g.recs.getD i 0).toNat
  let x := g.region
  let word (lo : Nat) : Word := BitVec.ofNat 64 (bitsN v (lo + 63) lo)
  { args := Vector.ofFn fun j => word (64 * j.val)
    anc := (ancestors s x).map fun a => (a, eff s rcbL2q a)
    lay := word 1152, nlay := bitsN v 1333 1325, tt := word 1088, handler := word 1024, entry := word 960
    arr := bitN v 1293, tags := BitVec.ofNat 8 (bitsN v 1301 1294), region := x, prio := eff s rcbPrio x
    ports := BitVec.ofNat 64 (eff s rcbPorts x), owned := BitVec.ofNat 8 (eff s rcbTags x), key := eff s rcbKey x
    ptroot := eff s rcbPtroot x * 4096, fdom := eff s rcbFdom x, fab := eff s rcbFab x, l2q := eff s rcbL2q x
    graph := g.addr, node := i, step := BitVec.ofNat 32 st }

/-- Rows of stored bytes into a handle: `n` rows of `rb` bytes from row `r` on. -/
def fillRows (h : Handle) (rb r : Nat) (bs : List Byte) : Nat → Handle
  | 0 => h
  | n + 1 => fillRows (h.store r 0 (bs.take rb)) rb (r + 1) (bs.drop rb) n

/-- Allocate the declared handles of a job in ascending order, with their initial bytes (R16), whose reads are no events of the job (R228). One
declared again is skipped (log 42). -/
def allocDecls (s : State) (x : CtxId) : List (BitVec 128) → Got State
  | [] => .ok s
  | d :: l =>
    match s.ctx x, declDesc d with
    | some c, some hd =>
      (match allocHandle s c (declHandle d) hd with
      | .error _ => allocDecls s x l
      | .ok t =>
        let va := bitsN d.toNat 123 72
        if va = 0 then allocDecls t x l
        else
          (loadVirt t { whoStream t c .C with races := false } .load false va (hd.rows * hd.rowBytes)).bind fun r =>
            allocDecls (r.2.mapCtx x fun y => match y.handle (declHandle d) with
              | some h => y.putHandle (fillRows h hd.rowBytes 0 r.1 hd.rows)
              | none => y) x l)
    | _, _ => allocDecls s x l

/-- What the graph orders before an instance: the completed instances of the nodes that conflict with it. -/
def edgesOf (g : Graph) (i : Nat) : Clock :=
  (List.range g.recs.length).foldl (fun k j => if nodesConflict g i j then Clock.join k (assocGet [] g.clk j) else k) []

/-- The place in the issue order behind everything that a core's completed commands have released: a new job's words follow it. -/
def releasedUpTo (s : State) (k : CoreId) : Nat :=
  match s.core k with
  | some y => y.waitClk.foldl (fun n e => max n (e.2.1 + 1)) 0
  | none => 0

/-- A job at its start: its C stream at the entry, with the launch arguments. -/
def newCtx (s : State) (g : Graph) (st i : Nat) (x : CtxId) : Ctx :=
  let k := cardOf s g st i
  let c := { Ctx.reset x (s.fresh + 1) k with baseClk := edgesOf g i, order := releasedUpTo s x.core }
  c.putStream .C { c.stream .C with
    s := Vector.ofFn fun r => if h : 1 ≤ r.val ∧ r.val ≤ 15 then k.args.get ⟨r.val - 1, by omega⟩ else 0
    pc := pcOf k.entry
    run := .run
    firstAt := s.now
    laterAt := s.now
    clk := edgesOf g i }

/-- An instance goes from the pool to a core. The router keeps the weight that the dispatch reads of its region (R251, R286). -/
def toRunning (s : State) (g : Graph) (st i : Nat) : State :=
  { (putGraph s { g with
      pool := g.pool.filter fun y => decide (y ≠ (st, i)), running := (st, i) :: g.running, fdom := eff s rcbFdom g.region }).setRouter
      { s.router with fab := assocSet s.router.fab g.region (eff s rcbFab g.region) } with
    dispatched := some s.now }

/-- Dispatch a new job; a failing read of its initial bytes leaves it undispatched, and its graph enters state 5 (log 42). -/
def dispatchNew (s : State) (g : Graph) (st i : Nat) (x : CtxId) : Option State :=
  let c := newCtx s g st i x
  match allocDecls { s with ctxs := s.ctxs ++ [c] } x (g.decls.getD i []) with
  | .ok t => some (joinTags (toRunning t g st i) x.core c.card.tags)
  | .fail _ _ _ => some (writeGraphState s g 5)
  | .stall => none

/-! ## Restoring a saved context (R22, R219, R309) -/

/-- Give a saved context's handles banks of its new core. -/
def placeHandles (s : State) (c : Ctx) : List Handle → State
  | [] => s
  | h :: l =>
    placeHandles (if h.l2 then s else
      match s.core c.id.core, s.ctx c.id with
      | some k, some y =>
        let bs := (freeBanks s k).take h.units
        (s.putCtx (y.putHandle { h with banks := bs })).putCore (takeBanks k c.id.ctx h.id h.l2split h.l2fmt bs)
      | _, _ => s) c l

/-- A waiting word or command starts a fresh count (R309). -/
def refresh (now : Nat) (c : Ctx) : Ctx :=
  let d := c.mapStreams fun _ t =>
    { t with
      run := match t.run with
        | .held h => .held { h with since := now }
        | r => r
      firstAt := now + 1, laterAt := now + 1 }
  { d with cmds := d.cmds.map fun e => match e.prog with
    | .waiting _ => { e with prog := .waiting now }
    | _ => e }

/-- Place a saved context: banks, queue grants, its tags. It stays frozen. -/
def restore (s : State) (c : Ctx) (x : CtxId) : State :=
  let g : Vector Nat 4 := #v[grantsFor c .A, grantsFor c .L, grantsFor c .S, grantsFor c .N]
  let c1 := { c with id := x, grants := g, order := max c.order (releasedUpTo s x.core) }
  let t := { s with saved := s.saved.filter fun y => decide (y.job ≠ c.job), ctxs := s.ctxs ++ [c1] }
  let u := match t.core x.core with
    | some k => t.putCore { k with pool := k.pool - 16 * grantsOf c1 }
    | none => t
  let v := placeHandles u c1 c1.handles
  let r := v.setRouter { v.router with outbox := v.router.outbox.map fun o => if o.job = c.job then { o with ctx := x } else o }
  joinTags (if x.core = c.id.core then r else leaveTags r c.id.core c.card.tags) x.core c.card.tags

/-- A restored job goes on; a trap recorded meanwhile is delivered before any of its streams issues. -/
def thaw (s : State) (x : CtxId) : State :=
  match s.ctx x with
  | none => s
  | some c =>
    let t := s.putCtx (refresh s.now { c with frozen := false, pendingTrap := none })
    match c.pendingTrap with
    | some p => takeTrap t ⟨x, p.stream⟩ ⟨p.code, p.detail, p.eng, p.eaddr.toNat⟩ p.pc p.qcmd
    | none => t

/-! ## `CAIRN_DISPATCH` -/

/-- Is a saved context a pre-empted one, whose instance does not count as running until it is dispatched again (R22)? -/
def preempted (s : State) (c : Ctx) : Bool :=
  (graphAt s c.card.graph).any fun g => !g.running.contains (c.card.step.toNat, c.card.node)

/-- Does Cairn put jobs on a core (R323)? -/
def coreTakes (h : HubSt) : CoreId → Bool
  | .core d k => coreOpen h d k
  | .sup => false

/-- A job that `GANG` lifted off, whose place is free again while its gang's `GRES` runs (R310). -/
def liftedReady (s : State) : Option Ctx :=
  s.saved.find? fun c =>
    let gid := jobGang s c.card
    gid != 0 && gangState s gid == 3 && !preempted s c &&
    ctxOpen s c.id c.card.arr && coreTakes s.hub c.id.core &&
    (match s.core c.id.core with
      | some k => decide (fits.banksNeeded c ≤ (freeBanks s k).length) && decide (16 * grantsNeeded c ≤ k.pool)
      | none => false)

/-- Dispatch or restore the first instance that fits a context, at the first one that it fits; while its initial bytes lie on a stack that is
not ready, it waits for them, and with it what comes after it (R255, R323). An instance of a region that breaks R250 puts its graph into
state 5. -/
def dispatchOne (s : State) : List (Graph × Nat × Nat) → Option State
  | [] => none
  | (g, st, i) :: l =>
    if !regionOk s g.region then some (writeGraphState s g 5)
    else
      match allPlaces.find? (fits s g st i) with
      | none => dispatchOne s l
      | some x =>
        match savedOf s g st i with
        | some c => some (thaw (restore (toRunning s g st i) c x) x)
        | none =>
          dispatchNew s g st i x

/-- Does Cairn meet a poisoned line in the region table (R327)? -/
def tableStruck (s : State) : Bool :=
  s.mem.poison.any fun l => decide (s.hub.rcbase.toNat / 128 ≤ l) && decide (l ≤ (s.hub.rcbase.toNat + 262143) / 128)

/-- `CAIRN_DISPATCH` (R250, R255, R310): at most one dispatch in a cycle. An uncorrectable error in the region table is fatal (R327, log 85). -/
def execCairnDispatch (s : State) : Host.Outcome State Fault Refusal :=
  if s.dispatched = some s.now ∨ s.hub.rdyHub.getLsbD 3 = false ∨ tableReady s = false then noEvent "CAIRN_DISPATCH"
  else if tableStruck s then .next (fatalError s true)
  else
    match liftedReady s with
    | some c => .next { restore s c c.id with dispatched := some s.now }
    | none =>
      let t := fillPool s
      match dispatchOne t (poolOrder t) with
      | some u => .next u
      | none => if t.graphs = s.graphs then noEvent "CAIRN_DISPATCH" else .next t

/-! ## Pre-emption (R22, R31, R168) -/

/-- Stop a job to save it: its streams stop at their word boundaries, with their resume points recorded. -/
def freeze (c : Ctx) : Ctx :=
  if c.frozen then c
  else
    { c.mapStreams fun _ t => if t.run.live && !t.stopped then t.record else t with
      frozen := true }

/-- Save a frozen context: it keeps its handles' formats and gives its place back. -/
def saveCtx (s : State) (c : Ctx) : State :=
  let kept := c.handles.map fun h => if h.l2 then h else { h with l2fmt := handleFmt s c h, l2split := handleSplit s c h, banks := [] }
  let t := dropRetiredOf (unplace s c) c.id.core
  { t with saved := t.saved ++ [{ c with handles := kept, grants := Vector.replicate 4 0 }] }

/-- May a job be lifted off: no array command and no vector word is in progress (R168, R106)? -/
def liftable (c : Ctx) : Bool := !c.cmds.any arrayBusy && c.vxc.isNone && !(c.stream .C).vdividing

/-- `PRE_EMPTION` (R22): a running job is stopped and saved, and waits in the pool for its restoration; while the pool is full it waits to be
admitted again (R255). -/
def execPreEmption (x : CtxId) (s : State) : Host.Outcome State Fault Refusal :=
  match s.ctx x with
  | none => noEvent "PRE_EMPTION"
  | some c =>
    if x.core.isSup || c.frozen || !liftable c then noEvent "PRE_EMPTION"
    else
      let t := saveCtx (s.putCtx (freeze c)) (freeze c)
      let inst := (c.card.step.toNat, c.card.node)
      .next (match graphAt t c.card.graph with
        | some g => putGraph t { g with
            running := g.running.filter fun y => decide (y ≠ inst), pool := if pooled t < 8192 then inst :: g.pool else g.pool }
        | none => t)

/-! ## Quiescent cores (R220, R221) -/

/-- The queue whose free entry a held stream waits for. -/
def waitsFor (c : Ctx) (t : Stream) : Option Queue :=
  match t.run with
  | .held h => (Instr.queue h.word).filter fun q => queueFull c q
  | _ => none

/-- Contexts of a core. -/
def ctxsOf (s : State) (k : CoreId) : List Ctx := s.ctxs.filter fun c => decide (c.id.core = k)

/-- Streams of a core held for a free entry of a full queue: queue entries, engine code, context, stream. -/
def fullWaits (s : State) (k : CoreId) : List (Nat × Queue × StreamRef) :=
  (ctxsOf s k).flatMap fun c => [StreamId.C, .A, .L, .S, .N].filterMap fun x =>
    if (c.stream x).stopped || c.frozen || c.atSup then none
    else (waitsFor c (c.stream x)).map fun q => (queueDepth c q, q, ⟨c.id, x⟩)

/-- Of two waits, the one of the queue with fewer entries; ties to the lower engine code, then to context 0. -/
def fewer (a b : Nat × Queue × StreamRef) : Bool :=
  decide (a.1 < b.1) || (a.1 == b.1 && (decide (queueEng a.2.1 < queueEng b.2.1) ||
    (queueEng a.2.1 == queueEng b.2.1 && decide (a.2.2.ctx.ctx.val < b.2.2.ctx.ctx.val))))

/-- The queue that gets entries. Of two streams that wait for one queue the first in the order of Table 10.2 is taken: R220 does not say which
(log 102). -/
def neediest (l : List (Nat × Queue × StreamRef)) : Option (Nat × Queue × StreamRef) :=
  l.foldl (fun o a => match o with
    | none => some a
    | some b => if fewer a b then some a else some b) none

/-- Detail of a deadlock trap (Table 10.1). -/
def deadlockDetail (eng : Nat) (x : CtxId) : Nat := eng + 8 * x.ctx.val

/-- `ecause.eng` of a stream's deadlock trap: the engine code of the word that holds it; 0 where none does. -/
def heldEng (t : Stream) : Nat :=
  match t.run with
  | .held h => Instr.engine h.word
  | _ => 0

/-- Deadlock traps in the C stream of each context with a held stream. -/
def deadlocked (s : State) (k : CoreId) : State :=
  ((ctxsOf s k).filter fun c => [StreamId.C, .A, .L, .S, .N].any fun x =>
      !(c.stream x).stopped && !c.frozen && !c.atSup && (match (c.stream x).run with
        | .held _ => true
        | _ => false)).foldl
    (fun t c => takeTrap t ⟨c.id, .C⟩ ⟨9, deadlockDetail 0 c.id, heldEng (c.stream .C), 0⟩ (c.stream .C).pc false) s

/-- `QUIESCENCE_TIMEOUT` (R220, R221): after 64 quiescent cycles a core grants 16 entries, or raises a deadlock trap. -/
def execQuiescenceTimeout (k : CoreId) (s : State) : Host.Outcome State Fault Refusal :=
  match s.core k with
  | none => noEvent "QUIESCENCE_TIMEOUT"
  | some y =>
    if y.quiet < 64 then noEvent "QUIESCENCE_TIMEOUT"
    else
      match neediest (fullWaits s k) with
      | none => .next (deadlocked (s.putCore { y with quiet := 0 }) k)
      | some (_, q, r) =>
        match s.ctx r.ctx with
        | none => noEvent "QUIESCENCE_TIMEOUT"
        | some c =>
          if 16 ≤ y.pool then
            .next ((s.putCtx { c with grants := c.grants.set (queueIdx q).val (c.grants.get (queueIdx q) + 1) (queueIdx q).isLt }).putCore
              { y with pool := y.pool - 16, quiet := 0 })
          else
            .next (takeTrap (s.putCore { y with quiet := 0 }) r ⟨9, deadlockDetail (queueEng q) r.ctx, heldEng (c.stream r.st), 0⟩
              (c.stream r.st).pc false)

end Sys2Proof.Machine
end

