-- ==== Sys2Proof/Machine/Gang.lean ====
section
/-! DEFINITION. The gang switch: `GANG` and `GRES` (R304-R313, R317-R319). Each holds its stream and moves on in stages: `WAIT_SATISFIED`
takes the next one, `GANG_SWEEP_CLOSE` and `GRES_RESUME` end them. -/

namespace Sys2Proof.Machine

/-- May the hub read bytes at a physical address (R305, R323, R327)? -/
def physCheck (s : State) (pa n : Nat) : Got Unit :=
  if hbmSize < pa + n then .fail 5 0 pa
  else if s.hub.retiredStacks.any fun j => j.val == pa / 2 ^ 36 then .fail 14 0 pa
  else if !(stackReady s.hub pa && stackReady s.hub (pa + (n - 1))) then .stall
  else if s.mem.poison.any fun x => decide (x * 128 < pa + n) && decide (pa < x * 128 + 128) then .fail 14 0 pa
  else .ok ()

/-- Is a context one of a gang's jobs? -/
def inGang (s : State) (g : Nat) (c : Ctx) : Bool := !c.id.core.isSup && jobGang s c.card == g

/-- The other members of a gang. -/
def gangPeers (s : State) (g : Nat) : List Fid := (gangMembers s g).filter fun f => decide (f ≠ ownFid)

/-- Set `gg.state`. -/
def gangEnter (s : State) (g : Nat) (st : Fin 5) : State :=
  gangSet (gangPut s { gangGet s g with state := st }) g 227 224 st.val

/-- Send a marker or resume marker of a gang. -/
def sendMark (g : Nat) (body : PacketBody) (s : State) (m : Fid × Fin 8) : State :=
  sendPacket s m.1 m.2 ⟨g % 4096, Nat.mod_lt _ (by decide)⟩ (ggRegion (gangRec s g)) body

/-! ## `GANG` (R306) -/

/-- The first stage: no instance of the gang's graphs is admitted any more, and every job of the gang stops (R308). -/
def gangStart (s : State) (g : Nat) (h : GangHold) : State :=
  let gs := (s.graphs.filter fun x => x.state == 2 && gangOf s (ancestors s x.region) == g)
  let t := gangPut s { gangGet s g with
    state := 1, lifted := false, recs := [], back := false, used := 0, npk := 0, nlate := 0, spilled := false
    graphs := gs.map fun x => x.addr, hold := some h, after := []
    area := (bitsN (gangRec s g) 45 12 * 4096, bitsN (gangRec s g) 223 192 * 4096) }
  let u := gangSet (gangSet (gangSet (gangSet t g 227 224 1) g 319 288 0) g 287 256 0) g 351 320 0
  let v := gs.foldl (fun w x => writeGraphState w x 3) u
  { v with ctxs := v.ctxs.map fun c => if inGang s g c then freeze c else c }

/-- Are the frames of a gang's record and member list there (R323)? -/
def gangFrames (s : State) (g : Nat) : Bool :=
  let v := gangRec s g
  tableReady s && stackReady s.hub (gangAddr s g) && stackReady s.hub (bitsN v 109 76 * 4096) &&
    stackReady s.hub (bitsN v 109 76 * 4096 + 2 * bitsN v 151 140)

/-- Can a gang's jobs be lifted off now? -/
def gangLiftable (s : State) (g : Nat) : Bool := gangFrames s g && (s.ctxs.filter (inGang s g)).all liftable

/-- The order of group keys: push groups by their stored bytes as a number, then Traverse groups by `tv.id`, instance, `b` and box (log 99). -/
def keyRank : GroupKey → List Nat
  | .push grp o => [0, grp % 2 ^ 16 + o.code * 2 ^ 16]
  | .trav id inst b box => [1, id, inst, b, box]

/-- Insert a group by its key. -/
def insertGroup (x : Group) : List Group → List Group
  | [] => [x]
  | y :: l => if keyRank x.key < keyRank y.key then x :: y :: l else y :: insertGroup x l

/-- Place of a context in the order of (die, core, context). -/
def placeRank (x : CtxId) : Nat :=
  (match x.core with
    | .core d k => d.val * 96 + k.val
    | .sup => 0) * 2 + x.ctx.val

def insertCtx (x : Ctx) : List Ctx → List Ctx
  | [] => [x]
  | y :: l => if placeRank x.id < placeRank y.id then x :: y :: l else y :: insertCtx x l

/-- Entries of a context's stream registers, oldest first. -/
def ctxEntries (c : Ctx) : List SaveItem :=
  (List.finRange 16).flatMap fun z => (c.z.get z).buf.map fun e => .entry c.id z e

/-- A context without its receive-buffer entries. -/
def clearBufs (c : Ctx) : Ctx := { c with z := c.z.map fun x => { x with buf := [] } }

/-- Is it a packet of a gang, and no marker? -/
def ofGang (g : Nat) (k : Packet) : Bool := k.gang.val == g && !isMarker k.body

/-- Packets that the router keeps, in the order in which they came; those whose coming is not noted stand first. -/
def inOrder (r : RouterSt) : List Packet :=
  let l := r.waitq ++ r.heralds
  (l.filter fun k => !r.arrived.contains (k.src, k.vc, k.seq)) ++
    r.arrived.flatMap fun e => l.filter fun k => decide ((k.src, k.vc, k.seq) = e)

/-- The gang's local-class packets in the router, channels ascending, each in arrival order; what the router has kept of a Traverse's
announcements is among them (R300). -/
def gangWaiting (s : State) (g : Nat) : List Packet :=
  (List.finRange 8).flatMap fun v => (inOrder s.router).filter fun k => ofGang g k && decide (k.vc = v)

/-- Receive every packet that is on its way within the module: its arrival order stands. One of the gang comes after the stop (R306, step 4,
R317). -/
def settleLocals (s : State) : State :=
  s.router.locals.foldl receive (s.setRouter { s.router with locals := [] })

/-- Does a group of a gang go to the save area? One whose result has been handed on is in the router as packets. -/
def keptGroup (g : Nat) (x : Group) : Bool := x.gang.val == g && !x.cast

/-- Take the gang's packets and groups out of the router. -/
def clearGang (s : State) (g : Nat) : State :=
  let t := gangPut s { gangGet s g with after := [] }
  t.setRouter { t.router with
    waitq := s.router.waitq.filter fun k => !ofGang g k
    heralds := s.router.heralds.filter fun k => !ofGang g k
    groups := s.router.groups.filter fun x => !keptGroup g x }

/-- The second stage: markers go to every other member, Cairn saves the contexts, and what the router holds of the gang goes to the
save area: its packets, its groups, its stream registers' entries, and then what has been delivered since the stop. -/
def gangLift (s : State) (g : Nat) : State :=
  let s1 := (gangPeers s g).foldl (fun t m => (List.finRange 8).foldl (fun u v => sendMark g .marker u (m, v)) t) s
  let s2 := settleLocals s1
  let cs := s2.ctxs.filter (inGang s2 g)
  let s3 := cs.foldl saveCtx s2
  let s4 := gangPut s3 { gangGet s3 g with lifted := true }
  let grs := (s4.router.groups.filter (keptGroup g)).foldl (fun l x => insertGroup x l) []
  let ents := ((s4.saved.filter (inGang s4 g)).foldl (fun l c => insertCtx c l) []).flatMap ctxEntries
  let items := (gangWaiting s4 g).map SaveItem.packet ++ grs.map SaveItem.group ++ ents ++ (gangGet s4 g).after.map SaveItem.packet
  let s5 := clearGang { s4 with saved := s4.saved.map fun c => if inGang s4 g c then clearBufs c else c } g
  items.foldl (fun t it => saveItem t g it) s5

/-- Has every other member closed, and has what this module sends of the gang, its markers among it, left (R306, R319)? -/
def gangClosed (s : State) (g : Nat) : Bool :=
  gangFrames s g && (gangPeers s g).all (memberClosed s (gangGet s g)) && !(s.router.out.any fun k => decide (k.src = ownFid) && k.gang.val == g)

/-- The checks of R305: reads of the record and of the member list, then what both words ask of the record. -/
def gangCheck (s : State) (g : Nat) (ok : State → Nat → Bool) : Got Unit :=
  if s.hub.gangbase = 0 ∨ g = 0 then .fail 5 g 0
  else
    (physCheck s (gangAddr s g) 64).bind fun _ =>
      let v := gangRec s g
      if !ggValid v || !ok s v then .fail 5 g 0
      else physCheck s (bitsN v 109 76 * 4096) (2 * (bitsN v 151 140 + 1))

/-- Does a job of a gang run or wait on this module? -/
def gangHere (s : State) (g : Nat) : Bool := s.ctxs.any (inGang s g) || s.saved.any (inGang s g)

/-- Start the sweep of a gang, and lift its jobs off where they can be lifted at once. -/
def gangBegin (s : State) (g : Nat) (h : GangHold) : State :=
  let t := gangStart s g h
  if gangLiftable t g then gangLift t g else t

/-- The `GANG` or `GRES` at a stream's pc. -/
def At.gangHold (w : At) (gres : Bool) : GangHold := ⟨w.ref, gres, w.st.pc⟩

/-- Body of `GANG`, as it issues and as it is held. One that a trap has interrupted goes on where it stands when it issues again (log 105). -/
def gangBody (a : SReg) (w : At) (t : State) : Res :=
  let g := (w.arg a).toNat % 4096
  let x := gangGet t g
  if g ≠ 0 ∧ x.hold = some (w.gangHold false) then
    match x.state.val with
    | 1 => if !x.lifted && gangLiftable t g then .hold (gangLift t g) else .hold t
    | _ => .done (gangPut t { x with hold := none })
  else if !tableReady t then .stall
  else
    (gangCheck t g fun s v => ggState v == 0 && gangHere s g).res t 7 fun _ => .hold (gangBegin t g (w.gangHold false))

/-- `GANG` (R305, R306). -/
def execGang (a : SReg) (s : State) : Host.Outcome State Fault Refusal := issue s (.gang a) (gangBody a)

/-- Complete the word that a gang's switch holds; one that a trap has interrupted completes when it is back at its stream. -/
def gangDone (s : State) (g : Nat) : State :=
  let x := gangGet s g
  match x.hold with
  | none => s
  | some y =>
    match s.ctx y.ref.ctx with
    | none => s
    | some c =>
      match (c.stream y.ref.st).run with
      | .held h =>
        if decide ((c.stream y.ref.st).pc = y.pc) && (match h.word with
          | .gang _ => !y.gres
          | .gres _ => y.gres
          | _ => false) then (takenUp (gangPut s { x with hold := none }) y.ref).mapStream y.ref Stream.advance
        else s
      | _ => s

/-- Send what has been handed over of the gang since its markers: it gets its numbers now (R319). -/
def sendLater (s : State) (g : Nat) : State :=
  let mine (k : Packet) : Bool := k.gang.val == g
  (s.router.later.filter mine).foldl (fun t k => sendPacket t k.dst k.vc k.gang k.region k.body)
    (s.setRouter { s.router with later := s.router.later.filter fun k => !mine k })

/-- `GANG_SWEEP_CLOSE` (R306, R312): every other member has closed, and `GANG` completes. One that no `GRES` will resume has nothing more to
hold back. -/
def execGangSweepClose (g : Fin 4096) (s : State) : Host.Outcome State Fault Refusal :=
  let x := gangGet s g.val
  if x.state = 1 ∧ x.lifted = true ∧ gangClosed s g.val = true then
    let q := takeSeq s
    let t := gangSet (gangPut q.2 { x with markers := [] }) g.val 447 384 q.1
    let u := gangEnter t g.val (if x.spilled then 4 else 2)
    .next (gangDone (if x.spilled then sendLater u g.val else u) g.val)
  else noEvent "GANG_SWEEP_CLOSE"

/-! ## `GRES` (R310, R318, R319) -/

/-- Has Cairn restored every context that it saved for the gang? -/
def gangRestored (s : State) (g : Nat) : Bool := !(s.saved.any fun c => inGang s g c && !preempted s c)

/-- A packet with another payload. -/
def withPayload (k : Packet) (b : List Byte) : Packet :=
  { k with body := match k.body with
      | .entry dst z _ => .entry dst z b
      | .contrib key frm dst rank need count part parts _ => .contrib key frm dst rank need count part parts b
      | .result key ms code lost fl part parts _ => .result key ms code lost fl part parts b
      | .piece dst orig via id inst x y part parts _ => .piece dst orig via id inst x y part parts b
      | other => other }

/-- A kind-1 record at a physical address: the packet with the payload that the save area holds (log 81). -/
def rereadPacket (s : State) (pa : Nat) (k : Packet) : Packet := withPayload k (physLoad s (pa + 48) (payloadOf k).length)

/-- The nested records of a group, from a physical address on. -/
def rereadParts (s : State) (pa : Nat) : List Packet → List Packet
  | [] => []
  | k :: l => rereadPacket s pa k :: rereadParts s (pa + 48 + pad16 (payloadOf k).length) l

/-- Put packets in the place of a group's early ones: each where its rank and part stand. -/
def putPart (e : List Contrib) (k : Packet) : List Contrib :=
  match k.body with
  | .contrib _ _ _ rank _ _ part _ _ => e.map fun c => if c.rank = rank then { c with got := assocSet c.got part k } else c
  | _ => e

/-- A saved record with the data that the save area holds at its offset (R311; log 81): payloads, entries, a group's next rank and
accumulator. -/
def reread (s : State) (base : Nat) : Nat × SaveItem → SaveItem
  | (o, .packet k) => .packet (rereadPacket s (base + o) k)
  | (o, .entry x z e) => .entry x z (e.1, e.2.1, e.2.2.1, physLoad s (base + o + 16) e.2.2.2.length)
  | (o, .group g) =>
    let n := (g.count + 1) * opWidth (keyOp g.key)
    let early := (rereadParts s (base + o + 48 + pad16 n) (earlyPackets g)).foldl putPart g.early
    .group { g with next := leValue (physLoad s (base + o + 32) 4), acc := physLoad s (base + o + 48) n, early := early }

/-- The context that a saved entry goes back to: a job of the gang at the entry's place (log 81). -/
def entryHome (s : State) (g : Nat) (x : CtxId) (z : ZReg) (c : Ctx) : Bool := decide (c.id = x) && (c.z.get z).isOpen && inGang s g c

/-- An entry joins its stream register. -/
def Ctx.refill (c : Ctx) (z : ZReg) (e : Fid × Nat × Nat × List Byte) : Ctx := c.putZ z { c.z.get z with buf := (c.z.get z).buf ++ [e] }

/-- May a group be restored now? -/
def groupFits (s : State) (x : Group) : Bool :=
  decide (reductionUsed s.router + x.bytes ≤ reductionSize) && !s.router.groups.any fun y => decide (y.key = x.key)

/-- Re-inject a group or an entry (R310, step 3): none where a group must wait for reduction memory, or for its key (log 81). -/
def reinject (s : State) (g : Nat) : SaveItem → Option State
  | .packet _ => some s
  | .group x =>
    if groupFits s x then some (putGroup s (foldGroup x (x.need + 1))) else none
  | .entry dst z e =>
    if s.ctxs.any (entryHome s g dst z) then
      some { s with ctxs := s.ctxs.map fun c => if entryHome s g dst z c then c.refill z e else c }
    else some { s with saved := s.saved.map fun c => if entryHome s g dst z c then c.refill z e else c }

/-- Re-inject groups and entries in saved order: what is left, and the state. -/
def reinjectAll (s : State) (g base : Nat) : List (Nat × SaveItem) → List (Nat × SaveItem) × State
  | [] => ([], s)
  | it :: l =>
    match reinject s g (reread s base it) with
    | some t => reinjectAll t g base l
    | none => (it :: l, s)

/-- A saved packet. -/
def savedPacket (s : State) (base : Nat) (it : Nat × SaveItem) : Option Packet :=
  match reread s base it with
  | .packet k => some k
  | _ => none

/-- The number a saved packet carries, with its source and channel. -/
def itemNumber : SaveItem → Option (Fid × Nat × Nat)
  | .packet k => some (k.src, k.vc.val, k.seq.toNat)
  | .entry _ _ e => some (e.1, e.2.1, e.2.2.1)
  | .group _ => none

/-- A record that repeats the number of an earlier one of the save area is a duplicate (R318). -/
def dropRepeats (seen : List (Fid × Nat × Nat)) : List (Nat × SaveItem) → List (Nat × SaveItem)
  | [] => []
  | it :: l =>
    match itemNumber it.2 with
    | some n => if seen.contains n then dropRepeats seen l else it :: dropRepeats (n :: seen) l
    | none => it :: dropRepeats seen l

/-- Is it a kind-1 record? -/
def isPacketItem (it : Nat × SaveItem) : Bool :=
  match it.2 with
  | .packet _ => true
  | _ => false

/-- Byte address of a gang's save area. -/
def saveBase (s : State) (g : Nat) : Nat := bitsN (gangRec s g) 45 12 * 4096

/-- Steps 3 and 4 of R310: groups and entries go back to their places; then the saved packets stand in the router's local class, in saved
order and ahead of any later arrival, and a resume marker goes to every other member. -/
def gresGo (s : State) (g : Nat) : State :=
  let x := gangGet s g
  let base := saveBase s g
  let r := reinjectAll s g base (x.recs.filter fun it => !isPacketItem it)
  match r.1 with
  | [] =>
    let t := gangPut r.2 { gangGet r.2 g with back := true, recs := [] }
    let back := x.recs.filterMap (savedPacket s base)
    let u := t.setRouter { t.router with
      waitq := back ++ t.router.waitq, arrived := (back.map fun k => (k.src, k.vc, k.seq)) ++ t.router.arrived }
    (gangPeers u g).foldl (fun v m => sendMark g .resume v (m, 0)) u
  | l => gangPut r.2 { gangGet r.2 g with recs := x.recs.filter isPacketItem ++ l }

/-- Can a held `GRES` go on: contexts restored, and the next record taken in? -/
def gresReady (s : State) (g : Nat) : Bool :=
  let x := gangGet s g
  !x.back && gangFrames s g && gangRestored s g &&
    (match x.recs.filter fun it => !isPacketItem it with
    | (_, .group y) :: _ => groupFits s y
    | _ => true)

/-- Body of `GRES`, as it issues and as it is held. One that a trap has interrupted goes on where it stands when it issues again (log 105). -/
def gresBody (a : SReg) (w : At) (t : State) : Res :=
  let g := (w.arg a).toNat % 4096
  let x := gangGet t g
  if g ≠ 0 ∧ x.hold = some (w.gangHold true) then
    match x.state.val with
    | 3 =>
      if gresReady t g then
        (match physCheck t (saveBase t g) (16 * x.used) with
        | .stall => .hold t
        | q => q.res t 7 fun _ => .hold (gresGo t g))
      else .hold t
    | _ => .done (gangPut t { x with hold := none })
  else if !tableReady t then .stall
  else
    (gangCheck t g fun _ v => ggState v == 2).res t 7 fun _ =>
      .hold (gangEnter (gangPut t { x with hold := some (w.gangHold true), back := false, recs := dropRepeats [] x.recs }) g 3)

/-- `GRES` (R305, R310). -/
def execGres (a : SReg) (s : State) : Host.Outcome State Fault Refusal := issue s (.gres a) (gresBody a)

/-- Have the resume markers of all other members arrived? -/
def gresHeard (s : State) (g : Nat) : Bool :=
  gangFrames s g && (gangPeers s g).all fun f => s.router.lost.contains f || (gangGet s g).resumes.contains f

/-- `GRES_RESUME` (R310, step 5): the restored streams restart, and `GRES` completes. -/
def execGresResume (g : Fin 4096) (s : State) : Host.Outcome State Fault Refusal :=
  let x := gangGet s g.val
  if x.state = 3 ∧ x.back = true ∧ gresHeard s g.val = true then
    let t := (s.ctxs.filter fun c => c.frozen && inGang s g.val c).foldl (fun u c => thaw u c.id) s
    let u := (t.graphs.filter fun y => y.state == 3 && x.graphs.contains y.addr).foldl (fun v y => writeGraphState v y 2) t
    let q := takeSeq u
    let v := gangSet (gangPut q.2 { gangGet q.2 g.val with resumes := [], graphs := [], back := false }) g.val 511 448 q.1
    .next (gangDone (sendLater (gangEnter v g.val 0) g.val) g.val)
  else noEvent "GRES_RESUME"

end Sys2Proof.Machine
end

