-- ==== Sys2Proof/Machine/Events.lean ====
section
/-! DEFINITION. Events of the hub die and from outside: the host link (R246, R248, R333), ready bits and power (R323, R330, R331), errors
(R327, R328), retirement and repair (R329), time (R325, R326), attestation (R332), register writes of the management port (R322), and
evictions (R239). -/

namespace Sys2Proof.Machine

/-! ## Caches -/

/-- `LINE_EVICTION` (R239): a die's copy of a line is merged into HBM by its dirty mask, and dropped. One with dirty bytes stays while its
stack is not ready (R323). -/
def execLineEviction (die : Die) (line : Nat) (s : State) : Host.Outcome State Fault Refusal :=
  match dieFind s.mem die line with
  | some x =>
    if x.dirty ≠ 0 ∧ stackReady s.hub (line * 128) = false then noEvent "LINE_EVICTION"
    else .next (s.setMem (dropLine (writeBack s.mem die line) die line))
  | none => noEvent "LINE_EVICTION"

/-! ## Mailboxes (R246) -/

/-- Can the host reach the module: power, a verified boot, and the host link's bit (R15, R323)? -/
def hostLinked (h : HubSt) : Bool := h.powered && h.rdyHub.getLsbD 0 && h.rdyHub.getLsbD 5

/-- `HOST_DOORBELL`: the host has written the buffer, and rings the doorbell; a length of 0 or above 4,096 is ignored. -/
def execHostDoorbell (m : Fin 64) (value : Word) (buffer : List Byte) (s : State) : Host.Outcome State Fault Refusal :=
  if !hostLinked s.hub then noEvent "HOST_DOORBELL"
  else
  let b := { s.hub.mail.get m with buf := buffer.take 4096 }
  let n := bitsN value.toNat 47 32
  let c : Mailbox := if n = 0 ∨ 4096 < n then b else { b with new := true, len := BitVec.ofNat 16 n, seq := value.setWidth 32 }
  .next (s.setHub { s.hub with mail := s.hub.mail.set m.val c m.isLt })

/-! ## Checked pages (R248) -/

def execChkmapWrite (v : Word) (s : State) : Host.Outcome State Fault Refusal := .next (chkMap s v)

def execChkunmapWrite (v : Word) (s : State) : Host.Outcome State Fault Refusal := .next (chkUnmap s v)

/-! ## Retirement and repair (R329): a command is ignored while another is in progress -/

/-- Act on an `rp.cmd`. -/
def repairCmd (s : State) (f : State → State) : Host.Outcome State Fault Refusal :=
  .next (if s.hub.rpStat.getLsbD 8 then s else f s)

def execRetireCore (d : Die) (k : Fin 96) (s : State) : Host.Outcome State Fault Refusal := repairCmd s fun t => retireCore t d k

def execRetireBank (d : Die) (k b : Fin 96) (s : State) : Host.Outcome State Fault Refusal := repairCmd s fun t => retireBank t d k b

def execRetireLane (p : Port) (l : Lane) (s : State) : Host.Outcome State Fault Refusal := repairCmd s fun t => retireLane t p l

def execRepairHbmRow (j : Fin 8) (row : BitVec 32) (s : State) : Host.Outcome State Fault Refusal :=
  repairCmd s fun t => repairRow t j row

/-- Streams that stalled on an HBM stack try again (R323). -/
def wakeStalled (s : State) : State :=
  { s with ctxs := s.ctxs.map fun c => c.mapStreams fun _ t => if t.run = .stalled then { t with run := .run } else t }

/-- The ready bit of an HBM stack. -/
def stackBit (j : Fin 8) : BitVec 64 := BitVec.ofNat 64 (2 ^ (12 + j.val))

/-- Does a stack's ready bit set again when its repair ends: it was set before, the boot has passed, and no fatal error came? -/
def setsAgain (h : HubSt) (j : Fin 8) : Bool :=
  !h.fatal && h.rdyHub.getLsbD 0 && h.rpBusy.any fun r => decide (r.1.stack = j) && r.2

/-- `HBM_REPAIR_DONE`: the spare row is in place; the stack's bit sets again. -/
def execHbmRepairDone (j : Fin 8) (s : State) : Host.Outcome State Fault Refusal :=
  if s.hub.rpBusy.any fun r => decide (r.1.stack = j) then
    .next (wakeStalled (rpResult (s.setHub { s.hub with
      rpBusy := s.hub.rpBusy.filter fun r => decide (r.1.stack ≠ j)
      rdyHub := if setsAgain s.hub j then s.hub.rdyHub ||| stackBit j else s.hub.rdyHub }) 0 false))
  else noEvent "HBM_REPAIR_DONE"

/-! ## Time (R325, R326) -/

def execTimeStepWrite (v : Word) (s : State) : Host.Outcome State Fault Refusal := .next (timeStepBy s v)

/-- `tm.lock` after the servo's new offset estimate, which the rules do not compute: a free value (log 100). -/
def lockWord (free : Nat) : Word := Config.freeWord free &&& 1

/-- `PTP_EVENT_RX`: an event message is received, and timestamped; the servo's estimate, and with it `tm.lock`, follow. -/
def execPtpEventRx (s : State) : Host.Outcome State Fault Refusal :=
  .next (s.setHub { s.hub with tmRx := s.hub.tmNow, tmStat := lockWord s.free })

/-- `PTP_EVENT_TX`: an event message is sent, and timestamped. -/
def execPtpEventTx (s : State) : Host.Outcome State Fault Refusal := .next (s.setHub { s.hub with tmTx := s.hub.tmNow })

/-- What a cycle adds to module time, and the part of a count that is left over (R325, Table 20.4). -/
def tickTime (h : HubSt) : HubSt :=
  let f := h.tmFrac + sextN 32 h.tmAdj.toNat
  { h with tmNow := BitVec.ofInt 64 ((h.tmNow.toNat : Int) + 1 + f / 2 ^ 40), tmFrac := f % 2 ^ 40 }

/-! ## The RAS ring (R328) -/

def execRasLenWrite (v : Word) (s : State) : Host.Outcome State Fault Refusal := .next (writeRasLen s v)

def execRasBaseWrite (v : Word) (s : State) : Host.Outcome State Fault Refusal := .next (writeRasBase s v)

def execRasTailWrite (v : Word) (s : State) : Host.Outcome State Fault Refusal := .next (writeRasTail s v)

/-! ## Attestation (R332) -/

/-- `NONCE_WRITE`: the manager's nonce starts a quote. -/
def execNonceWrite (v : BitVec 256) (s : State) : Host.Outcome State Fault Refusal := .next (writeNonce s v)

/-- Bytes 0 to 2,183 of a quote. -/
def quoteBody (h : HubSt) : List Byte :=
  leBytes 32 h.nonce.toNat ++ leBytes 8 ownFid.val ++ bytes512 h.m0 ++ bytes512 h.m1 ++ bytes512 h.m2 ++
    (List.range 1952).map Config.identityKey

/-- A quote: its body, the signature over the body's digest, and three zero bytes. -/
def quoteBytes (h : HubSt) : List Byte :=
  quoteBody h ++ (List.range 3309).map (Config.quoteSign (shake256 (quoteBody h))) ++ leBytes 3 0

/-- `QUOTE_READY`: the quote of the last nonce is complete. -/
def execQuoteReady (s : State) : Host.Outcome State Fault Refusal :=
  if s.hub.quoting then .next (s.setHub { s.hub with quote := quoteBytes s.hub, quoting := false, atReady := true })
  else noEvent "QUOTE_READY"

/-! ## Power-up and ready bits (R14, R323, R331) -/

/-- A port at power-up that keeps its retired lanes. -/
def PortSt.renew (x : PortSt) : PortSt :=
  { PortSt.reset with lanes := x.lanes.map fun y => { PortSt.reset.lanes.get 0 with retired := y.retired } }

/-- `POWER_UP`: every piece of state is at its reset value, but for what the nonvolatile store keeps (R329). The boot ROM extends
`at.m0` with the digest of the firmware image, and sets bit 0 where its signature verifies. -/
def execPowerUp (firmware : List Byte) (s : State) : Host.Outcome State Fault Refusal :=
  if s.hub.powered then noEvent "POWER_UP"
  else
    let h := s.hub
    .next { State.reset with
      hub := { HubSt.reset with
        ports := h.ports.map PortSt.renew, retiredCores := h.retiredCores, retiredBanks := h.retiredBanks
        retiredStacks := h.retiredStacks, repairedRows := h.repairedRows, powered := true
        m0 := extend 0 (shake256 firmware)
        rdyHub := if Config.firmwareOk firmware then 1 else 0 }
      script := s.script
      turns := s.turns
      fresh := s.fresh }

/-- May a function set its bit: bit 0 is set, and the part is neither retired nor in repair; bits 0 and 2 set by the boot (R331, R333)? -/
def mayReady (h : HubSt) (f : ReadyFn) : Bool :=
  h.powered && !h.fatal && h.rdyHub.getLsbD 0 &&
    (match f with
    | .hub b => b.val != 0 && b.val != 2 &&
        !(decide (12 ≤ b.val) && decide (b.val < 20) &&
          ((h.rpBusy.any fun r => r.1.stack.val + 12 == b.val) || h.retiredStacks.any fun j => j.val + 12 == b.val))
    | .core d k => !h.retiredCores.any fun r => decide (r = (d, k))
    | .cluster _ => true
    | .port _ => true)

/-- Key index 0 is loaded before the bit of memory encryption sets (R333). -/
def loadBootKey (s : State) : State :=
  if (assocFind s.mem.keys 0).isSome then s
  else s.setMem { s.mem with keys := assocSet s.mem.keys 0 (Config.bootKey s.fresh, Config.bootKey (s.fresh + 1)) }

/-- The state with a ready bit set. -/
def setReady (s : State) (f : ReadyFn) : State :=
  let h := s.hub
  match f with
  | .hub b =>
    let t := if b.val = 1 then loadBootKey s else s
    wakeStalled (t.setHub { h with rdyHub := h.rdyHub ||| BitVec.ofNat 64 (2 ^ b.val), timeSet := h.timeSet || b.val == 6 })
  | .cluster c => s.setHub { h with rdyClus := h.rdyClus ||| BitVec.ofNat 64 (2 ^ c.val) }
  | .core d k => s.setHub { h with rdyCore := h.rdyCore.set d.val (h.rdyCore.get d ||| BitVec.ofNat 96 (2 ^ k.val)) d.isLt }
  | .port p => relight h p (s.setHub { h with rdyPort := h.rdyPort ||| BitVec.ofNat 64 (2 ^ p.val) })

/-- `FUNCTION_READY` (R323). -/
def execFunctionReady (f : ReadyFn) (s : State) : Host.Outcome State Fault Refusal :=
  if mayReady s.hub f then .next (setReady s f) else noEvent "FUNCTION_READY"

/-! ## Loading the supervisor (R333) -/

/-- Is the boot window open: bits 0, 1, 5 and that of HBM stack 0 set, and bit 2 not yet? -/
def windowOpen (h : HubSt) : Bool :=
  h.rdyHub.getLsbD 0 && h.rdyHub.getLsbD 1 && h.rdyHub.getLsbD 5 && h.rdyHub.getLsbD 12 && !h.rdyHub.getLsbD 2

/-- The header of Table 20.8, as a number. -/
def bootHeader (s : State) : Nat := leValue (physLoad s 0 64)

/-- Does a header keep Table 20.8? -/
def headerOk (v : Nat) : Bool :=
  bitsN v 511 192 == 0 && bitsN v 129 128 == 0 && bitsN v 191 180 == 0 && bitsN v 75 64 == 0 && bitsN v 127 92 == 0 &&
  bitsN v 1 0 == 0 && bitsN v 63 52 == 0

/-- Is it a length that a doorbell may give? -/
def lengthOk (n : Nat) : Bool := decide (4096 ≤ n) && decide (n ≤ 0x0FFFFFFF)

/-- The boot status after a doorbell: header, then length (log 45). -/
def bootVerdict (s : State) (n : Nat) : Fin 5 := if !headerOk (bootHeader s) then 3 else if !lengthOk n then 4 else 1

/-- `BOOT_DOORBELL`: the host has written an image from offset 0 of the window, and rings the doorbell. While the window is closed its
writes are discarded; a doorbell while loading, or after the start, is ignored. -/
def execBootDoorbell (value : Word) (image : List Byte) (s : State) : Host.Outcome State Fault Refusal :=
  if !windowOpen s.hub then (if s.hub.rdyHub.getLsbD 2 then .next s else noEvent "BOOT_DOORBELL")
  else
    let t := physStore s 0 (image.take (2 ^ 28))
    if s.hub.bootStat = 1 ∨ s.hub.bootStat = 2 then .next t
    else .next (t.setHub { t.hub with bootStat := bootVerdict t value.toNat, bootLen := value.toNat })

/-- What a host read of base address register 2 returns: the window's contents while it is open; zero once it is closed (R333), and before
it opens (log 106). -/
def hostWindowRead (s : State) (off n : Nat) : List Byte :=
  if windowOpen s.hub then physLoad s off n else List.replicate n 0

/-- What a host read of base address register 0 returns at the boot status register, offset 0x4_1008 (R333). -/
def bootStatusRead (s : State) : Word := BitVec.ofNat 64 s.hub.bootStat.val

/-- The job card of supervisor core 0, which has none: every field 0 (log 20). -/
def supCard : Card where
  args := Vector.replicate 15 0
  anc := []
  lay := 0
  nlay := 0
  tt := 0
  handler := 0
  entry := 0
  arr := false
  tags := 0
  region := 0
  prio := 0
  ports := 0
  owned := 0
  key := 0
  ptroot := 0
  fdom := 0
  fab := 0
  l2q := 0
  graph := 0
  node := 0
  step := 0

/-- The context of supervisor core 0 at its start: its C stream at an entry, with `mode` 1. -/
def supStart (s : State) (entry : Nat) : Ctx :=
  let c := Ctx.reset ⟨.sup, 0⟩ (s.fresh + 1) supCard
  c.putStream .C { c.stream .C with
    pc := pcOf (BitVec.ofNat 64 entry), mode := true, run := .run, firstAt := s.now, laterAt := s.now }

/-- Does the firmware meet a poisoned line in the image (R327)? -/
def imageBad (s : State) (n : Nat) : Bool := s.mem.poison.any fun l => decide (l * 128 < max n 64)

/-- `SUPERVISOR_START`: the image is measured, the roots are set, and supervisor core 0 starts; one that no longer passes the checks is
refused. An uncorrectable error in the image, which holds the trap entry, is fatal (log 85). -/
def execSupervisorStart (s : State) : Host.Outcome State Fault Refusal :=
  if s.hub.bootStat ≠ 1 ∨ windowOpen s.hub = false then noEvent "SUPERVISOR_START"
  else
    let v := bootHeader s
    let n := s.hub.bootLen
    if imageBad s n then .next (fatalError s true)
    else if bootVerdict s n ≠ 1 then .next (s.setHub { s.hub with bootStat := bootVerdict s n })
    else
      let t := s.setHub { s.hub with
        m1 := extend s.hub.m1 (shake256 (physLoad s 0 n))
        sproot := BitVec.ofNat 64 (bitsN v 127 64), strap := BitVec.ofNat 64 (bitsN v 191 128)
        rdyHub := s.hub.rdyHub ||| 4, bootStat := 2 }
      .next { t with ctxs := supStart s (bitsN v 63 0) :: t.ctxs.filter fun c => !c.id.core.isSup }

/-! ## Errors (R327, R328) -/

/-- `re.loc` of a byte of HBM: its stack. -/
def stackLoc (pa : Nat) : Nat := pa / 2 ^ 36 % 8 * 2 ^ 25

/-- `re.addr` and `re.loc` of a word that ECC has corrected (Table 20.6). -/
def eccLoc : EccWord → Nat × Nat
  | .hbm pa => (pa, stackLoc pa)
  | .sram d k b => (0, coreLoc d k + b.val * 2 ^ 9)
  | .l2 d => (0, d.val)
  | .hubSram => (0, 2 ^ 40)

/-- `CORRECTED_ECC`: it costs a log record, and nothing else. -/
def execCorrectedEcc (word : EccWord) (s : State) : Host.Outcome State Fault Refusal :=
  .next (rasLog s 1 (eccLoc word).1 (eccLoc word).2 1)

/-- The line of a physical address is poisoned. -/
def poisonLine (s : State) (pa : Nat) : State := s.setMem (poisonCopies s.mem (pa / 128))

/-- Does a line hold part of the region table, by which Cairn works (log 85)? -/
def cairnTable (s : State) (pa : Nat) : Bool :=
  decide (s.hub.rcbase.toNat / 128 ≤ pa / 128) && decide (pa / 128 ≤ (s.hub.rcbase.toNat + 262143) / 128)

/-- Does a line hold supervisor core 0's trap entry? -/
def trapEntry (s : State) (pa : Nat) : Bool :=
  s.ctxs.any (fun c => c.id.core.isSup) && (match translate s.mem s.hub s.free (whoCairn s) s.hub.strap.toNat with
    | .ok r => (match r.2 with
      | some l => (l.pa + s.hub.strap.toNat % l.size) / 128 == pa / 128
      | none => false)
    | _ => false)

/-- `re.loc` of a byte of a handle: its die for one in L2, else its core and bank; supervisor core 0 is on the hub die. -/
def handleLoc (x : CtxId) (y : Handle) (a : Nat) : Nat :=
  match x.core with
  | .core d k => if y.l2 then d.val else coreLoc d k + (y.banks.getD (a / 16384) 0).val * 2 ^ 9
  | .sup => 2 ^ 40 + (y.banks.getD (a / 16384) 0).val * 2 ^ 9

/-- The line of a byte of a handle is poisoned. -/
def Handle.strike (y : Handle) (a : Nat) : Handle := { y with bad := (a / 128, 0) :: y.bad.filter fun e => e.1 != a / 128 }

/-- Can the next word of a stream meet an error? -/
def streamLive (s : State) (x : StreamRef) : Bool :=
  match s.ctx x.ctx with
  | some c => !c.frozen && !c.atSup && !(c.stream x.st).stopped && decide ((c.stream x.st).run = .run)
  | none => false

/-- `UNCORRECTABLE_ECC`: in a job's data it poisons the line, and the access that meets it traps with cause 14; in Cairn (the region table
too, log 85), the router's tables or supervisor core 0's trap entry it is fatal. -/
def execUncorrectableEcc (site : EccSite) (s : State) : Host.Outcome State Fault Refusal :=
  match site with
  | .vital => .next (fatalError (rasLog s 2 0 (2 ^ 40) 1) true)
  | .line pa =>
    let t := poisonLine (rasLog s 2 pa (stackLoc pa) 1) pa
    .next (if cairnTable s pa || trapEntry s pa then fatalError t true else t)
  | .handle x h row off =>
    (match s.ctx x with
    | none => noEvent "UNCORRECTABLE_ECC"
    | some c =>
      match c.handle h with
      | none => noEvent "UNCORRECTABLE_ECC"
      | some y =>
        if y.rows ≤ row ∨ y.pitch ≤ off then noEvent "UNCORRECTABLE_ECC"
        else .next ((rasLog s 2 0 (handleLoc x y (y.rowAt row + off)) 1).putCtx (c.putHandle (y.strike (y.rowAt row + off)))))
  | .access x va pa =>
    if streamLive s x then
      let t := poisonLine (rasLog s 2 pa (stackLoc pa) 1) pa
      .next (if cairnTable s pa || trapEntry s pa then fatalError t true else trapWord t x ⟨14, 0, 0, va⟩)
    else noEvent "UNCORRECTABLE_ECC"

/-! ## Power and heat (R330); temperatures in units of 0.5 °C -/

/-- `POWER_CAP_EXCEEDED`: the averaged power exceeds `pw.cap`: throttling, and a record of kind 7. -/
def execPowerCapExceeded (watts : BitVec 16) (s : State) : Host.Outcome State Fault Refusal :=
  if s.hub.pwCap < watts.toNat then
    .next (rasLog (s.setHub { s.hub with pwNow := watts, throttled := true }) 7 0 (2 ^ 40) 1)
  else noEvent "POWER_CAP_EXCEEDED"

/-- Cores and optics without power: every lane enters OFF, and each change is logged (R281). -/
def powerOff (s : State) : State :=
  let t := (List.finRange 64).foldl (fun u p => allLanes.foldl (fun v l => setLane v p l 0) u) s
  t.setHub { t.hub with
    powered := false
    ports := t.hub.ports.map fun x => { x with lanes := x.lanes.map fun y => { y with holding := false } } }

/-- The trip of 105 °C: a fatal error that removes the power of cores and optics. -/
def thermalTrip (temp : BitVec 16) (s : State) : State := powerOff (fatalError (s.setHub { s.hub with pwTemp := temp }) false)

/-- `THERMAL_TRIP`: 105 °C or more. -/
def execThermalTrip (temp : BitVec 16) (s : State) : Host.Outcome State Fault Refusal :=
  if 210 ≤ temp.toNat then .next (thermalTrip temp s) else noEvent "THERMAL_TRIP"

/-- `THERMAL_THROTTLE`: 95 °C on a die: throttling, and a record of kind 6; a die at 105 °C or more trips. -/
def execThermalThrottle (temp : BitVec 16) (s : State) : Host.Outcome State Fault Refusal :=
  if 210 ≤ temp.toNat then .next (thermalTrip temp s)
  else if 190 ≤ temp.toNat then .next (rasLog (s.setHub { s.hub with pwTemp := temp, throttled := true }) 6 0 (2 ^ 40) 1)
  else noEvent "THERMAL_THROTTLE"

/-- `THROTTLING_ENDS`: power and temperature are back within their limits. -/
def execThrottlingEnds (watts temp : BitVec 16) (s : State) : Host.Outcome State Fault Refusal :=
  if s.hub.throttled ∧ watts.toNat ≤ s.hub.pwCap ∧ temp.toNat < 190 then
    .next (s.setHub { s.hub with pwNow := watts, pwTemp := temp, throttled := false })
  else noEvent "THROTTLING_ENDS"

/-- `SUPPLY_VOLTAGE_OUT`: the input leaves its range, and the module powers down as at a trip. -/
def execSupplyVoltageOut (s : State) : Host.Outcome State Fault Refusal := .next (powerOff (fatalError s false))

/-! ## Register writes (R322) -/

/-- `REGISTER_WRITE`: 8 bytes at a hub register offset, by the manager or by the supervisor. -/
def execRegisterWrite (off : Nat) (v : Word) (manager : Bool) (s : State) : Host.Outcome State Fault Refusal :=
  if off % 8 = 0 ∧ off < 65536 then .next (hubWrite s off v manager) else noEvent "REGISTER_WRITE"

end Sys2Proof.Machine
end

