-- ==== Sys2Proof/Machine/Issue.lean ====
section
/-! DEFINITION. Fetching (R89, R213), readiness (R28, R29, R212), the issue pick (R214), landing results, held words (R162, R212), and words
that fail decode or fetch (R58, R59, R89). -/

namespace Sys2Proof

/-- The s registers that a scalar or memory word reads. -/
def Instr.scalarSrcs : Instr → List SReg
  | .add _ a b => [a, b] | .sub _ a b => [a, b] | .and _ a b => [a, b] | .or _ a b => [a, b] | .xor _ a b => [a, b]
  | .sll _ a b => [a, b] | .srl _ a b => [a, b] | .sra _ a b => [a, b] | .slt _ a b => [a, b] | .sltu _ a b => [a, b]
  | .min _ a b => [a, b] | .minu _ a b => [a, b] | .max _ a b => [a, b] | .maxu _ a b => [a, b] | .mul _ a b => [a, b]
  | .mulh _ a b => [a, b] | .mulhu _ a b => [a, b] | .divs _ a b => [a, b] | .rems _ a b => [a, b] | .divn _ a b => [a, b]
  | .remn _ a b => [a, b]
  | .addi _ a _ => [a] | .andi _ a _ => [a] | .ori _ a _ => [a] | .xori _ a _ => [a] | .slli _ a _ => [a] | .srli _ a _ => [a]
  | .srai _ a _ => [a] | .slti _ a _ => [a] | .sltiu _ a _ => [a] | .lsi d _ => [d]
  | .cmpeq _ a b => [a, b] | .cmpne _ a b => [a, b] | .cmplt _ a b => [a, b] | .cmpltu _ a b => [a, b]
  | .cmpge _ a b => [a, b] | .cmpgeu _ a b => [a, b]
  | .srw a _ => [a] | .bptr _ a _ => [a] | .bjt _ a i => [a, i]
  | .lb _ a _ => [a] | .lbu _ a _ => [a] | .lh _ a _ => [a] | .lhu _ a _ => [a] | .lw _ a _ => [a] | .lwu _ a _ => [a]
  | .ld _ a _ => [a] | .lq _ a _ => [a]
  | .sb v a _ => [v, a] | .sh v a _ => [v, a] | .sw v a _ => [v, a] | .sd v a _ => [v, a] | .sq v a _ => [v, v + 1, a]
  | .amow _ a b _ => [a, b] | .amod _ a b _ => [a, b] | .casw d a b => [d, a, b] | .casd d a b => [d, a, b]
  | .casq d a b => [d, d + 1, a, b, b + 1]
  | .waitt a => [a]
  | _ => []

/-- The s registers that a word of the other engines reads. -/
def Instr.engineSrcs : Instr → List SReg
  | .vsplat _ s _ => [s] | .vins _ s _ _ => [s] | .vldh _ s _ _ _ => [s] | .vsth _ s _ _ _ => [s] | .vldm _ s _ _ => [s]
  | .vstm _ s _ _ => [s]
  | .vxcGather a b => [a, b] | .vxcScatter a b => [a, b] | .vxcHandleGather a b => [a, b] | .vxcHandleScatter a b => [a, b]
  | .vxcTableLookup a b => [a, b]
  | .bload _ _ s _ => [s] | .mma _ _ s _ _ => [s] | .drain _ _ s _ => [s] | .dbias _ _ s => [s] | .dact _ _ s => [s]
  | .dtt _ s => [s] | .dclamp _ _ s => [s] | .drainm _ _ s _ => [s] | .fft _ _ s _ => [s] | .ifft _ _ s _ => [s]
  | .shtf _ _ s _ => [s] | .shti _ _ s _ => [s] | .plan _ _ s _ => [s] | .mma3 _ _ s _ => [s] | .layerf _ _ s => [s]
  | .layerd _ _ s => [s] | .layerw _ _ s => [s] | .layeru _ _ s => [s]
  | .copy _ _ s => [s] | .chain _ _ s => [s] | .pref _ _ s _ => [s] | .retn _ _ s => [s] | .invr _ _ s _ => [s]
  | .copyo _ _ s => [s] | .chaino _ _ s => [s] | .copya _ _ s => [s] | .chaina _ _ s => [s] | .offl _ _ s _ => [s]
  | .wbr _ _ s _ => [s]
  | .zpop _ _ s _ => [s] | .zpush _ _ s _ => [s] | .zopen _ _ s _ => [s] | .tune _ _ s => [s] | .trav _ _ s => [s]
  | .pushr _ _ s _ => [s] | .ncomb _ _ s => [s]
  | .pinitr _ _ x => [x] | .rinit _ _ x => [x] | .rcommit _ _ x => [x] | .rfree _ _ x => [x] | .halloc _ s => [s]
  | .hfmt _ s => [s] | .dreg _ y => [y] | .tlim x => [x] | .tset x => [x] | .sread _ y => [y] | .sstep x => [x] | .sskip x => [x]
  | .csrr _ a _ => [a] | .csrw d a _ => [d, a] | .tlbiPage a => [a] | .tlbiKey a => [a] | .tlbiAll a => [a] | .keyset a => [a]
  | .gang a => [a] | .gres a => [a] | .graphLoad a => [a] | .graphStart a => [a] | .graphStop a => [a] | .graphUnload a => [a]
  | .mbx _ a _ => [a] | .mcload a _ => [a]
  | _ => []

/-- The b and c registers that a word reads. -/
def Instr.otherSrcs : Instr → List Machine.Dst
  | .cand _ a b => [.c a, .c b] | .cor _ a b => [.c a, .c b] | .cxor _ a b => [.c a, .c b] | .candn _ a b => [.c a, .c b]
  | .btr b c => [.b b, .c c] | .btrFalse b c => [.b b, .c c] | .btrAlways b => [.b b]
  | .btrl _ b c => [.b b, .c c] | .btrlFalse _ b c => [.b b, .c c] | .btrlAlways _ b => [.b b]
  | .gset _ c => [.c c]
  | _ => []

/-- The s registers that `FORK` copies (R19). -/
def Instr.forkSrcs : Instr → List SReg
  | .fork _ _ _ => (List.finRange 64).filter fun r => decide (1 ≤ r.val) && decide (r.val ≤ 15)
  | _ => []

/-- The vector and predicate registers that a V word or a vote reads: it waits for an earlier word that still writes one (R106). -/
def Instr.vectorSrcs : Instr → List Machine.Dst
  | .vadd _ a b _ p _ => [.v a, .v b, .p p] | .vsub _ a b _ p _ => [.v a, .v b, .p p] | .vmul _ a b _ p _ => [.v a, .v b, .p p]
  | .vmin _ a b _ p _ => [.v a, .v b, .p p] | .vmax _ a b _ p _ => [.v a, .v b, .p p] | .vdiv _ a b _ p _ => [.v a, .v b, .p p]
  | .vrem _ a b _ p _ => [.v a, .v b, .p p] | .vand _ a b _ p _ => [.v a, .v b, .p p] | .vor _ a b _ p _ => [.v a, .v b, .p p]
  | .vxor _ a b _ p _ => [.v a, .v b, .p p] | .vsll _ a b _ p _ => [.v a, .v b, .p p] | .vsrl _ a b _ p _ => [.v a, .v b, .p p]
  | .vsra _ a b _ p _ => [.v a, .v b, .p p] | .vperm _ a b _ p _ => [.v a, .v b, .p p]
  | .vfma d a b _ p _ => [.v d, .v a, .v b, .p p] | .vfms d a b _ p _ => [.v d, .v a, .v b, .p p] | .vabs _ a _ p _ => [.v a, .p p]
  | .vneg _ a _ p _ => [.v a, .p p] | .vsqrt _ a _ p _ => [.v a, .p p] | .vrcp _ a _ p _ => [.v a, .p p]
  | .vrsq _ a _ p _ => [.v a, .p p] | .vexp2 _ a _ p _ => [.v a, .p p] | .vlog2 _ a _ p _ => [.v a, .p p]
  | .vsin _ a _ p _ => [.v a, .p p] | .vcos _ a _ p _ => [.v a, .p p] | .vtanh _ a _ p _ => [.v a, .p p]
  | .vredadd _ a _ p _ => [.v a, .p p] | .vredmax _ a _ p _ => [.v a, .p p] | .vredmin _ a _ p _ => [.v a, .p p]
  | .vscan _ a _ p _ => [.v a, .p p] | .vmov _ a _ p _ => [.v a, .p p] | .vcvt _ a _ _ p _ => [.v a, .p p]
  | .vcmpeq _ a b _ p => [.v a, .v b, .p p] | .vcmplt _ a b _ p => [.v a, .v b, .p p] | .vcmple _ a b _ p => [.v a, .v b, .p p]
  | .vcmpun _ a b _ p => [.v a, .v b, .p p] | .vsel _ a b _ p => [.v a, .v b, .p p] | .vpand _ a b => [.p a, .p b]
  | .vpor _ a b => [.p a, .p b] | .vpxor _ a b => [.p a, .p b] | .vpnot _ a => [.p a] | .vext v _ _ _ => [.v v]
  | .vldh _ _ _ p _ => [.p (p.castLE (by decide))] | .vsth v _ _ p _ => [.v v, .p (p.castLE (by decide))]
  | .vldm _ _ _ p => [.p (p.castLE (by decide))] | .vstm v _ _ p => [.v v, .p (p.castLE (by decide))] | .vany _ p => [.p p]
  | .vall _ p => [.p p]
  | _ => []

/-- The registers of its stream that a word reads when it issues (R28). -/
def Instr.srcs (i : Instr) : List Machine.Dst :=
  (i.scalarSrcs ++ i.engineSrcs ++ i.forkSrcs).map .s ++ i.otherSrcs ++ i.vectorSrcs

/-- The vector registers that a V word reads or writes. -/
def Instr.vuses : Instr → List VReg
  | .vadd d a b _ _ _ => [d, a, b] | .vsub d a b _ _ _ => [d, a, b] | .vmul d a b _ _ _ => [d, a, b] | .vmin d a b _ _ _ => [d, a, b]
  | .vmax d a b _ _ _ => [d, a, b] | .vfma d a b _ _ _ => [d, a, b] | .vfms d a b _ _ _ => [d, a, b] | .vabs d a _ _ _ => [d, a]
  | .vneg d a _ _ _ => [d, a] | .vdiv d a b _ _ _ => [d, a, b] | .vrem d a b _ _ _ => [d, a, b] | .vsqrt d a _ _ _ => [d, a]
  | .vrcp d a _ _ _ => [d, a] | .vrsq d a _ _ _ => [d, a] | .vexp2 d a _ _ _ => [d, a] | .vlog2 d a _ _ _ => [d, a]
  | .vsin d a _ _ _ => [d, a] | .vcos d a _ _ _ => [d, a] | .vtanh d a _ _ _ => [d, a] | .vand d a b _ _ _ => [d, a, b]
  | .vor d a b _ _ _ => [d, a, b] | .vxor d a b _ _ _ => [d, a, b] | .vsll d a b _ _ _ => [d, a, b] | .vsrl d a b _ _ _ => [d, a, b]
  | .vsra d a b _ _ _ => [d, a, b] | .vcvt d a _ _ _ _ => [d, a] | .vcmpeq _ a b _ _ => [a, b] | .vcmplt _ a b _ _ => [a, b]
  | .vcmple _ a b _ _ => [a, b] | .vcmpun _ a b _ _ => [a, b] | .vsel d a b _ _ => [d, a, b] | .vperm d a b _ _ _ => [d, a, b]
  | .vredadd d a _ _ _ => [d, a] | .vredmax d a _ _ _ => [d, a] | .vredmin d a _ _ _ => [d, a] | .vscan d a _ _ _ => [d, a]
  | .vsplat v _ _ => [v] | .vins v _ _ _ => [v] | .vext v _ _ _ => [v] | .vldh v _ _ _ _ => [v] | .vsth v _ _ _ _ => [v]
  | .vldm v _ _ _ => [v] | .vstm v _ _ _ => [v] | .vmov d a _ _ _ => [d, a]
  | _ => []

end Sys2Proof

namespace Sys2Proof.Machine

/-! ## Fetching -/

/-- What a stream finds at its pc: its word has not come yet, cannot be fetched, fails decode, or is there. -/
inductive Fetched where
  | waits
  | fault (c : FetchCause)
  | bad (why : DecodeFail)
  | word (i : Instr)

/-- The row of a `VXC`: the kind in its first register names it; a kind of none is refused by the first row's own check (R126). -/
def vxcRow (t : Stream) (i : Instr) : Instr :=
  match i with
  | .vxcGather a b =>
    (match bitsN (t.sreg a).toNat 2 0 with
    | 1 => .vxcScatter a b
    | 2 => .vxcHandleGather a b
    | 3 => .vxcHandleScatter a b
    | 4 => .vxcTableLookup a b
    | _ => .vxcGather a b)
  | _ => i

/-- Is it a V word, or a C vote word, by its engine and opcode? -/
def vectorWord (w : Nat) : Bool := fld w 29 3 == 1 || (fld w 29 3 == 0 && (fld w 23 6 == 0x28 || fld w 23 6 == 0x29))

/-- The opcode of a word, as a failure reports it. -/
def opOf (w : Nat) : Fin 64 := ⟨fld w 23 6 % 64, Nat.mod_lt _ (by decide)⟩

/-- Decode a word in a stream: checks 1 to 7 of Table 4.1, in order. -/
def decodeIn (x : StreamId) (t : Stream) (w : Nat) : Fetched :=
  if vectorWord w && x != .C then .bad (.illegal 3 (opOf w))
  else if fld w 29 3 == 7 && x != .C then .bad (.illegal 3 (opOf w))
  else if fld w 29 3 == 7 && !t.mode then .bad .privilege
  else
    match decode w with
    | .ok i => .word (vxcRow t i)
    | .error e => .bad (.illegal e.reason (opOf w))

/-- The fetch fault of a cause of an access. -/
def fetchCause (code : Nat) : FetchCause :=
  if code = 4 then .translation else if code = 15 then .key else if code = 14 then .ecc else if code = 3 then .alignment else .protection

/-- Fetch the word at a stream's pc. -/
def fetchWord (s : State) (c : Ctx) (x : StreamId) : Fetched × State :=
  let t := c.stream x
  let who := whoStream s c x
  match checkAccess s.mem s.hub s.free who .fetch false t.pc.toNat 4 with
  | .stall => (.waits, s)
  | .fail k _ _ => (.fault (fetchCause k), s)
  | .ok r =>
    let q := readPieces r.1 who .fetch r.2
    (decodeIn x t (leValue q.1), s.setMem q.2)

/-! ## Readiness (R212) -/

/-- A stream as its next word finds it. -/
def atOf (s : State) (c : Ctx) (x : StreamId) : At :=
  ⟨⟨c.id, x⟩, c, c.stream x, nextOrder s c.id.core, (c.stream x).s⟩

/-- Does a word that reads a register stall: an interlocked result, or one that waits behind one, or a status read that has not
executed (R28, R29, R178)? s0 is never the destination of a result. -/
def Stream.blocked (t : Stream) (d : Dst) : Bool :=
  decide (d ≠ .s 0) && t.flight.any fun f => decide (f.dst = d) && (f.due.locked || decide (f.due = .statusRead) || f.lock)

/-- Is a word a `VXC`? -/
def isVxc (i : Instr) : Bool :=
  match i with
  | .vxcGather _ _ => true
  | .vxcScatter _ _ => true
  | .vxcHandleGather _ _ => true
  | .vxcHandleScatter _ _ => true
  | .vxcTableLookup _ _ => true
  | _ => false

/-- Does a vector word wait for the register that a `VXC` writes in its data phase (R129, R271)? -/
def vxcBlocks (c : Ctx) (i : Instr) : Bool :=
  match c.vxc with
  | some v => ((v.kind.val != 1 && v.kind.val != 3) || v.result.isSome) && (Instr.vuses i).any fun r => decide (r = v.vd)
  | none => false

/-- The command that a `VXC` names in its registers, and whether it goes to memory. -/
def vxcOf (w : At) (i : Instr) : Option (VxcCmd × Bool) :=
  let of (k : Nat) (a b : SReg) : Option (VxcCmd × Bool) := (vxcCmd k (w.arg a).toNat (w.arg b).toNat).map fun c => (c, decide (k < 2))
  match i with
  | .vxcGather a b => of 0 a b
  | .vxcScatter a b => of 1 a b
  | .vxcHandleGather a b => of 2 a b
  | .vxcHandleScatter a b => of 3 a b
  | .vxcTableLookup a b => of 4 a b
  | _ => none

/-- The vector registers that a `VXC` reads: its indices, its data and its predicate. -/
def vxcSrcs (w : At) (i : Instr) : List Dst :=
  match vxcOf w i with
  | some (c, _) => [.v c.vi, .v c.vd, .p c.pred]
  | none => []

/-- The address and length of a scalar access, and whether it stores (R92, R96). -/
def scalarAccess (w : At) (i : Instr) : Option (Nat × Nat × Bool) :=
  match i with
  | .lb _ a o => some (memAddr w a o, 1, false) | .lbu _ a o => some (memAddr w a o, 1, false)
  | .lh _ a o => some (memAddr w a o, 2, false) | .lhu _ a o => some (memAddr w a o, 2, false)
  | .lw _ a o => some (memAddr w a o, 4, false) | .lwu _ a o => some (memAddr w a o, 4, false)
  | .ld _ a o => some (memAddr w a o, 8, false) | .lq _ a o => some (memAddr w a o, 16, false)
  | .sb _ a o => some (memAddr w a o, 1, true) | .sh _ a o => some (memAddr w a o, 2, true)
  | .sw _ a o => some (memAddr w a o, 4, true) | .sd _ a o => some (memAddr w a o, 8, true)
  | .sq _ a o => some (memAddr w a o, 16, true)
  | .amow _ a _ _ => some ((w.st.sreg a).toNat, 4, true) | .amod _ a _ _ => some ((w.st.sreg a).toNat, 8, true)
  | .casw _ a _ => some ((w.st.sreg a).toNat, 4, true) | .casd _ a _ => some ((w.st.sreg a).toNat, 8, true)
  | .casq _ a _ => some ((w.st.sreg a).toNat, 16, true)
  | _ => none

/-- The byte ranges that a vector word accesses in memory, and whether it stores. -/
def vectorAccess (w : At) (i : Instr) : List (Nat × Nat) × Bool :=
  let runs (x : SReg) (o : BitVec 8) (p : Fin 8) : List (Nat × Nat) :=
    vruns (w.cx.preg (p.castLE (by decide))) (w.st.sreg x + (o.signExtend 64 <<< 8)).toNat
  match i with
  | .vldm _ x o p => (runs x o p, false)
  | .vstm _ x o p => (runs x o p, true)
  | _ =>
    match vxcOf w i with
    | some (c, true) =>
      ((vactives (w.cx.preg c.pred) c.width).map fun j => (c.place true (w.cx.vreg c.vi) j, c.width / 8),
        match i with
        | .vxcScatter _ _ => true
        | _ => false)
    | _ => ([], false)

/-- The byte ranges that a word accesses in memory, and whether it stores. -/
def wordAccess (w : At) (i : Instr) : List (Nat × Nat) × Bool :=
  match scalarAccess w i with
  | some (va, n, store) => ([(va, n)], store)
  | none => vectorAccess w i

/-- Does a word make inverted accesses: in record mode a store, in reverse mode any access, to a D-region (R199, R269)? -/
def wordInverts (w : At) (i : Instr) : Bool :=
  let l := wordAccess w i
  (l.2 || w.cx.dmode == 2) && l.1.any fun a => w.cx.dregs.any fun r => r.touches a.1 a.2

/-- The register that a scalar load of a D-region reads in reverse mode: its destination carries the adjoint (R199). -/
def reverseSrcs (w : At) (i : Instr) : List Dst :=
  if w.cx.dmode == 2 && wordInverts w i then
    (match i with
    | .lb d _ _ => [.s d] | .lbu d _ _ => [.s d] | .lh d _ _ => [.s d] | .lhu d _ _ => [.s d]
    | .lw d _ _ => [.s d] | .lwu d _ _ => [.s d] | .ld d _ _ => [.s d] | _ => [])
  else []

/-- Does R269 hold a word back behind the inverted accesses of earlier-issued commands and words? In a handler, which must make none of its own
(R275), they stand still, and it does not wait. -/
def inversionWaits (s : State) (w : At) (i : Instr) : Bool :=
  w.cx.dmode != 0 && decide (w.cx.dregs ≠ []) && !(w.st.mode && !w.ref.ctx.core.isSup) && wordInverts w i && invertersBefore s w.cx w.place

/-- A handler's words wait until the vector words before the stop have completed (R106), and the commands in progress have come to their stop
points (R224). On supervisor core 0, whose C stream is always in supervisor mode, the first word of the trap entry waits so. -/
def handlerWaits (c : Ctx) : Bool :=
  (if c.id.core.isSup then c.untaken else (c.stream .C).mode) &&
    (c.vxc.isSome || (c.stream .C).vdividing || c.cmds.any fun d => decide (d.q = .A) && (match d.prog with
      | .done => true
      | .layer m => !m.trapped && m.since != 0
      | _ => false))

/-- Is a word ready in every respect but the free queue entry? A word that will trap waits for nothing more. -/
def wordReady (s : State) (c : Ctx) (x : StreamId) (i : Instr) : Bool :=
  let w := atOf s c x
  (precheck w i).isSome ||
    (!(Instr.srcs i ++ vxcSrcs w i ++ reverseSrcs w i).any w.st.blocked && !vxcBlocks c i && !inversionWaits s w i)

/-- Has a word to wait for a place before it can issue: for its place in a queue (R57, R212); a `VXC`, for `vbusy` (R129)? -/
def placeTaken (c : Ctx) (x : StreamId) (i : Instr) : Bool :=
  match Instr.queue i with
  | some q => queueShut c q x
  | none => isVxc i && c.vxc.isSome

/-- Does a word find its place taken? -/
def queueBlocked (s : State) (c : Ctx) (x : StreamId) (i : Instr) : Bool := (precheck (atOf s c x) i).isNone && placeTaken c x i

/-- May a stream issue in this cycle, as far as the stream itself goes? -/
def streamOpen (s : State) (c : Ctx) (x : StreamId) : Bool :=
  let t := c.stream x
  decide (t.run = .run) && !t.stopped && jobRuns c && decide (t.firstAt ≤ s.now) && !(x == .C && handlerWaits c)

/-- A ready stream: its index (R211), context, stream, what it has fetched, and the state after the fetch. -/
structure Ready where
  idx : Nat
  cx : Ctx
  st : StreamId
  got : Fetched
  after : State

/-- Is a stream ready? -/
def ready (s : State) (c : Ctx) (x : StreamId) : Option Ready :=
  if streamOpen s c x then
    let f := fetchWord s c x
    let r : Ready := ⟨5 * c.id.ctx.val + (streamIdx x).val, c, x, f.1, f.2⟩
    match f.1 with
    | .waits => none
    | .fault _ => some r
    | .bad _ => some r
    | .word i => if wordReady s c x i && !queueBlocked s c x i then some r else none
  else none

/-- The ready streams of a core, context 0 first. -/
def readyOf (s : State) (k : CoreId) : List Ready :=
  [(0 : Fin 2), 1].flatMap fun n =>
    match s.ctx ⟨k, n⟩ with
    | some c => allStreams.filterMap (ready s c)
    | none => []

/-! ## The pick (R214) -/

/-- Distance of an index behind the last one that issued, in the order of R214. -/
def turn (last i : Nat) : Nat := (i + 10 - last - 1) % 10

/-- The better of two ready streams: among aged streams the larger count; else the smaller role; then the rotation. -/
def better (last : Nat) (a b : Ready) : Ready :=
  let ta := a.cx.stream a.st
  let tb := b.cx.stream b.st
  let oa := decide (ta.agebound ≤ ta.aged)
  let ob := decide (tb.agebound ≤ tb.aged)
  if oa && ob then
    (if ta.aged = tb.aged then (if turn last b.idx < turn last a.idx then b else a) else if ta.aged < tb.aged then b else a)
  else if oa then a
  else if ob then b
  else if ta.role = tb.role then (if turn last b.idx < turn last a.idx then b else a)
  else if tb.role.val < ta.role.val then b else a

/-- The stream that a core issues from. -/
def pick (last : Nat) : List Ready → Option Ready
  | [] => none
  | a :: l => some (l.foldl (better last) a)

/-- The counts of R214 after a pick. -/
def countAged (s : State) (rs : List Ready) (p : Ready) : State :=
  rs.foldl (fun t r => t.mapStream ⟨r.cx.id, r.st⟩ fun u => { u with aged := if r.idx = p.idx then 0 else u.aged + 1 }) s

/-- The state in which the picked word executes: the core's slot is used, and the stream's later words have their own time (R213). -/
def issuing (s : State) (k : CoreSt) (rs : List Ready) (p : Ready) : State :=
  let t := (countAged p.after rs p).putCore { k with used := true, last := p.idx }
  { t.mapStream ⟨p.cx.id, p.st⟩ (fun u => { u with firstAt := max u.firstAt u.laterAt }) with cur := some ⟨p.cx.id, p.st⟩, fresh := s.fresh }

/-! ## Words that fail (R58, R59, R89) -/

/-- `ILLEGAL_WORD`: the word at the pc of the current stream fails decode, and traps precisely. -/
def execIllegalWord (why : DecodeFail) (s : State) : Host.Outcome State Fault Refusal :=
  match s.at with
  | none => .fault .noStream
  | some (a, t) =>
    let eng : Nat := ((fetchRaw t a).map fun w => fld w 29 3).getD 0
    .next (trapWord t a.ref (match why with
      | .illegal r op => ⟨1, illegalDetail r.val op.val, eng, 0⟩
      | .privilege => ⟨2, 0, 7, 0⟩
      | .handle h => ⟨5, h.val, eng, 0⟩))
where
  /-- The bits of the word at a stream's pc. -/
  fetchRaw (t : State) (a : At) : Option Nat :=
    match checkAccess t.mem t.hub t.free (whoStream t a.cx a.ref.st) .fetch false a.st.pc.toNat 4 with
    | .ok r => some (leValue (readPieces r.1 (whoStream t a.cx a.ref.st) .fetch r.2).1)
    | _ => none

/-- Code of a fetch fault. -/
def fetchCode : FetchCause → Nat
  | .translation => 4
  | .protection => 5
  | .key => 15
  | .ecc => 14
  | .alignment => 3

/-- `FETCH_FAULT`: the word at the pc of the current stream cannot be fetched. -/
def execFetchFault (cause : FetchCause) (s : State) : Host.Outcome State Fault Refusal :=
  match s.at with
  | none => .fault .noStream
  | some (a, t) => .next (trapWord t a.ref ⟨fetchCode cause, 0, 0, a.st.pc.toNat⟩)

/-- Run a word through the table of meanings, or its failure. -/
def runFetched (ex : Instr → State → Host.Outcome State Fault Refusal) (g : Fetched) (s : State) : Host.Outcome State Fault Refusal :=
  match g with
  | .word i => ex i s
  | .bad why => execIllegalWord why s
  | .fault c => execFetchFault c s
  | .waits => noEvent "FETCH"

/-! ## Landing (R28, R29) -/

/-- The result in flight of a word. -/
def flightOf (t : Stream) (seq : Nat) (ok : Flight → Bool) : Option Flight := t.flight.find? fun f => f.seq == seq && ok f

/-- Land the result of a word. -/
def landAt (name : String) (x : StreamRef) (seq : Nat) (ok : Flight → Bool) (s : State) : Host.Outcome State Fault Refusal :=
  match s.ctx x.ctx with
  | none => noEvent name
  | some c =>
    match flightOf (c.stream x.st) seq ok with
    | some f => .next (s.putCtx (c.putStream x.st ((c.stream x.st).land f)))
    | none => noEvent name

/-- Is a result due by a cycle? -/
def Due.by (now : Nat) : Due → Bool
  | .at n => decide (n ≤ now)
  | .unit n => decide (n ≤ now)
  | _ => false

/-- Does a result land when its unit delivers it? -/
def Due.open : Due → Bool
  | .interlocked => true
  | .divider => true
  | _ => false

/-- Is it the turn of a result: the divider of a core delivers its results in issue order (R82)? -/
def dividerTurn (s : State) (x : StreamRef) (f : Flight) : Bool :=
  decide (f.due ≠ .divider) || !s.ctxs.any fun c => decide (c.id.core = x.ctx.core) && [StreamId.C, .A, .L, .S, .N].any fun y =>
    (c.stream y).flight.any fun g => decide (g.due = .divider) && decide (g.seq < f.seq)

/-- `EXPOSED_RESULT_LANDS` (R28): at its cycle; so does the result of a vector word of a fixed latency (Table 6.1). -/
def execExposedResultLands (x : StreamRef) (seq : Nat) (s : State) : Host.Outcome State Fault Refusal :=
  landAt "EXPOSED_RESULT_LANDS" x seq (fun f => f.due.by s.now) s

/-- `INTERLOCKED_RESULT_LANDS` (R29): when its unit delivers it, a divide word's in the divider's order (R82). -/
def execInterlockedResultLands (x : StreamRef) (seq : Nat) (s : State) : Host.Outcome State Fault Refusal :=
  landAt "INTERLOCKED_RESULT_LANDS" x seq (fun f => f.due.open && dividerTurn s x f) s

/-! ## `WAITT` (R102) -/

/-- `WAITT_DEADLINE`: module time has reached the deadline. The next word may issue in that very cycle, of which R102 says nothing (log 109). -/
def execWaittDeadline (x : StreamRef) (s : State) : Host.Outcome State Fault Refusal :=
  match s.ctx x.ctx with
  | none => noEvent "WAITT_DEADLINE"
  | some c =>
    let t := c.stream x.st
    match t.run with
    | .waitt d =>
      if !t.stopped && jobRuns c && decide (d.toNat ≤ s.hub.tmNow.toNat) then
        .next (takenUp (s.putCtx (c.putStream x.st t.advance)) x)
      else noEvent "WAITT_DEADLINE"
    | _ => noEvent "WAITT_DEADLINE"

/-! ## Held words (R162, R212) -/

/-- The meaning of a word that holds its stream: it looks at its condition again. -/
def heldMeaning (i : Instr) : Option (State → Host.Outcome State Fault Refusal) :=
  match i with
  | .hfree h => some (execHfree h)
  | .hfmt h x => some (execHfmt h x)
  | .pwait h r p => some (execPwait h r p)
  | .rclaim h r x => some (execRclaim h r x)
  | .rwfill h r k => some (execRwfill h r k)
  | .rwfree h r k => some (execRwfree h r k)
  | .bwait t => some (execBwait t)
  | .barr t => some (execBarr t)
  | .gclr g => some (execGclr g)
  | .fork x r o => some (execFork x r o)
  | .rdv => some execRdv
  | .rdvFin => some execRdvFin
  | .waitp p => some (execWaitp p)
  | .dmode m => some (execDmode m)
  | .tread x => some (execTread x)
  | .sstep x => some (execSstep x)
  | .sskip x => some (execSskip x)
  | .srr d n => some (execSrr d n)
  | .vldh v x h p cv => some (execVldh v x h p cv)
  | .vsth v x h p cv => some (execVsth v x h p cv)
  | .vxcGather a b => some (execVxcGather a b)
  | .vxcScatter a b => some (execVxcScatter a b)
  | .vxcHandleGather a b => some (execVxcHandleGather a b)
  | .vxcHandleScatter a b => some (execVxcHandleScatter a b)
  | .vxcTableLookup a b => some (execVxcTableLookup a b)
  | .vfence => some execVfence
  | .graphStop a => some (execGraphStop a)
  | .mcload a g => some (execMcload a g)
  | .gang a => some (execGang a)
  | .gres a => some (execGres a)
  | .drainm g h x f => some (execDrainm g h x f)
  | .copy g h x => some (execCopy g h x)
  | .chain g h x => some (execChain g h x)
  | .pref g h x l => some (execPref g h x l)
  | .retn g h x => some (execRetn g h x)
  | .invr g h x l => some (execInvr g h x l)
  | .copyo g h x => some (execCopyo g h x)
  | .chaino g h x => some (execChaino g h x)
  | .copya g h x => some (execCopya g h x)
  | .chaina g h x => some (execChaina g h x)
  | .offl g h x k => some (execOffl g h x k)
  | .wbr g h x l => some (execWbr g h x l)
  | _ => none

/-- Is a stream still held by the word at its pc? -/
def stillHeld (s : State) (x : StreamRef) : Bool :=
  match s.ctx x.ctx with
  | some c => !(c.stream x.st).stopped && (match (c.stream x.st).run with
    | .held _ => true
    | _ => false)
  | none => false

/-- Has a held `GANG` or `GRES` come a stage further? -/
def gangMoved (i : Instr) (g : Nat) (s t : State) : Bool :=
  let x := gangGet s g
  let y := gangGet t g
  match i with
  | .gang _ => x.lifted != y.lifted
  | .gres _ => x.back != y.back || decide (y.recs.length < x.recs.length)
  | _ => false

/-- The gang that a held word names. -/
def gangNamed (h : Hold) : Nat :=
  let arg (a : SReg) : Nat :=
    match h.regs with
    | some v => if a = 0 then 0 else (v.get a).toNat % 4096
    | none => 0
  match h.word with
  | .gang a => arg a
  | .gres a => arg a
  | _ => 0

/-- The cell that a `PWAIT` waits at. -/
def waitCell (i : Instr) : Option (HId × Nat) :=
  match i with
  | .pwait h r _ => some (h, r.val)
  | _ => none

/-- Has something reached the cell of a `PWAIT` in this cycle? A phase that completes in a cycle releases its waiters in the next (R153). -/
def cellMoves (c : Ctx) (i : Instr) : Bool :=
  match waitCell i with
  | some r => c.cellNow.any fun n => decide (n.h = r.1) && n.row == r.2
  | none => false

/-- A stream that a word no longer holds: its next word is ready from the next cycle on (R212, R220), that behind a `PWAIT` at once (R153). -/
def released (s : State) (x : StreamRef) (i : Instr) : State :=
  s.mapStream x fun t =>
    if decide (t.run = .run) && !t.stopped then
      { t with firstAt := max t.firstAt (if (waitCell i).isSome then s.now else s.now + 1) }
    else t

/-- A held word looks at its condition again: it completes or traps, or nothing happens. A gang switch takes its next stage. -/
def reLook (s : State) (x : StreamRef) (h : Hold) : Host.Outcome State Fault Refusal :=
  match heldMeaning h.word with
  | some f =>
    (match f { s with cur := some x } with
    | .next u =>
      if stillHeld u x && !gangMoved h.word (gangNamed h) s u then noEvent "WAIT_SATISFIED" else .next (released u x h.word)
    | r => r)
  | none => noEvent "WAIT_SATISFIED"

/-- `WAIT_SATISFIED` (R162): the condition of a held word has become true. A word that has not issued, for want of a queue entry or behind
`vbusy`, issues by the pick once its place is free. -/
def execWaitSatisfied (x : StreamRef) (s : State) : Host.Outcome State Fault Refusal :=
  match s.ctx x.ctx with
  | none => noEvent "WAIT_SATISFIED"
  | some c =>
    let t := c.stream x.st
    match t.run with
    | .held h =>
      if t.stopped || !jobRuns c || cellMoves c h.word then noEvent "WAIT_SATISFIED"
      else if h.regs.isSome then reLook s x h
      else if placeTaken c x.st h.word then noEvent "WAIT_SATISFIED"
      else .next (released (s.putCtx (c.putStream x.st { t with run := .run })) x h.word)
    | _ => noEvent "WAIT_SATISFIED"

end Sys2Proof.Machine
end

