-- ==== Sys2Proof/Machine/Dispatch.lean ====
section
/-! DEFINITION. Which meaning each step has: one arm per constructor of `Instr`, in the order of
spec/opcode_table.json. -/

namespace Sys2Proof.Machine

def exec (i : Instr) (s : State) : Host.Outcome State Fault Refusal :=
  match i with
  | .nop => Sys2Proof.Machine.execNop s
  | .add d a b => Sys2Proof.Machine.execAdd d a b s
  | .sub d a b => Sys2Proof.Machine.execSub d a b s
  | .and d a b => Sys2Proof.Machine.execAnd d a b s
  | .or d a b => Sys2Proof.Machine.execOr d a b s
  | .xor d a b => Sys2Proof.Machine.execXor d a b s
  | .sll d a b => Sys2Proof.Machine.execSll d a b s
  | .srl d a b => Sys2Proof.Machine.execSrl d a b s
  | .sra d a b => Sys2Proof.Machine.execSra d a b s
  | .slt d a b => Sys2Proof.Machine.execSlt d a b s
  | .sltu d a b => Sys2Proof.Machine.execSltu d a b s
  | .min d a b => Sys2Proof.Machine.execMin d a b s
  | .minu d a b => Sys2Proof.Machine.execMinu d a b s
  | .max d a b => Sys2Proof.Machine.execMax d a b s
  | .maxu d a b => Sys2Proof.Machine.execMaxu d a b s
  | .mul d a b => Sys2Proof.Machine.execMul d a b s
  | .mulh d a b => Sys2Proof.Machine.execMulh d a b s
  | .mulhu d a b => Sys2Proof.Machine.execMulhu d a b s
  | .divs d a b => Sys2Proof.Machine.execDivs d a b s
  | .rems d a b => Sys2Proof.Machine.execRems d a b s
  | .divn d a b => Sys2Proof.Machine.execDivn d a b s
  | .remn d a b => Sys2Proof.Machine.execRemn d a b s
  | .addi d a imm => Sys2Proof.Machine.execAddi d a imm s
  | .andi d a imm => Sys2Proof.Machine.execAndi d a imm s
  | .ori d a imm => Sys2Proof.Machine.execOri d a imm s
  | .xori d a imm => Sys2Proof.Machine.execXori d a imm s
  | .slli d a imm => Sys2Proof.Machine.execSlli d a imm s
  | .srli d a imm => Sys2Proof.Machine.execSrli d a imm s
  | .srai d a imm => Sys2Proof.Machine.execSrai d a imm s
  | .slti d a imm => Sys2Proof.Machine.execSlti d a imm s
  | .sltiu d a imm => Sys2Proof.Machine.execSltiu d a imm s
  | .li d imm => Sys2Proof.Machine.execLi d imm s
  | .lsi d imm => Sys2Proof.Machine.execLsi d imm s
  | .cmpeq c a b => Sys2Proof.Machine.execCmpeq c a b s
  | .cmpne c a b => Sys2Proof.Machine.execCmpne c a b s
  | .cmplt c a b => Sys2Proof.Machine.execCmplt c a b s
  | .cmpltu c a b => Sys2Proof.Machine.execCmpltu c a b s
  | .cmpge c a b => Sys2Proof.Machine.execCmpge c a b s
  | .cmpgeu c a b => Sys2Proof.Machine.execCmpgeu c a b s
  | .srr d n => Sys2Proof.Machine.execSrr d n s
  | .srw a n => Sys2Proof.Machine.execSrw a n s
  | .cand d a b => Sys2Proof.Machine.execCand d a b s
  | .cor d a b => Sys2Proof.Machine.execCor d a b s
  | .cxor d a b => Sys2Proof.Machine.execCxor d a b s
  | .candn d a b => Sys2Proof.Machine.execCandn d a b s
  | .bpt b imm => Sys2Proof.Machine.execBpt b imm s
  | .bptr b a imm => Sys2Proof.Machine.execBptr b a imm s
  | .bjt b a imm => Sys2Proof.Machine.execBjt b a imm s
  | .btr b c => Sys2Proof.Machine.execBtr b c s
  | .btrFalse b c => Sys2Proof.Machine.execBtrFalse b c s
  | .btrAlways b => Sys2Proof.Machine.execBtrAlways b s
  | .btrl l b c => Sys2Proof.Machine.execBtrl l b c s
  | .btrlFalse l b c => Sys2Proof.Machine.execBtrlFalse l b c s
  | .btrlAlways l b => Sys2Proof.Machine.execBtrlAlways l b s
  | .vany c p => Sys2Proof.Machine.execVany c p s
  | .vall c p => Sys2Proof.Machine.execVall c p s
  | .lb d a imm => Sys2Proof.Machine.execLb d a imm s
  | .lbu d a imm => Sys2Proof.Machine.execLbu d a imm s
  | .lh d a imm => Sys2Proof.Machine.execLh d a imm s
  | .lhu d a imm => Sys2Proof.Machine.execLhu d a imm s
  | .lw d a imm => Sys2Proof.Machine.execLw d a imm s
  | .lwu d a imm => Sys2Proof.Machine.execLwu d a imm s
  | .ld d a imm => Sys2Proof.Machine.execLd d a imm s
  | .sb v a imm => Sys2Proof.Machine.execSb v a imm s
  | .sh v a imm => Sys2Proof.Machine.execSh v a imm s
  | .sw v a imm => Sys2Proof.Machine.execSw v a imm s
  | .sd v a imm => Sys2Proof.Machine.execSd v a imm s
  | .lq d a imm => Sys2Proof.Machine.execLq d a imm s
  | .sq v a imm => Sys2Proof.Machine.execSq v a imm s
  | .amow d a b o => Sys2Proof.Machine.execAmow d a b o s
  | .amod d a b o => Sys2Proof.Machine.execAmod d a b o s
  | .casw d a b => Sys2Proof.Machine.execCasw d a b s
  | .casd d a b => Sys2Proof.Machine.execCasd d a b s
  | .casq d a b => Sys2Proof.Machine.execCasq d a b s
  | .fence k r => Sys2Proof.Machine.execFence k r s
  | .waitt a => Sys2Proof.Machine.execWaitt a s
  | .rdtime d => Sys2Proof.Machine.execRdtime d s
  | .trap imm => Sys2Proof.Machine.execTrap imm s
  | .vadd d a b t p z => Sys2Proof.Machine.execVadd d a b t p z s
  | .vsub d a b t p z => Sys2Proof.Machine.execVsub d a b t p z s
  | .vmul d a b t p z => Sys2Proof.Machine.execVmul d a b t p z s
  | .vmin d a b t p z => Sys2Proof.Machine.execVmin d a b t p z s
  | .vmax d a b t p z => Sys2Proof.Machine.execVmax d a b t p z s
  | .vfma d a b t p z => Sys2Proof.Machine.execVfma d a b t p z s
  | .vfms d a b t p z => Sys2Proof.Machine.execVfms d a b t p z s
  | .vabs d a t p z => Sys2Proof.Machine.execVabs d a t p z s
  | .vneg d a t p z => Sys2Proof.Machine.execVneg d a t p z s
  | .vdiv d a b t p z => Sys2Proof.Machine.execVdiv d a b t p z s
  | .vrem d a b t p z => Sys2Proof.Machine.execVrem d a b t p z s
  | .vsqrt d a t p z => Sys2Proof.Machine.execVsqrt d a t p z s
  | .vrcp d a t p z => Sys2Proof.Machine.execVrcp d a t p z s
  | .vrsq d a t p z => Sys2Proof.Machine.execVrsq d a t p z s
  | .vexp2 d a t p z => Sys2Proof.Machine.execVexp2 d a t p z s
  | .vlog2 d a t p z => Sys2Proof.Machine.execVlog2 d a t p z s
  | .vsin d a t p z => Sys2Proof.Machine.execVsin d a t p z s
  | .vcos d a t p z => Sys2Proof.Machine.execVcos d a t p z s
  | .vtanh d a t p z => Sys2Proof.Machine.execVtanh d a t p z s
  | .vand d a b t p z => Sys2Proof.Machine.execVand d a b t p z s
  | .vor d a b t p z => Sys2Proof.Machine.execVor d a b t p z s
  | .vxor d a b t p z => Sys2Proof.Machine.execVxor d a b t p z s
  | .vsll d a b t p z => Sys2Proof.Machine.execVsll d a b t p z s
  | .vsrl d a b t p z => Sys2Proof.Machine.execVsrl d a b t p z s
  | .vsra d a b t p z => Sys2Proof.Machine.execVsra d a b t p z s
  | .vcvt d a src t p z => Sys2Proof.Machine.execVcvt d a src t p z s
  | .vcmpeq d a b t p => Sys2Proof.Machine.execVcmpeq d a b t p s
  | .vcmplt d a b t p => Sys2Proof.Machine.execVcmplt d a b t p s
  | .vcmple d a b t p => Sys2Proof.Machine.execVcmple d a b t p s
  | .vcmpun d a b t p => Sys2Proof.Machine.execVcmpun d a b t p s
  | .vsel d a b t p => Sys2Proof.Machine.execVsel d a b t p s
  | .vpand d a b => Sys2Proof.Machine.execVpand d a b s
  | .vpor d a b => Sys2Proof.Machine.execVpor d a b s
  | .vpxor d a b => Sys2Proof.Machine.execVpxor d a b s
  | .vpnot d a => Sys2Proof.Machine.execVpnot d a s
  | .vperm d a b t p z => Sys2Proof.Machine.execVperm d a b t p z s
  | .vredadd d a t p z => Sys2Proof.Machine.execVredadd d a t p z s
  | .vredmax d a t p z => Sys2Proof.Machine.execVredmax d a t p z s
  | .vredmin d a t p z => Sys2Proof.Machine.execVredmin d a t p z s
  | .vscan d a t p z => Sys2Proof.Machine.execVscan d a t p z s
  | .vsplat v r w => Sys2Proof.Machine.execVsplat v r w s
  | .vins v r l w => Sys2Proof.Machine.execVins v r l w s
  | .vext v r l w => Sys2Proof.Machine.execVext v r l w s
  | .vldh v r x p cv => Sys2Proof.Machine.execVldh v r x p cv s
  | .vsth v r x p cv => Sys2Proof.Machine.execVsth v r x p cv s
  | .vldm v r x p => Sys2Proof.Machine.execVldm v r x p s
  | .vstm v r x p => Sys2Proof.Machine.execVstm v r x p s
  | .vmov d a t p z => Sys2Proof.Machine.execVmov d a t p z s
  | .vxcGather a b => Sys2Proof.Machine.execVxcGather a b s
  | .vxcScatter a b => Sys2Proof.Machine.execVxcScatter a b s
  | .vxcHandleGather a b => Sys2Proof.Machine.execVxcHandleGather a b s
  | .vxcHandleScatter a b => Sys2Proof.Machine.execVxcHandleScatter a b s
  | .vxcTableLookup a b => Sys2Proof.Machine.execVxcTableLookup a b s
  | .vxcDataComplete x => Sys2Proof.Machine.execVxcDataComplete x s
  | .vfence => Sys2Proof.Machine.execVfence s
  | .lacq g => Sys2Proof.Machine.execLacq g s
  | .lrel g => Sys2Proof.Machine.execLrel g s
  | .bload g h r k => Sys2Proof.Machine.execBload g h r k s
  | .mma g h r z k => Sys2Proof.Machine.execMma g h r z k s
  | .drain g h r f => Sys2Proof.Machine.execDrain g h r f s
  | .dbias g h r => Sys2Proof.Machine.execDbias g h r s
  | .dact g h r => Sys2Proof.Machine.execDact g h r s
  | .dtt g r => Sys2Proof.Machine.execDtt g r s
  | .dclamp g h r => Sys2Proof.Machine.execDclamp g h r s
  | .drainm g h r f => Sys2Proof.Machine.execDrainm g h r f s
  | .stats g e d m => Sys2Proof.Machine.execStats g e d m s
  | .statc g e c m => Sys2Proof.Machine.execStatc g e c m s
  | .statg g e n m => Sys2Proof.Machine.execStatg g e n m s
  | .fft g h r k => Sys2Proof.Machine.execFft g h r k s
  | .ifft g h r k => Sys2Proof.Machine.execIfft g h r k s
  | .shtf g h r k => Sys2Proof.Machine.execShtf g h r k s
  | .shti g h r k => Sys2Proof.Machine.execShti g h r k s
  | .plan g h r k => Sys2Proof.Machine.execPlan g h r k s
  | .mma3 g h r z => Sys2Proof.Machine.execMma3 g h r z s
  | .layerf g h r => Sys2Proof.Machine.execLayerf g h r s
  | .layerd g h r => Sys2Proof.Machine.execLayerd g h r s
  | .layerw g h r => Sys2Proof.Machine.execLayerw g h r s
  | .layeru g h r => Sys2Proof.Machine.execLayeru g h r s
  | .uopArr op fn ka kb => Sys2Proof.Machine.execUopArr op fn ka kb s
  | .uopSet kd imm => Sys2Proof.Machine.execUopSet kd imm s
  | .uopAdd kd ka imm => Sys2Proof.Machine.execUopAdd kd ka imm s
  | .uopLoop kd target => Sys2Proof.Machine.execUopLoop kd target s
  | .uopSafe => Sys2Proof.Machine.execUopSafe s
  | .uopEnd => Sys2Proof.Machine.execUopEnd s
  | .copy g h r => Sys2Proof.Machine.execCopy g h r s
  | .chain g h r => Sys2Proof.Machine.execChain g h r s
  | .pref g h r l2 => Sys2Proof.Machine.execPref g h r l2 s
  | .retn g h r => Sys2Proof.Machine.execRetn g h r s
  | .invr g h r l2 => Sys2Proof.Machine.execInvr g h r l2 s
  | .copyo g h r => Sys2Proof.Machine.execCopyo g h r s
  | .chaino g h r => Sys2Proof.Machine.execChaino g h r s
  | .copya g h r => Sys2Proof.Machine.execCopya g h r s
  | .chaina g h r => Sys2Proof.Machine.execChaina g h r s
  | .offl g h r keep => Sys2Proof.Machine.execOffl g h r keep s
  | .wbr g h r l2 => Sys2Proof.Machine.execWbr g h r l2 s
  | .dataRecordComplete x => Sys2Proof.Machine.execDataRecordComplete x s
  | .zpop g h r z => Sys2Proof.Machine.execZpop g h r z s
  | .zpush g h r z => Sys2Proof.Machine.execZpush g h r z s
  | .zopen g h r z => Sys2Proof.Machine.execZopen g h r z s
  | .zclose g z => Sys2Proof.Machine.execZclose g z s
  | .tune g h r => Sys2Proof.Machine.execTune g h r s
  | .trav g h r => Sys2Proof.Machine.execTrav g h r s
  | .pushr g h r o => Sys2Proof.Machine.execPushr g h r o s
  | .ncomb g h r => Sys2Proof.Machine.execNcomb g h r s
  | .pinit h r x => Sys2Proof.Machine.execPinit h r x s
  | .pinitr h r x => Sys2Proof.Machine.execPinitr h r x s
  | .parrive h r => Sys2Proof.Machine.execParrive h r s
  | .pdrop h r => Sys2Proof.Machine.execPdrop h r s
  | .pwait h r p => Sys2Proof.Machine.execPwait h r p s
  | .rinit h r x => Sys2Proof.Machine.execRinit h r x s
  | .rclaim h r x => Sys2Proof.Machine.execRclaim h r x s
  | .rcommit h r x => Sys2Proof.Machine.execRcommit h r x s
  | .rwfill h r k => Sys2Proof.Machine.execRwfill h r k s
  | .rwfree h r k => Sys2Proof.Machine.execRwfree h r k s
  | .rfree h r x => Sys2Proof.Machine.execRfree h r x s
  | .barr t => Sys2Proof.Machine.execBarr t s
  | .bara t => Sys2Proof.Machine.execBara t s
  | .bwait t => Sys2Proof.Machine.execBwait t s
  | .bdrop t => Sys2Proof.Machine.execBdrop t s
  | .belayCompletion t die => Sys2Proof.Machine.execBelayCompletion t die s
  | .barrierWatchdog x => Sys2Proof.Machine.execBarrierWatchdog x s
  | .gset g c => Sys2Proof.Machine.execGset g c s
  | .gseti g v => Sys2Proof.Machine.execGseti g v s
  | .gclr g => Sys2Proof.Machine.execGclr g s
  | .fork x r o => Sys2Proof.Machine.execFork x r o s
  | .rdv => Sys2Proof.Machine.execRdv s
  | .rdvFin => Sys2Proof.Machine.execRdvFin s
  | .waitp p => Sys2Proof.Machine.execWaitp p s
  | .halloc h r => Sys2Proof.Machine.execHalloc h r s
  | .hfree h => Sys2Proof.Machine.execHfree h s
  | .hfmt h r => Sys2Proof.Machine.execHfmt h r s
  | .dreg x y => Sys2Proof.Machine.execDreg x y s
  | .dunreg x => Sys2Proof.Machine.execDunreg x s
  | .dmode m => Sys2Proof.Machine.execDmode m s
  | .tread x => Sys2Proof.Machine.execTread x s
  | .tlim x => Sys2Proof.Machine.execTlim x s
  | .tset x => Sys2Proof.Machine.execTset x s
  | .sread x y => Sys2Proof.Machine.execSread x y s
  | .sstep x => Sys2Proof.Machine.execSstep x s
  | .sskip x => Sys2Proof.Machine.execSskip x s
  | .eret => Sys2Proof.Machine.execEret s
  | .csrr d a n => Sys2Proof.Machine.execCsrr d a n s
  | .csrw d a n => Sys2Proof.Machine.execCsrw d a n s
  | .tlbiPage a => Sys2Proof.Machine.execTlbiPage a s
  | .tlbiKey a => Sys2Proof.Machine.execTlbiKey a s
  | .tlbiAll a => Sys2Proof.Machine.execTlbiAll a s
  | .keyset a => Sys2Proof.Machine.execKeyset a s
  | .gang a => Sys2Proof.Machine.execGang a s
  | .gres a => Sys2Proof.Machine.execGres a s
  | .graphLoad a => Sys2Proof.Machine.execGraphLoad a s
  | .graphStart a => Sys2Proof.Machine.execGraphStart a s
  | .graphStop a => Sys2Proof.Machine.execGraphStop a s
  | .graphUnload a => Sys2Proof.Machine.execGraphUnload a s
  | .mbx d a m => Sys2Proof.Machine.execMbx d a m s
  | .mcload a g => Sys2Proof.Machine.execMcload a g s
  | .halt imm => Sys2Proof.Machine.execHalt imm s
  | .interlockedResultLands x seq => Sys2Proof.Machine.execInterlockedResultLands x seq s
  | .waittDeadline x => Sys2Proof.Machine.execWaittDeadline x s
  | .waitSatisfied x => Sys2Proof.Machine.execWaitSatisfied x s
  | .commandStart x q => Sys2Proof.Machine.execCommandStart x q s
  | .commandComplete x => Sys2Proof.Machine.execCommandComplete x s
  | .leaseGrant cl => Sys2Proof.Machine.execLeaseGrant cl s
  | .leaseBound cl => Sys2Proof.Machine.execLeaseBound cl s
  | .leaseTimeout cl => Sys2Proof.Machine.execLeaseTimeout cl s
  | .quiescenceTimeout c => Sys2Proof.Machine.execQuiescenceTimeout c s
  | .cairnDispatch => Sys2Proof.Machine.execCairnDispatch s
  | .lineEviction die line => Sys2Proof.Machine.execLineEviction die line s
  | .creditGrant x => Sys2Proof.Machine.execCreditGrant x s
  | .zpushWatchdog x => Sys2Proof.Machine.execZpushWatchdog x s
  | .zpopWatchdog x => Sys2Proof.Machine.execZpopWatchdog x s
  | .filterSettled p slot => Sys2Proof.Machine.execFilterSettled p slot s
  | .slot0Retune p => Sys2Proof.Machine.execSlot0Retune p s
  | .portGrant p => Sys2Proof.Machine.execPortGrant p s
  | .packetArrival k => Sys2Proof.Machine.execPacketArrival k s
  | .travAnnounce x => Sys2Proof.Machine.execTravAnnounce x s
  | .travComplete x => Sys2Proof.Machine.execTravComplete x s
  | .pushrComplete x => Sys2Proof.Machine.execPushrComplete x s
  | .ncombComplete x => Sys2Proof.Machine.execNcombComplete x s
  | .pushKeyReopen k => Sys2Proof.Machine.execPushKeyReopen k s
  | .flitReceived p l crcOk => Sys2Proof.Machine.execFlitReceived p l crcOk s
  | .nakReceived p l passed => Sys2Proof.Machine.execNakReceived p l passed s
  | .rxLightLoss p l => Sys2Proof.Machine.execRxLightLoss p l s
  | .rxLightReturn p l => Sys2Proof.Machine.execRxLightReturn p l s
  | .moduleLostTimeout f => Sys2Proof.Machine.execModuleLostTimeout f s
  | .gangSweepClose g => Sys2Proof.Machine.execGangSweepClose g s
  | .gresResume g => Sys2Proof.Machine.execGresResume g s
  | .hostDoorbell m value buffer => Sys2Proof.Machine.execHostDoorbell m value buffer s
  | .chkmapWrite v => Sys2Proof.Machine.execChkmapWrite v s
  | .chkunmapWrite v => Sys2Proof.Machine.execChkunmapWrite v s
  | .hubLostWrite v => Sys2Proof.Machine.execHubLostWrite v s
  | .retireCore die k => Sys2Proof.Machine.execRetireCore die k s
  | .retireBank die k bank => Sys2Proof.Machine.execRetireBank die k bank s
  | .retireLane p l => Sys2Proof.Machine.execRetireLane p l s
  | .repairHbmRow stack row => Sys2Proof.Machine.execRepairHbmRow stack row s
  | .hbmRepairDone stack => Sys2Proof.Machine.execHbmRepairDone stack s
  | .lightRequestWrite p v => Sys2Proof.Machine.execLightRequestWrite p v s
  | .lightGrantWrite p v => Sys2Proof.Machine.execLightGrantWrite p v s
  | .laneTrained p l => Sys2Proof.Machine.execLaneTrained p l s
  | .laneUnlit p l => Sys2Proof.Machine.execLaneUnlit p l s
  | .supplyLightLoss p => Sys2Proof.Machine.execSupplyLightLoss p s
  | .timeStepWrite v => Sys2Proof.Machine.execTimeStepWrite v s
  | .ptpEventRx => Sys2Proof.Machine.execPtpEventRx s
  | .ptpEventTx => Sys2Proof.Machine.execPtpEventTx s
  | .rasLenWrite v => Sys2Proof.Machine.execRasLenWrite v s
  | .rasBaseWrite v => Sys2Proof.Machine.execRasBaseWrite v s
  | .rasTailWrite v => Sys2Proof.Machine.execRasTailWrite v s
  | .nonceWrite v => Sys2Proof.Machine.execNonceWrite v s
  | .quoteReady => Sys2Proof.Machine.execQuoteReady s
  | .bootDoorbell value image => Sys2Proof.Machine.execBootDoorbell value image s
  | .supervisorStart => Sys2Proof.Machine.execSupervisorStart s
  | .powerUp firmware => Sys2Proof.Machine.execPowerUp firmware s
  | .functionReady f => Sys2Proof.Machine.execFunctionReady f s
  | .correctedEcc pa => Sys2Proof.Machine.execCorrectedEcc pa s
  | .uncorrectableEcc site => Sys2Proof.Machine.execUncorrectableEcc site s
  | .powerCapExceeded watts => Sys2Proof.Machine.execPowerCapExceeded watts s
  | .thermalThrottle temp => Sys2Proof.Machine.execThermalThrottle temp s
  | .thermalTrip temp => Sys2Proof.Machine.execThermalTrip temp s
  | .supplyVoltageOut => Sys2Proof.Machine.execSupplyVoltageOut s
  | .registerWrite off v manager => Sys2Proof.Machine.execRegisterWrite off v manager s
  | .illegalWord why => Sys2Proof.Machine.execIllegalWord why s
  | .fetchFault cause => Sys2Proof.Machine.execFetchFault cause s
  | .exposedResultLands x seq => Sys2Proof.Machine.execExposedResultLands x seq s
  | .preEmption x => Sys2Proof.Machine.execPreEmption x s
  | .portConfigWrite p v => Sys2Proof.Machine.execPortConfigWrite p v s
  | .supplyLightReturn p => Sys2Proof.Machine.execSupplyLightReturn p s
  | .announcementReceived p l colour pending passes => Sys2Proof.Machine.execAnnouncementReceived p l colour pending passes s
  | .throttlingEnds watts temp => Sys2Proof.Machine.execThrottlingEnds watts temp s

end Sys2Proof.Machine
end

