-- ==== Sys2Proof/Machine/Cycle.lean ====
section
/-! DEFINITION. What a step may do: what is due, what may go on, what a core issues, and the end of a cycle. The order of several moves that
the manual leaves open is a free choice (log 4). `ex` is the table of meanings. -/

namespace Sys2Proof.Machine

/-- The outcome of an event. -/
abbrev Outcome := Host.Outcome State Fault Refusal

/-- A move: the state after an event that may happen now. -/
def moveOf (o : Outcome) : Option State :=
  match o with
  | .next t => some t
  | .fault _ => none
  | .refused _ => none

/-- An event that may happen now; `jobs`: the jobs whose words or commands it carries on, with the places of those in the issue order. -/
structure Try where
  jobs : List (CtxId × Nat)
  run : Unit → Outcome

/-- A move, with its jobs and places. -/
structure Cand where
  jobs : List (CtxId × Nat)
  st : State

/-- An event of no word or command. -/
def anyTry (f : Unit → Outcome) : Try := ⟨[], f⟩

/-- An event of a word or command. -/
def tryAt (x : CtxId) (seq : Nat) (f : Unit → Outcome) : Try := ⟨[(x, seq)], f⟩

/-- The move that an event makes. -/
def Try.cand (a : Try) : Option Cand := (moveOf (a.run ())).map fun t => ⟨a.jobs, t⟩

/-- A change of the machine that is no event of its own, as an outcome: none where it cannot happen. -/
def moving (o : Option State) : Outcome :=
  match o with
  | some t => .next t
  | none => noEvent "MOVE"

/-- The first move of a list of events. -/
def firstMove : List Try → Option Cand
  | [] => none
  | f :: l =>
    match f.cand with
    | some t => some t
    | none => firstMove l

/-! ## One trap of a job in a cycle (R223) -/

/-- Does a move raise a trap of a job? -/
def trapsJob (s t : State) (x : CtxId) : Bool :=
  match s.ctx x, t.ctx x with
  | some a, some b =>
    (!a.atSup && b.atSup) || (!(a.stream .C).mode && (b.stream .C).mode) || (!a.untaken && b.untaken) ||
      (a.pendingTrap.isNone && b.pendingTrap.isSome)
  | _, _ => false

/-- Of the moves that raise a trap of a job, the one that comes before the place `n` and is earliest in the issue order. -/
def earlierTrap (s : State) (x : CtxId) (best : Nat × Option State) (c : Cand) : Nat × Option State :=
  c.jobs.foldl (fun b j => if j.1 = x ∧ j.2 < b.1 ∧ trapsJob s c.st x = true then (j.2, some c.st) else b) best

/-- A move as it happens among others: where it would raise a trap of a job, and a word or command earlier in the issue order would raise
one too, that one's trap is delivered. -/
def Cand.settle (s : State) (others : State → List Cand) (c : Cand) : State :=
  (c.jobs.findSome? fun j => if trapsJob s c.st j.1 then ((others s).foldl (earlierTrap s j.1) (j.2, none)).2 else none).getD c.st

/-! ## What is due: events that happen at their cycle -/

/-- Every stream of a context. -/
def refsOf (c : Ctx) : List StreamRef := allStreams.map fun x => ⟨c.id, x⟩

/-- The exposed results that are due, as stream and word. -/
def dueFlights (s : State) : List (StreamRef × Nat) :=
  s.ctxs.flatMap fun c => allStreams.flatMap fun x =>
    ((c.stream x).flight.filter fun f => f.due.by s.now).map fun f => (⟨c.id, x⟩, f.seq)

/-- Landings that are due, in issue order within each stream. -/
def dueLandings (s : State) : List Try :=
  (dueFlights s).map fun r => anyTry fun (_ : Unit) => execExposedResultLands r.1 r.2 s

/-- `WAITT` deadlines, barrier watchdogs, and status reads into guard slots. -/
def dueWords (s : State) : List Try :=
  s.ctxs.flatMap fun c =>
    (refsOf c).filterMap (fun r =>
      match (c.stream r.st).run with
      | .waitt _ => some (anyTry fun (_ : Unit) => execWaittDeadline r s)
      | .held h => some (tryAt c.id h.seq fun (_ : Unit) => execBarrierWatchdog r s)
      | _ => none) ++
    c.cmds.filterMap fun d =>
      match d.prog with
      | .statg _ _ _ => some (tryAt c.id d.seq fun (_ : Unit) => execCommandComplete ⟨c.id, d.seq⟩ s)
      | _ => none

/-- Belay completions on their way. -/
def dueTags (s : State) : List Try :=
  (s.tags.filter fun x => decide (x.coming ≠ [])).map fun x => anyTry fun (_ : Unit) => execBelayCompletion x.tag x.die s

/-- The oldest write that waits for an HBM stack and can be performed now, behind none of the same bytes. -/
def flushFrom (s : State) (before : List WaitStore) : List WaitStore → Option State
  | [] => none
  | x :: l =>
    match (if before.any x.meets then none else storeNow s x) with
    | some t => some { t with waitStores := before ++ l }
    | none => flushFrom s (before ++ [x]) l

def flushStore (s : State) : Option State := flushFrom s [] s.waitStores

/-- Does a lane have a slot that settles? -/
def LaneSt.settling (y : LaneSt) : Bool := y.slot0.settle.isSome || y.slot1.settle.isSome

/-- Ports of a kind, with their numbers. -/
def portsWith (s : State) (f : PortSt → Bool) : List Port :=
  (((List.finRange 64).zip s.hub.ports.toList).filter fun p => f p.2).map fun p => p.1

/-- Filters that settle. -/
def dueFilters (s : State) : List Try :=
  (portsWith s fun x => x.lanes.toList.any LaneSt.settling).flatMap fun p =>
    [anyTry fun (_ : Unit) => execFilterSettled p false s, anyTry fun (_ : Unit) => execFilterSettled p true s]

/-- The command at the head of a job's A queue, as the word of an event. -/
def headOf (s : State) (x : Option CtxId) : List (CtxId × Nat) :=
  match x.bind s.ctx with
  | some c => ((cmdHead c .A).map fun d => (c.id, d.seq)).toList
  | none => []

/-- Leases that are granted, bounded or timed out. -/
def dueLeases (s : State) : List Try :=
  (s.arrays.filter fun a => a.holder.isSome || decide (a.requests ≠ [])).flatMap fun a =>
    [⟨headOf s a.holder, fun (_ : Unit) => execLeaseTimeout a.cluster s⟩, anyTry fun (_ : Unit) => execLeaseBound a.cluster s,
      anyTry fun (_ : Unit) => execLeaseGrant a.cluster s]

/-- Keys that reopen, modules that are lost, quiescent cores. -/
def dueRouter (s : State) : List Try :=
  (s.router.closed.map fun k => anyTry fun (_ : Unit) => execPushKeyReopen k.1 s) ++
  (s.router.lastHeard.map fun h => anyTry fun (_ : Unit) => execModuleLostTimeout h.1 s) ++
  ((s.cores.filter fun k => decide (64 ≤ k.quiet)).map fun k => anyTry fun (_ : Unit) => execQuiescenceTimeout k.id s)

/-- The events that are due. -/
def dueTries (s : State) : List Try :=
  dueLandings s ++ dueTags s ++ dueWords s ++ dueFilters s ++ dueLeases s ++ dueRouter s ++
    (if s.waitStores = [] then [] else [anyTry fun (_ : Unit) => moving (flushStore s)])

/-- The words that hold their streams and whose conditions are true (R162, R212): each completes now; which of several goes first is open
(log 90). -/
def heldMoves (s : State) : List Cand :=
  (s.ctxs.flatMap fun c => (refsOf c).filterMap fun r =>
    match (c.stream r.st).run with
    | .held h => some (tryAt c.id h.seq fun (_ : Unit) => execWaitSatisfied r s)
    | _ => none).filterMap Try.cand

/-! ## What may go on: events whose time the manual leaves open -/

/-- The next micro-op of a macro (R184), by the store as it stood when the macro started (R257). -/
def microMove (s : State) (c : Ctx) (m : MacroSt) : Outcome :=
  let t := { s with cur := some ⟨c.id, .C⟩ }
  let i := if m.addr < 16384 then decodeUop (microWord m.store m.addr) else none
  match i with
  | some (.uopArr op fn ka kb) => execUopArr op fn ka kb t
  | some (.uopSet kd imm) => execUopSet kd imm t
  | some (.uopAdd kd ka imm) => execUopAdd kd ka imm t
  | some (.uopLoop kd target) => execUopLoop kd target t
  | some .uopSafe => execUopSafe t
  | some .uopEnd => execUopEnd t
  | _ => uopFault t

/-- How a command may go on. -/
def cmdMoves (s : State) (c : Ctx) (d : Cmd) : List Outcome :=
  let x : CmdRef := ⟨c.id, d.seq⟩
  let runs (o : Option State) : Outcome := if cmdsRun c then moving o else noEvent "MOVE"
  match d.prog with
  | .done => [execCommandComplete x s]
  | .walk k => [runs ((chainOf d.word).bind fun h => copyUnit s c d h k), execDataRecordComplete x s]
  | .layer m => [microMove s c m]
  | .trav _ => [execTravAnnounce x s, execTravComplete x s]
  | .push p => [runs (pushSend s c d p), execPushrComplete x s]
  | .ncomb bs start token fl => [runs (combStep s c d bs start token fl), execNcombComplete x s]
  | .waiting _ => (match zPeer c d with
    | some (z, _) => if z.peer = ownFid then [execCreditGrant x s] else []
    | none => [])
  | _ => []

/-- How a context may go on: results that their units deliver, the heads of its queues, its commands, its `VXC`. -/
def ctxTries (s : State) (c : Ctx) : List Try :=
  (allStreams.flatMap fun x =>
    ((c.stream x).flight.filter fun f => f.due.open).map fun f =>
      anyTry fun (_ : Unit) => execInterlockedResultLands ⟨c.id, x⟩ f.seq s) ++
  (if c.cmds = [] then [] else [Queue.A, .L, .S, .N].filterMap fun q =>
    (cmdHead c q).map fun d => tryAt c.id d.seq fun (_ : Unit) => execCommandStart c.id q s) ++
  c.cmds.flatMap (fun d => (cmdMoves s c d).map fun o => tryAt c.id d.seq fun (_ : Unit) => o) ++
  match c.vxc with
  | some v => [tryAt c.id v.seq fun (_ : Unit) => execVxcDataComplete c.id s]
  | none => []

/-- Lanes that are lit no more, and are not OFF yet. -/
def unlitLanes (s : State) : List (Port × Lane) :=
  (portsWith s fun x => x.lanes.toList.any fun y => y.state != 0).flatMap fun p =>
    (allLanes.filter fun l => (laneOf s p l).state != 0 && !s.hub.lit p l).map fun l => (p, l)

/-- The Traverses that a packet reaches: their writes may trap (R194). -/
def packetJobs (s : State) (k : Packet) : List (CtxId × Nat) :=
  let at_ (x : CtxId) (id inst : Nat) : List (CtxId × Nat) := ((travHere s x id inst).map fun q => (x, q.2.1.seq)).toList
  match k.body with
  | .piece dst _ [] id inst _ _ _ _ _ => at_ dst id inst
  | .result (.trav id inst _ _) ms _ _ _ _ _ _ => ms.flatMap fun m => at_ m.1 id inst
  | _ => []

/-- Packets that may arrive, or be taken. -/
def packetTries (s : State) : List Try :=
  (s.router.locals ++ s.router.waitq).map fun k => ⟨packetJobs s k, fun (_ : Unit) => execPacketArrival k s⟩

/-- How the router may go on. -/
def routerMoves (s : State) : List Outcome :=
  (if s.router.out = [] then [] else (List.finRange 64).map fun p => execPortGrant p s) ++
  (if s.router.outbox = [] then [] else [moving (travSend s [] s.router.outbox)]) ++
  s.router.groups.map (fun g => moving (groupMove s g)) ++
  s.router.zreqs.map (fun q => moving (lendCredit s q)) ++
  (portsWith s fun x => decide (x.heard ≠ [])).map (fun p => execSlot0Retune p s) ++
  (unlitLanes s).map (fun q => execLaneUnlit q.1 q.2 s) ++
  s.router.gangs.flatMap fun g =>
    let n : Fin 4096 := ⟨g.id % 4096, Nat.mod_lt _ (by decide)⟩
    [execGangSweepClose n s, execGresResume n s]

/-- How Cairn and the hub may go on. -/
def hubMoves (s : State) : List Outcome :=
  (if s.graphs = [] ∧ s.saved = [] then [] else [execCairnDispatch s]) ++
  s.hub.rpBusy.map (fun r => execHbmRepairDone r.1.stack s) ++
  (if s.hub.quoting then [execQuoteReady s] else []) ++
  (if s.hub.bootStat = 1 then [execSupervisorStart s] else [])

/-- Everything that may go on. -/
def goOn (s : State) : List Cand :=
  (s.ctxs.flatMap (ctxTries s) ++ packetTries s ++ (routerMoves s ++ hubMoves s).map fun o => anyTry fun (_ : Unit) => o).filterMap Try.cand

/-- Watchdogs of waiting N commands, at the end of the cycle in which their count is reached (R190, R191). -/
def watchdogs (s : State) : List Try :=
  s.ctxs.flatMap fun c => c.cmds.flatMap fun d =>
    match d.prog with
    | .waiting _ => [tryAt c.id d.seq fun (_ : Unit) => execZpushWatchdog ⟨c.id, d.seq⟩ s,
        tryAt c.id d.seq fun (_ : Unit) => execZpopWatchdog ⟨c.id, d.seq⟩ s]
    | _ => []

/-- The moves that a trap in this cycle is compared with (R223): what may go on, and the watchdogs, whose count the cycle reaches too. -/
def rivals (s : State) : List Cand := (watchdogs s).filterMap Try.cand ++ goOn s

/-! ## Issue -/

/-- Cores that have a context. -/
def coresInUse (s : State) : List CoreSt := s.cores.filter fun k => s.ctxs.any fun c => decide (c.id.core = k.id)

/-- What a core issues, if it has not issued in this cycle and a stream is ready. -/
def issueOf (s : State) (k : CoreSt) : Option (Fetched × State) :=
  if k.used then none
  else
    let rs := readyOf s k.id
    (pick k.last rs).map fun p => (p.got, issuing s k rs p)

/-- What the cores may issue. -/
def issues (s : State) : List (Fetched × State) := (coresInUse s).filterMap (issueOf s)

/-! ## The end of a cycle -/

/-- A stream whose word is ready in every respect but the queue entry, or behind `vbusy`, is held (R212). -/
def holdStream (s : State) (c : Ctx) (x : StreamId) (t : Stream) : Stream :=
  if streamOpen s c x then
    (match (fetchWord s c x).1 with
    | .word i => if wordReady s c x i && queueBlocked s c x i then { t with run := .held ⟨i, s.now, 0, none⟩ } else t
    | _ => t)
  else t

def holdFull (s : State) : State := { s with ctxs := s.ctxs.map fun c => c.mapStreams (holdStream s c) }

/-- May a stream of a quiescent core be so: parked, ended, never forked or stopped; or held by a word whose condition is not true, other
than `BWAIT` and `BARR` (R220, log 46)? -/
def streamQuiet (s : State) (c : Ctx) (x : StreamId) : Bool :=
  let t := c.stream x
  if t.stopped || !jobRuns c then true
  else
    match t.run with
    | .held h => (Instr.waitTag h.word).isNone &&
        (moveOf (execWaitSatisfied ⟨c.id, x⟩ s)).isNone
    | .run => false
    | .waitt _ => false
    | .stalled => false
    | _ => true

/-- Is a stream held? -/
def streamHeld (c : Ctx) (x : StreamId) : Bool :=
  !(c.stream x).stopped && jobRuns c && (match (c.stream x).run with
    | .held _ => true
    | _ => false)

/-- The head of an A queue that has come to the front requests the lease, if it needs it (R165, R222); so does a layer macro whose lease has
ended (R167, R168). -/
def wantsLease (c : Ctx) : Bool :=
  cmdsRun c &&
    (match cmdHead c .A with
    | some d =>
      decide (d.prog ≠ .done) && (isArrayCmd d.word || (match d.word with
        | .lacq _ => true
        | _ => false))
    | none => false)

/-- Does the head of a queue wait for a lease grant (R220, R222)? -/
def awaitsLease (s : State) (c : Ctx) (d : Cmd) : Bool := decide (d.q = .A) && wantsLease c && !holdsLease s c.id

/-- Does a command at its head wait for nothing but its guard slot or earlier commands: behind the range checker, behind inverted accesses
(R269), or for the `OFFL` of its kept handle (R148)? -/
def headWaits (s : State) (c : Ctx) (d : Cmd) : Bool :=
  !awaitsLease s c d &&
  match guardSays c s.now (Instr.guard d.word) with
  | none => true
  | some false => false
  | some true => rangeHeld c d || retnHeld s c d || (d.inverts s c && invertersBefore s c d.seq)

/-- Are the commands of a context quiet: none in progress, and each head waits so? Of a stopped job, whose commands stay where they are,
only an array command that still has to complete is in progress. -/
def cmdsQuiet (s : State) (c : Ctx) : Bool :=
  c.vxc.isNone &&
    (if cmdsRun c then
      (c.cmds.all fun d => decide (d.prog = .queued)) &&
        [Queue.A, .L, .S, .N].all fun q => match cmdHead c q with
          | none => true
          | some d => headWaits s c d
    else !c.cmds.any arrayBusy)

/-- Is a core quiescent in this cycle (R220)? -/
def quiescent (s : State) (k : CoreId) : Bool :=
  let cs := ctxsOf s k
  (cs.any fun c => allStreams.any (streamHeld c)) && cs.all fun c => cmdsQuiet s c && allStreams.all (streamQuiet s c)

/-- Count the quiescent cycles of the cores. A core that has issued in the cycle had a ready stream. -/
def countQuiet (s : State) : State :=
  { s with cores := s.cores.map fun k =>
      if s.ctxs.any fun c => decide (c.id.core = k.id) then { k with quiet := if !k.used && quiescent s k.id then k.quiet + 1 else 0, used := false }
      else { k with quiet := 0, used := false } }

/-- Leases: what a cycle does for each array, and the requests. -/
def tickLeases (s : State) : State :=
  let t := s.arrays.foldl (fun u a => if a.holder.isSome then leaseTick u a else u) s
  (t.ctxs.filter wantsLease).foldl (fun u c => requestLease u c.id) t

/-- `pw.now` and `pw.temp` are measured anew every millisecond (Table 20.7): free values, which do not pass the limits while the module does
not throttle (R330, log 101). -/
def measure (s : State) : State :=
  let h := s.hub
  if h.powered ∧ (s.now + 1) % 2000000 = 0 then
    let p := (Config.freeWord (s.free + 2 ^ 40)).toNat
    let t := (Config.freeWord (s.free + 2 ^ 40 + 1)).toNat
    s.setHub { h with
      pwNow := BitVec.ofNat 16 (if h.throttled then p else p % (h.pwCap + 1))
      pwTemp := BitVec.ofNat 16 (t % if h.throttled then 210 else 190) }
  else s

/-- What the end of a cycle counts at phase cells and tags (R152, R156), and the tags whose last member has left (R255). -/
def settle (s : State) : State :=
  resetIdle (settleTags { s with ctxs := s.ctxs.map settleCells, saved := s.saved.map settleCells })

/-- The end of a cycle: time goes on. -/
def tick (s : State) : State :=
  let t := measure (settle (tickLeases (countQuiet (holdFull s))))
  { t with now := t.now + 1, hub := tickTime t.hub, timeStep := none }

/-! ## A step -/

/-- The number that decides among several moves: the next one laid down, or a free choice (log 4). -/
def turnOf (s : State) : Nat :=
  match s.turns with
  | n :: _ => n
  | [] => Config.choice (s.free + 2 ^ 62)

/-- A choice among moves: none, the only one, or the one that a number names. -/
def chooseMove {α : Type} (n : Nat) : List α → Option α
  | [] => none
  | [a] => some a
  | a :: b :: l => (a :: b :: l)[n % (l.length + 2)]?

/-- What a step takes up: an event that may go on, a word that a core issues, or the end of the cycle, which comes only when no core has a word
to issue. -/
inductive Move where
  | go (c : Cand)
  | word (g : Fetched) (t : State)
  | endCycle

/-- The moves of a step. -/
def moves (s : State) : List Move :=
  let g := (goOn s).map Move.go
  match issues s with
  | [] => g ++ [.endCycle]
  | l => g ++ l.map fun w => .word w.1 w.2

/-- A word that a core issues. One that would trap gives way to a command of its job that would trap in this cycle too (R223). -/
def carryWord (ex : Instr → State → Outcome) (s : State) (g : Fetched) (t : State) : Outcome :=
  match runFetched ex g t, t.cur with
  | .next u, some r => .next (Cand.settle s rivals ⟨[(r.ctx, nextOrder s r.ctx.core)], u⟩)
  | o, _ => o

/-- Is an event from outside a register write, which comes through the management port? -/
def portWrite (i : Instr) : Bool :=
  match i with
  | .chkmapWrite _ => true | .chkunmapWrite _ => true | .hubLostWrite _ => true
  | .retireCore _ _ => true | .retireBank _ _ _ => true | .retireLane _ _ => true | .repairHbmRow _ _ => true
  | .lightRequestWrite _ _ => true | .lightGrantWrite _ _ => true | .portConfigWrite _ _ => true
  | .timeStepWrite _ => true | .rasLenWrite _ => true | .rasBaseWrite _ => true | .rasTailWrite _ => true | .nonceWrite _ => true
  | .registerWrite _ _ m => m
  | _ => false

/-- Is an event from outside due? -/
def inputDue (s : State) (e : Nat × Instr) : Bool := decide (e.1 ≤ s.now)

/-- Writes of the management port that are due: they are applied last in their cycle (R322). -/
def portWrites (s : State) : List Instr := (s.script.takeWhile (inputDue s)).map (fun e => e.2) |>.filter portWrite

/-- Apply writes in their order; then the cycle ends. -/
def endWith (ex : Instr → State → Outcome) : List Instr → State → Outcome
  | [], s => .next (tick s)
  | i :: l, s =>
    match ex i s with
    | .next t => endWith ex l t
    | o => o

/-- The end of a cycle: the watchdogs that are due; then the writes of the management port, and time goes on. -/
def endCycle (ex : Instr → State → Outcome) (s : State) : Outcome :=
  match firstMove (watchdogs s) with
  | some c => .next (c.settle s rivals)
  | none =>
    endWith ex (portWrites s) { s with
      script := (s.script.takeWhile (inputDue s)).filter (fun e => !portWrite e.2) ++ s.script.dropWhile (inputDue s) }

/-- A move, carried out. -/
def carryOut (ex : Instr → State → Outcome) (s : State) : Move → Outcome
  | .go c => .next (c.settle s rivals)
  | .word g t => carryWord ex s g t
  | .endCycle => endCycle ex s

/-- The next event from outside, if its cycle has come: the first that is no write of the management port, which waits for the cycle's end. -/
def nextInput (s : State) : Option (Instr × State) :=
  let now := s.script.takeWhile (inputDue s)
  match now.dropWhile fun e => portWrite e.2 with
  | e :: l => some (e.2, { s with script := now.takeWhile (fun f => portWrite f.2) ++ l ++ s.script.dropWhile (inputDue s) })
  | [] => none

/-- Does supervisor core 0 take a late-packet fault now (R313)? -/
def lateMove (s : State) : Option State :=
  if s.lateFaults = [] then none
  else
    let t := deliverLate s
    if t.lateFaults.length < s.lateFaults.length then some t else none

/-- A state in which a choice among `n` moves uses up a choice that is laid down, if there is more than one. -/
def spend (s : State) (n : Nat) : State := if n < 2 then s else { s with turns := s.turns.drop 1 }

/-- What goes on by choice: a word that a core issues, something that may go on, or the end of the cycle. -/
def proceed (ex : Instr → State → Outcome) (s : State) : Outcome :=
  let t := spend s (moves s).length
  match chooseMove (turnOf s) (moves t) with
  | some m => carryOut ex t m
  | none => .next (tick t)

/-- What the machine itself does next: what is due, then the words that hold their streams no more, then what goes on by choice. -/
def autonomous (ex : Instr → State → Outcome) (s : State) : Outcome :=
  match lateMove s with
  | some t => .next t
  | none =>
    match firstMove (dueTries s) with
    | some c => .next (c.settle s fun u => (dueTries u).filterMap Try.cand ++ heldMoves u ++ rivals u)
    | none =>
      let t := spend s (heldMoves s).length
      match chooseMove (turnOf s) (heldMoves t) with
      | some c => .next (c.settle t fun u => heldMoves u ++ rivals u)
      | none => proceed ex t

/-- One step: events from outside come first, in their order. Modules declared lost in the step before are acted on. -/
def cycle (ex : Instr → State → Outcome) (s : State) : Outcome :=
  let t := { (if s.router.lostReq = [] then s else actLost s) with fresh := s.fresh + 1 }
  match nextInput t with
  | some e => ex e.1 e.2
  | none => autonomous ex t

end Sys2Proof.Machine
end

