-- ==== Sys2Proof/Machine/Place.lean ====
section
/-! DEFINITION. How a word comes to be the next that a step runs (log 13): a job, or supervisor core 0, at that word, with page tables that
map it; or a layer macro at that micro-op. -/

namespace Sys2Proof.Machine

/-- Where the word lies, its virtual address its physical one. -/
def placeVa : Nat := 0x10000

/-- The page tables: one entry on each level, down to a 2 MiB leaf at 0 that may be executed and written (Tables 13.9, 13.10). -/
def placeTables : List (Nat × Nat) :=
  [(0x1000, 0x2001), (0x2000, 0x3001), (0x3000, 0x4001), (0x4000, 2 ^ 62 + 2 ^ 61 + 2 ^ 11 + 2 * 4 + 3)]

/-- Memory with the tables and a word of 32 bits, under key index 0. -/
def placeMem (m : MemSt) (w : Nat) : MemSt :=
  let n := { m with keys := assocSet m.keys 0 (assocGet (0, 0) m.keys 0) }
  let t := placeTables.foldl (fun k e => hbmSets k (hubKey k) e.1 (leBytes 8 e.2)) n
  hbmSets t (hubKey t) placeVa (leBytes 4 w)

/-- The ready bits that the fetch, and the word, meet: secure boot, encryption, supervisor core 0, Cairn, router, time, dies, stacks and L2. -/
def placeHub (h : HubSt) : HubSt :=
  { h with powered := true, rdyHub := h.rdyHub ||| 0xFFFF5F, sproot := 0x1000, strap := h.strap, timeSet := true }

/-- A job card for it. -/
def placeCard (arr : Bool) : Card := { supCard with arr := arr, owned := 0xFF, tags := 0, ptroot := 0x1000, entry := BitVec.ofNat 64 placeVa }

/-- The context of a job whose C stream stands at the word. -/
def placeCtx (s : State) (x : CtxId) (mode : Bool) : Ctx :=
  let c := Ctx.reset x (s.fresh + 1) (placeCard true)
  c.putStream .C { c.stream .C with
    pc := BitVec.ofNat 64 placeVa, mode := mode, run := .run, firstAt := s.now, laterAt := s.now }

/-- The core that runs a word: supervisor core 0 a K word, an X-core an X-core command, a G-core any other. -/
def placeCore (w : Nat) : CoreId :=
  let op := fld w 23 6
  if fld w 29 3 = 7 then .sup
  else if fld w 29 3 = 2 ∧ 0x0E ≤ op ∧ op ≤ 0x12 then .core 0 4
  else .core 0 0

/-- The state in which nothing but these contexts can move. -/
def placeIn (s : State) (c : Ctx) : State :=
  { s with ctxs := [c], hub := placeHub s.hub, script := [], lateFaults := [], waitStores := [] }

/-- A word of 32 bits as the next that a core issues. -/
def placeIssue (s : State) (w : Nat) : State :=
  (placeIn s (placeCtx s ⟨placeCore w, 0⟩ (placeCore w).isSup)).setMem (placeMem s.mem w)

/-- A macro at a micro-op, on a core whose job holds the lease. -/
def placeMacro (s : State) (u : Nat) : State :=
  let x : CtxId := ⟨.core 0 0, 0⟩
  let m : MacroSt := {
    k := Vector.replicate 16 0, addr := 256, since := 0, rows := 0, elems := 0, olds := [], flags := 0, stat := [], trapped := false
    store := [(256, BitVec.ofNat 64 u)] }
  let d : Cmd := ⟨0, .A, .layerf .always 0 0, 0, .C, 0, [], [], 0, 0, [], .layer m, []⟩
  let c := { Ctx.reset x (s.fresh + 1) (placeCard true) with cmds := [d] }
  let t := placeIn s c
  { t with
    arrays := s.arrays.map fun a => if a.cluster = 0 then { a with holder := some x, started := 0, since := s.now } else a
    turns := [0] }

/-- A word of 32 bits, or a micro-op of 64, as the next that a step runs. -/
def placeWord (s : State) (nbits w : Nat) : State :=
  if nbits ≤ 32 then placeIssue s (w % 2 ^ 32) else placeMacro s (w % 2 ^ 64)

end Sys2Proof.Machine
end

