-- ==== Sys2Proof/Machine/Step.lean ====
section
/-! DEFINITION. One step of the module. -/

namespace Sys2Proof.Machine

/-- One step (Cycle.lean). -/
def step (s : State) : Host.Outcome State Fault Refusal := cycle exec s

/-- The state in which the next step runs an instruction (Place.lean, log 13). -/
def State.withFetchWord (s : State) (nbits w : Nat) : State := placeWord s nbits w

end Sys2Proof.Machine
end

