-- ==== Sys2Proof/Safety.lean ====
section
/-! DEFINITION. The terms in which claims are stated: which stream issues a word and what the completion of a word leaves, and
what counts as a safe run. -/

namespace Sys2Proof

/-- The next step goes on. -/
def Machine.State.steps (s : Machine.State) : Bool :=
  match Machine.step s with
  | .next _ => true
  | .fault _ => false
  | .refused _ => false

/-- Every step of a run of `n` steps goes on. -/
def SafeFor : Nat → Machine.State → Prop
  | 0, _ => True
  | n + 1, s => match Machine.step s with
    | .next t => SafeFor n t
    | .fault _ => False
    | .refused _ => False

end Sys2Proof

namespace Sys2Proof.Machine

/-- The stream `r`, of the context `c`, issues the word of this step: no word that has issued holds it. -/
def State.issuer (s : State) (r : StreamRef) (c : Ctx) : Prop :=
  s.cur = some r ∧ s.ctx r.ctx = some c ∧ (c.stream r.st).issued = none

/-- The place of the word that a stream issues, in the issue order of its core (R216). -/
def State.place (s : State) (r : StreamRef) : Nat := nextOrder s r.ctx.core

/-- The context of the issuing stream, once its word has taken that place. -/
def State.placed (s : State) (r : StreamRef) (c : Ctx) : Ctx := { c with order := s.place r + 1 }

/-- The issuing stream as its word finds it. -/
def State.here (s : State) (r : StreamRef) (c : Ctx) : At := ⟨r, s.placed r c, c.stream r.st, s.place r, (c.stream r.st).s⟩

/-- The stream `r`, of the context `c`, is held by a word that has issued, at the place `n` and with the s registers `v`, and that looks at its
condition again. -/
def State.holder (s : State) (r : StreamRef) (c : Ctx) (n : Nat) (v : Vector Word 64) : Prop :=
  s.cur = some r ∧ s.ctx r.ctx = some c ∧ (c.stream r.st).issued = some (n, v)

/-- The state in which the issuing stream of a context is replaced, its word having taken its place. -/
def State.withStream (s : State) (r : StreamRef) (c : Ctx) (t : Stream) : State := s.putCtx ((s.placed r c).putStream r.st t)

/-- The word of a stream completes in the state that its effect has left: the pc moves on to the next word, or past the last delay slot
to the target (R30, R88); supervisor core 0 has taken up its last trap (R327). -/
def State.completed (t : State) (r : StreamRef) : State := (takenUp t r).mapStream r Stream.advance

/-- The word of a stream has moved the pc itself. -/
def State.ended (t : State) (r : StreamRef) : State := takenUp t r

end Sys2Proof.Machine
end

