-- ==== Sys2Proof/Certificates/Slice0/Obligations.lean ====
section
/-! DEFINITION. The statements about the model, for the provers: `Obligations.<Name>`, with the tables of results that they are
stated with. -/

open Sys2Proof Sys2Proof.Machine

/-! ## Control engine (spec/05_control_engine.md) -/

namespace Sys2Proof.Claims

/-- Table 5.1, R80, R83: destination, value and latency of the words whose result is exposed and depends on registers and the
immediate alone. -/
def scalarResult (t : Stream) : Instr → Option (Dst × Word × Nat)
  | .add d a b => some (.s d, t.sreg a + t.sreg b, 1)
  | .sub d a b => some (.s d, t.sreg a - t.sreg b, 1)
  | .and d a b => some (.s d, t.sreg a &&& t.sreg b, 1)
  | .or d a b => some (.s d, t.sreg a ||| t.sreg b, 1)
  | .xor d a b => some (.s d, t.sreg a ^^^ t.sreg b, 1)
  | .sll d a b => some (.s d, t.sreg a <<< ((t.sreg b).toNat % 64), 1)
  | .srl d a b => some (.s d, t.sreg a >>> ((t.sreg b).toNat % 64), 1)
  | .sra d a b => some (.s d, (t.sreg a).sshiftRight ((t.sreg b).toNat % 64), 1)
  | .slt d a b => some (.s d, if (t.sreg a).toInt < (t.sreg b).toInt then 1 else 0, 1)
  | .sltu d a b => some (.s d, if (t.sreg a).toNat < (t.sreg b).toNat then 1 else 0, 1)
  | .min d a b => some (.s d, if (t.sreg a).toInt ≤ (t.sreg b).toInt then t.sreg a else t.sreg b, 1)
  | .minu d a b => some (.s d, if (t.sreg a).toNat ≤ (t.sreg b).toNat then t.sreg a else t.sreg b, 1)
  | .max d a b => some (.s d, if (t.sreg b).toInt ≤ (t.sreg a).toInt then t.sreg a else t.sreg b, 1)
  | .maxu d a b => some (.s d, if (t.sreg b).toNat ≤ (t.sreg a).toNat then t.sreg a else t.sreg b, 1)
  | .mul d a b => some (.s d, BitVec.ofInt 64 ((t.sreg a).toInt * (t.sreg b).toInt), 3)
  | .mulh d a b => some (.s d, BitVec.ofInt 64 ((t.sreg a).toInt * (t.sreg b).toInt / (2 : Int) ^ 64), 3)
  | .mulhu d a b => some (.s d, BitVec.ofNat 64 ((t.sreg a).toNat * (t.sreg b).toNat / 2 ^ 64), 3)
  | .addi d a k => some (.s d, t.sreg a + k.signExtend 64, 1)
  | .andi d a k => some (.s d, t.sreg a &&& k.signExtend 64, 1)
  | .ori d a k => some (.s d, t.sreg a ||| k.signExtend 64, 1)
  | .xori d a k => some (.s d, t.sreg a ^^^ k.signExtend 64, 1)
  | .slli d a k => some (.s d, t.sreg a <<< k.val, 1)
  | .srli d a k => some (.s d, t.sreg a >>> k.val, 1)
  | .srai d a k => some (.s d, (t.sreg a).sshiftRight k.val, 1)
  | .slti d a k => some (.s d, if (t.sreg a).toInt < k.toInt then 1 else 0, 1)
  | .sltiu d a k => some (.s d, if (t.sreg a).toNat < (k.signExtend 64).toNat then 1 else 0, 1)
  | .li d k => some (.s d, BitVec.ofInt 64 k.toInt, 1)
  | .lsi d k => some (.s d, BitVec.ofNat 64 ((t.sreg d).toNat * 2 ^ 17 + k.toNat), 1)
  | .cmpeq c a b => some (.c c, if t.sreg a = t.sreg b then 1 else 0, 1)
  | .cmpne c a b => some (.c c, if t.sreg a ≠ t.sreg b then 1 else 0, 1)
  | .cmplt c a b => some (.c c, if (t.sreg a).toInt < (t.sreg b).toInt then 1 else 0, 1)
  | .cmpltu c a b => some (.c c, if (t.sreg a).toNat < (t.sreg b).toNat then 1 else 0, 1)
  | .cmpge c a b => some (.c c, if (t.sreg b).toInt ≤ (t.sreg a).toInt then 1 else 0, 1)
  | .cmpgeu c a b => some (.c c, if (t.sreg b).toNat ≤ (t.sreg a).toNat then 1 else 0, 1)
  | .cand c a b => some (.c c, if t.creg a = true ∧ t.creg b = true then 1 else 0, 1)
  | .cor c a b => some (.c c, if t.creg a = true ∨ t.creg b = true then 1 else 0, 1)
  | .cxor c a b => some (.c c, if t.creg a ≠ t.creg b then 1 else 0, 1)
  | .candn c a b => some (.c c, if t.creg a = true ∧ t.creg b = false then 1 else 0, 1)
  | _ => none

/-- R55 and Table 3.5 with w = 64: destination, result, and whether DZ is set. -/
def divideResult (t : Stream) : Instr → Option (SReg × Word × Bool)
  | .divs d a b => some (d,
      if t.sreg b = 0 then (if 0 ≤ (t.sreg a).toInt then 1 else BitVec.allOnes 64)
      else BitVec.ofInt 64 ((t.sreg a).toInt.tdiv (t.sreg b).toInt), decide (t.sreg b = 0))
  | .rems d a b => some (d, if t.sreg b = 0 then t.sreg a else BitVec.ofInt 64 ((t.sreg a).toInt.tmod (t.sreg b).toInt),
      decide (t.sreg b = 0))
  | .divn d a b => some (d, if t.sreg b = 0 then BitVec.allOnes 64 else t.sreg a / t.sreg b, decide (t.sreg b = 0))
  | .remn d a b => some (d, if t.sreg b = 0 then t.sreg a else t.sreg a % t.sreg b, decide (t.sreg b = 0))
  | _ => none

/-- What a class J register holds after `SRW` (R84): the low bits of its width, with its own floors. -/
def srwValue (n : SysReg) (v : Word) : Option Word :=
  match n with
  | .round => some (BitVec.ofNat 64 (v.toNat % 4))
  | .fflags => some (BitVec.ofNat 64 (v.toNat % 32))
  | .satfp => some (BitVec.ofNat 64 (v.toNat % 2))
  | .epc => some v
  | .ebr => some (v &&& 0xE00FFFFFFFFFFFFC)
  | .agebound => some (BitVec.ofNat 64 (max (v.toNat % 2 ^ 16) 64))
  | .leaselen => some (BitVec.ofNat 64 (max (v.toNat / 2 ^ 16 % 256) 1 * 2 ^ 16 + max (v.toNat % 2 ^ 16) 256))
  | .wdog => some (BitVec.ofNat 64 (max (v.toNat % 2 ^ 32) 1024))
  | _ => none

/-- R88: the b register of a transfer word, whether it transfers, and the register that `BTRL` links in. -/
def transferOf (t : Stream) : Instr → Option (BReg × Bool × Option SReg)
  | .btr b c => some (b, t.creg c, none)
  | .btrFalse b c => some (b, !t.creg c, none)
  | .btrAlways b => some (b, true, none)
  | .btrl l b c => some (b, t.creg c, some l)
  | .btrlFalse l b c => some (b, !t.creg c, some l)
  | .btrlAlways l b => some (b, true, some l)
  | _ => none

end Sys2Proof.Claims

/-- R79, R80, R83: each register word completes, with its result in flight for its latency, and nothing else of the machine changes
but the pc and the place it takes in the issue order. -/
def Obligations.ScalarWordsGiveTheirResult : Prop :=
  ∀ (s : State) (r : StreamRef) (c : Ctx) (i : Instr) (d : Dst) (v : Word) (lat : Nat),
    s.issuer r c → Claims.scalarResult (c.stream r.st) i = some (d, v, lat) →
    exec i s = .next ((s.withStream r c ((c.stream r.st).fly (s.place r) d v (.at (s.now + lat)))).completed r)

/-- R26, R81, R82, R55: a divide word leaves its stream with an interlocked result in flight, and with it the flag that joins `fflags` when
the result lands: DZ when the divisor is 0. That DZ joins it then, and not when the word issues, is the model's reading (log 29, DEDUCED). -/
def Obligations.DividesFollowTable35 : Prop :=
  ∀ (s : State) (r : StreamRef) (c : Ctx) (i : Instr) (d : SReg) (v : Word) (z : Bool),
    s.issuer r c → Claims.divideResult (c.stream r.st) i = some (d, v, z) →
    exec i s = .next ((s.withStream r c
      ((c.stream r.st).flyFlags (s.place r) (.s d) v (if z then fDZ else 0) .divider)).completed r)

/-- R26, R28, R29, R82, Table 2.1: a result in flight that lands is what its register then reads, and its flags join `fflags`; s0 still reads 0,
and no other register changes. Earlier results for the same register that are still in flight are discarded from then on: one that was
discarded lands without writing its register. Stated of the exposed landing (also of a vector word of a fixed latency: log 5), of the
interlocked one, and of that of a divide word, which lands after every earlier one of its core. -/
def Obligations.LandingWritesOneRegister : Prop :=
  ∀ (s : State) (r : StreamRef) (c : Ctx) (f : Flight),
    s.ctx r.ctx = some c → (c.stream r.st).flight.find? (fun g => g.seq == f.seq) = some f →
    (f.due = .interlocked ∨
      (f.due = .divider ∧ ∀ d ∈ s.ctxs, d.id.core = r.ctx.core → ∀ y, ∀ g ∈ (d.stream y).flight, g.due = .divider → f.seq ≤ g.seq) ∨
      ∃ n, (f.due = .at n ∨ f.due = .unit n) ∧ n ≤ s.now) →
    ∃ u : Stream,
      (if f.due = .interlocked ∨ f.due = .divider then exec (.interlockedResultLands r f.seq) s else exec (.exposedResultLands r f.seq) s) =
        .next (s.putCtx (c.putStream r.st u)) ∧
      u.sreg 0 = 0 ∧
      (∀ q : SReg, q ≠ 0 → u.sreg q = if f.dst = .s q ∧ f.dead = false then f.val else (c.stream r.st).sreg q) ∧
      (∀ q : BReg, u.breg q = if f.dst = .b q ∧ f.dead = false then f.val else (c.stream r.st).breg q) ∧
      (∀ q : CSlot, u.creg q = if f.dst = .c q ∧ f.dead = false then f.val != 0 else (c.stream r.st).creg q) ∧
      (∀ g ∈ u.flight, g.dst = f.dst → g.seq ≠ f.seq ∧ (g.seq < f.seq → f.dead = false → g.dead = true)) ∧
      u.pc = (c.stream r.st).pc ∧ u.fflags = (c.stream r.st).fflags ||| f.flags ∧ u.mode = (c.stream r.st).mode

/-- R84, R25: `SRR` reads the register, zero-extended, exposed in one cycle; only a read of `fflags` waits, while a vector word of the
stream has not completed (R85). That `vbusy` reads the same in every stream of the job is the model's choice (log 93); `pc` reads the
address of the next word (Table 2.3, log 48). `SRW` completes where the register is of class J: it then reads as R84 says, and no other
system register but the pc changes. R25, R84, R27: a job's `SRW` of a register that is not of class J is a privilege trap; that of
supervisor core 0 is ignored. -/
def Obligations.SystemRegistersReadAndWrite : Prop :=
  ((∀ (s : State) (r : StreamRef) (c : Ctx) (d : SReg) (n : SysReg),
    s.issuer r c → (n = .fflags → (∀ f ∈ (c.stream r.st).flight, f.vector = false) ∧ (r.st = .C → c.vxc = none)) →
    exec (.srr d n) s = .next ((s.withStream r c ((c.stream r.st).fly (s.place r) (.s d)
      (readSys s c (c.stream r.st) (c.stream r.st).advance.pc n) (.at (s.now + 1)))).completed r)) ∧
  (∀ (s : State) (r : StreamRef) (c : Ctx) (a : SReg) (n : SysReg) (v : Word),
    s.issuer r c → Claims.srwValue n ((c.stream r.st).sreg a) = some v →
    ∃ x : Ctx, exec (.srw a n) s = .next ((s.putCtx x).completed r) ∧ x.id = c.id ∧
      ∀ m pc, m ≠ .pc → readSys s x (x.stream r.st) pc m = if m = n then v else readSys s c (c.stream r.st) pc m)) ∧
  (∀ (s : State) (r : StreamRef) (c : Ctx) (a : SReg) (n : SysReg),
    s.issuer r c → Claims.srwValue n 0 = none →
    exec (.srw a n) s = .next (if r.ctx.core.isSup then (s.putCtx (s.placed r c)).completed r
      else trapWord (s.putCtx (s.placed r c)) r ⟨2, 0, 0, 0⟩))

/-- R88, R30: a transfer word that is no delay slot completes, and arranges for two delay slots: the second word after it is followed by
the target when it transfers, and by the third word when it does not. `BTRL` links the address of the word plus 12. -/
def Obligations.TransfersHaveTwoDelaySlots : Prop :=
  ∀ (s : State) (r : StreamRef) (c : Ctx) (i : Instr) (b : BReg) (taken : Bool) (link : Option SReg),
    s.issuer r c → (c.stream r.st).slots = 0 → Claims.transferOf (c.stream r.st) i = some (b, taken, link) →
    ∃ u : Stream, exec i s = .next ((s.withStream r c u).ended r) ∧
      u.pc = nextPc (c.stream r.st).pc ∧ u.slots = 2 ∧
      u.advance.pc = nextPc (nextPc (c.stream r.st).pc) ∧
      u.advance.advance.pc = (if taken then (c.stream r.st).breg b else nextPc (nextPc (nextPc (c.stream r.st).pc))) ∧
      u.advance.advance.slots = 0 ∧ u.advance.advance.xfer = none ∧
      u.flight = (match link with
        | some l => if taken then ((c.stream r.st).fly (s.place r) (.s l) ((c.stream r.st).pc + 12) (.at (s.now + 1))).flight
            else (c.stream r.st).flight
        | none => (c.stream r.st).flight) ∧
      (∀ q, u.sreg q = (c.stream r.st).sreg q) ∧ (∀ q, u.breg q = (c.stream r.st).breg q) ∧
      (∀ q, u.creg q = (c.stream r.st).creg q) ∧ u.fflags = (c.stream r.st).fflags

/-- R86: `BPT` and `BPTR` prepare their target, exposed in 2 cycles; a misaligned `BPTR` target is an alignment fault, a target with bits
[63:52] a translation fault, both with the target in `eaddr`. That a `BPTR` target of both kinds is an alignment fault is the model's choice:
R86 gives no order (log 93). -/
def Obligations.BranchTargetsArePrepared : Prop :=
  (∀ (s : State) (r : StreamRef) (c : Ctx) (b : BReg) (k : BitVec 17) (tgt : Word),
    s.issuer r c → tgt = (c.stream r.st).pc + (k.signExtend 64 <<< 2) →
    exec (.bpt b k) s = .next (if 2 ^ 52 ≤ tgt.toNat then trapWord (s.putCtx (s.placed r c)) r ⟨4, 0, 0, tgt.toNat⟩
      else (s.withStream r c ((c.stream r.st).fly (s.place r) (.b b) tgt (.at (s.now + 2)))).completed r)) ∧
  (∀ (s : State) (r : StreamRef) (c : Ctx) (b : BReg) (a : SReg) (k : BitVec 11) (tgt : Word),
    s.issuer r c → tgt = (c.stream r.st).sreg a + (k.signExtend 64 <<< 2) →
    exec (.bptr b a k) s = .next (if tgt.toNat % 4 ≠ 0 then trapWord (s.putCtx (s.placed r c)) r ⟨3, 0, 0, tgt.toNat⟩
      else if 2 ^ 52 ≤ tgt.toNat then trapWord (s.putCtx (s.placed r c)) r ⟨4, 0, 0, tgt.toNat⟩
      else (s.withStream r c ((c.stream r.st).fly (s.place r) (.b b) tgt (.at (s.now + 2)))).completed r))

/-- R91, Table 2.1: the votes on a predicate, in the C stream; p0 reads all ones, so `VANY cN, p0` writes 1. In another stream a vote is an
illegal word with reason 3. -/
def Obligations.VotesCountEveryLane : Prop :=
  (∀ (s : State) (r : StreamRef) (c : Ctx) (d : CSlot) (p : PReg), s.issuer r c → r.st = .C →
    exec (.vany d p) s = .next ((s.withStream r c ((c.stream r.st).fly (s.place r) (.c d)
      (if p = 0 ∨ (List.range 64).any (fun j => (c.p.get p).getLsbD j) = true then 1 else 0) (.at (s.now + 1)))).completed r) ∧
    exec (.vall d p) s = .next ((s.withStream r c ((c.stream r.st).fly (s.place r) (.c d)
      (if p = 0 ∨ (List.range 64).all (fun j => (c.p.get p).getLsbD j) = true then 1 else 0) (.at (s.now + 1)))).completed r)) ∧
  (∀ (s : State) (r : StreamRef) (c : Ctx) (d : CSlot) (p : PReg), s.issuer r c → r.st ≠ .C →
    exec (.vany d p) s = .next (trapWord (s.putCtx (s.placed r c)) r ⟨1, 3 * 64 + 0x28, 0, 0⟩) ∧
    exec (.vall d p) s = .next (trapWord (s.putCtx (s.placed r c)) r ⟨1, 3 * 64 + 0x29, 0, 0⟩))

/-- R104, R99, R101, R102: `NOP` and `FENCE` only complete (each access is performed in the step of its word: log 3); `RDTIME` gives the
time; `WAITT` completes when the time has come, and else waits for its deadline. R102: a stream in `WAITT` goes on when the time has come,
unless its job is stopped. -/
def Obligations.NopFenceAndTimeWords : Prop :=
  (∀ (s : State) (r : StreamRef) (c : Ctx), s.issuer r c →
    exec .nop s = .next ((s.putCtx (s.placed r c)).completed r) ∧
    (∀ k sc, exec (.fence k sc) s = .next ((s.putCtx (s.placed r c)).completed r)) ∧
    (∀ d, exec (.rdtime d) s = .next ((s.withStream r c ((c.stream r.st).fly (s.place r) (.s d) (readTime s)
      (.at (s.now + 1)))).completed r)) ∧
    (∀ a, ((c.stream r.st).sreg a).toNat ≤ (readTime s).toNat → exec (.waitt a) s = .next ((s.putCtx (s.placed r c)).completed r)) ∧
    (∀ a, (readTime s).toNat < ((c.stream r.st).sreg a).toNat → exec (.waitt a) s =
      .next ((s.withStream r c { c.stream r.st with run := .waitt ((c.stream r.st).sreg a) }).ended r))) ∧
  (∀ (s : State) (r : StreamRef) (c : Ctx) (dl : Word), s.ctx r.ctx = some c → (c.stream r.st).run = .waitt dl →
    (c.stream r.st).stopped = false → jobRuns c = true → dl.toNat ≤ s.hub.tmNow.toNat →
    exec (.waittDeadline r) s = .next ((s.putCtx (c.putStream r.st (c.stream r.st).advance)).ended r))

/-- R103: `TRAP code` takes a precise trap with cause 18, detail `code` and `eaddr` 0, at the word's own address. In job mode it goes to the
job's handler; in supervisor mode it goes to the supervisor, and the job stays stopped; `epc` holds the word's address. -/
def Obligations.TrapWordTrapsWithItsCode : Prop :=
  ∀ (s : State) (r : StreamRef) (c : Ctx) (k : BitVec 16), s.issuer r c →
    exec (.trap k) s = .next (takeTrap (s.putCtx (s.placed r c)) r ⟨18, k.toNat, 0, 0⟩ (c.stream r.st).pc false) ∧
    (c.frozen = false → r.ctx.core.isSup = false → (c.stream r.st).run.live = true → (c.stream r.st).stopped = false →
      ((c.stream .C).mode = false → c.card.handler ≠ 0 → ∃ y : Ctx, exec (.trap k) s = .next (s.putCtx y) ∧ y.id = c.id ∧
        (y.stream .C).pc = BitVec.ofNat 64 (c.card.handler.toNat % 2 ^ 52 / 4 * 4) ∧ (y.stream .C).mode = true ∧ (y.stream r.st).epc = (c.stream r.st).pc ∧
        (y.stream r.st).ecause = BitVec.ofNat 64 (k.toNat * 2 ^ 16 + 18) ∧ (y.stream r.st).eaddr = 0) ∧
      ((c.stream .C).mode = true → ∃ y : Ctx, exec (.trap k) s = .next (faultDomain (s.putCtx y) c.card.fdom) ∧ y.id = c.id ∧
        y.atSup = true ∧ (y.stream r.st).stopped = true ∧ (y.stream r.st).epc = (c.stream r.st).pc ∧
        (y.stream r.st).ecause = BitVec.ofNat 64 (k.toNat * 2 ^ 16 + 18) ∧ (y.stream r.st).eaddr = 0))

/-! ## Loads, stores and atomics (R92-R98) -/

namespace Sys2Proof.Claims

/-- Table 5.3: destination, base, offset, bytes, sign extension, and whether it may reach a device page. -/
def loadForm : Instr → Option (SReg × SReg × BitVec 11 × Nat × Bool × Bool)
  | .lb d a o => some (d, a, o, 1, true, false)
  | .lbu d a o => some (d, a, o, 1, false, false)
  | .lh d a o => some (d, a, o, 2, true, false)
  | .lhu d a o => some (d, a, o, 2, false, false)
  | .lw d a o => some (d, a, o, 4, true, false)
  | .lwu d a o => some (d, a, o, 4, false, false)
  | .ld d a o => some (d, a, o, 8, false, true)
  | _ => none

/-- Value register, base, offset, bytes, and whether it may reach a device page. -/
def storeForm : Instr → Option (SReg × SReg × BitVec 11 × Nat × Bool)
  | .sb v a o => some (v, a, o, 1, false)
  | .sh v a o => some (v, a, o, 2, false)
  | .sw v a o => some (v, a, o, 4, false)
  | .sd v a o => some (v, a, o, 8, true)
  | _ => none

/-- The value that a load delivers of its bytes. -/
def extended (sx : Bool) (bs : List Byte) : Word :=
  if sx then (BitVec.ofNat (8 * bs.length) (leValue bs)).signExtend 64 else BitVec.ofNat 64 (leValue bs)

/-- The address of a load or store (R92). -/
def addressOf (t : Stream) (a : SReg) (o : BitVec 11) : Nat := (t.sreg a + o.signExtend 64).toNat

/-- No byte of an access is one that an adjoint mode treats apart: none in a D-region, or a load in primal or record mode. -/
def plainLoad (c : Ctx) (va n : Nat) : Prop :=
  c.dmode = 0 ∨ (∀ x ∈ c.dregs, x.touches va n = false)

/-- An atomic: the address register, the destination, bytes, the new bytes for the old ones (none: nothing is written), and the words it
returns. -/
def atomicForm (t : Stream) : Instr → Option (SReg × SReg × Nat × (Nat → Option Nat) × Bool)
  | .amow d a b o => some (a, d, 4, fun old => some (amoValue o 4 old ((t.sreg b).toNat % 2 ^ 32)), true)
  | .amod d a b o => some (a, d, 8, fun old => some (amoValue o 8 old (t.sreg b).toNat), false)
  | .casw d a b => some (a, d, 4, fun old => if old = (t.sreg d).toNat % 2 ^ 32 then some ((t.sreg b).toNat % 2 ^ 32) else none, true)
  | .casd d a b => some (a, d, 8, fun old => if old = (t.sreg d).toNat then some (t.sreg b).toNat else none, false)
  | _ => none

/-- The word of a stream as its access is made: its state, and itself as an agent. -/
def accessState (s : State) (r : StreamRef) (c : Ctx) : State := s.putCtx (s.placed r c)
def accessWho (s : State) (r : StreamRef) (c : Ctx) : Who := whoStream (accessState s r c) (s.placed r c) r.st

end Sys2Proof.Claims

/-- R92, R93, Table 5.3: a load whose bytes are readable completes, with the value of the table interlocked. -/
def Obligations.LoadsDeliverTheirBytes : Prop :=
  (∀ (s u : State) (r : StreamRef) (c : Ctx) (i : Instr) (d a : SReg) (o : BitVec 11) (n : Nat) (sx dev : Bool) (bs : List Byte),
    s.issuer r c → Claims.loadForm i = some (d, a, o, n, sx, dev) →
    Claims.plainLoad c (Claims.addressOf (c.stream r.st) a o) n →
    loadVirt (Claims.accessState s r c) (Claims.accessWho s r c) .load dev (Claims.addressOf (c.stream r.st) a o) n = .ok (bs, u) →
    exec i s = .next ((u.putStream r ((c.stream r.st).fly (s.place r) (.s d) (Claims.extended sx bs) .interlocked)).completed r)) ∧
  (∀ (s u : State) (r : StreamRef) (c : Ctx) (d a : SReg) (o : BitVec 11) (bs : List Byte),
    s.issuer r c → Claims.plainLoad c (Claims.addressOf (c.stream r.st) a o) 16 →
    loadVirt (Claims.accessState s r c) (Claims.accessWho s r c) .load false (Claims.addressOf (c.stream r.st) a o) 16 = .ok (bs, u) →
    exec (.lq d a o) s = .next ((u.putStream r
      (((c.stream r.st).fly (s.place r) (.s d) (BitVec.ofNat 64 (leValue (bs.take 8))) .interlocked).fly (s.place r) (.s (d + 1))
        (BitVec.ofNat 64 (leValue (bs.drop 8))) .interlocked)).completed r))

/-- R92, R93: a store whose bytes are writable completes; the bytes stored are the low ones of its registers, at its address, and no
register changes. -/
def Obligations.StoresWriteTheirBytes : Prop :=
  (∀ (s u : State) (r : StreamRef) (c : Ctx) (i : Instr) (v a : SReg) (o : BitVec 11) (n : Nat) (dev : Bool),
    s.issuer r c → Claims.storeForm i = some (v, a, o, n, dev) →
    Claims.plainLoad c (Claims.addressOf (c.stream r.st) a o) n →
    storeVirt (Claims.accessState s r c) (Claims.accessWho s r c) .store dev (Claims.addressOf (c.stream r.st) a o)
      (leBytes n ((c.stream r.st).sreg v).toNat) = .ok u →
    exec i s = .next (u.completed r)) ∧
  (∀ (s u : State) (r : StreamRef) (c : Ctx) (v a : SReg) (o : BitVec 11),
    s.issuer r c → Claims.plainLoad c (Claims.addressOf (c.stream r.st) a o) 16 →
    storeVirt (Claims.accessState s r c) (Claims.accessWho s r c) .store false (Claims.addressOf (c.stream r.st) a o)
      (leBytes 8 ((c.stream r.st).sreg v).toNat ++ leBytes 8 ((c.stream r.st).sreg (v + 1)).toNat) = .ok u →
    exec (.sq v a o) s = .next (u.completed r))

/-- R239, R4, R96, R247: what an access of a page that is no device page reads and writes: the bytes of its pieces, in order, and nothing but
memory changes. One of 8 bytes of a device page reads or writes HBM itself, or a hub register (at an offset that names none it reads zero and
writes nothing: log 27), or writes host memory (a read of it completes with a value that is not stated: log 23); any other access of a device
page, one that is not aligned whichever page it begins in, is an alignment fault, and one outside the windows, or of an ordinary page beyond HBM,
a protection fault (that the windows bound every access so is the model's reading: log 31). An atomic pair reads its bytes, and writes the new
ones in their place where there are any; but for memory, only the clocks of the race checker change. -/
def Obligations.AccessesMoveTheirPieces : Prop :=
  (∀ (s : State) (w : Who) (k : Kind) (dev : Bool) (va : Nat) (bs : List Byte) (m : MemSt) (ps : List Piece),
    checkAccess s.mem s.hub s.free w k dev va bs.length = .ok (m, ps) → (∀ p ∈ ps, p.leaf.dev = false) →
    loadVirt s w k dev va bs.length = .ok ((readPieces m w k ps).1, s.setMem (readPieces m w k ps).2) ∧
    storeVirt s w k dev va bs = .ok (s.setMem (writePieces m w k ps bs)) ∧
    m.hbm = s.mem.hbm ∧ m.dieLines = s.mem.dieLines ∧ (ps.map fun p => p.len).sum = bs.length) ∧
  (∀ (s : State) (w : Who) (k : Kind) (va : Nat) (bs : List Byte) (m : MemSt) (p : Piece),
    bs.length = 8 → checkAccess s.mem s.hub s.free w k true va 8 = .ok (m, [p]) → p.leaf.dev = true →
    (p.pa < 2 ^ 39 → loadVirt s w k true va 8 = .ok (hbmGets s.mem p.key p.pa 8, s.setMem m) ∧
      storeVirt s w k true va bs = .ok (s.setMem (hbmSets m p.key p.pa bs))) ∧
    (0x3FFFFFFF0000 ≤ p.pa → p.pa < 0x400000000000 →
      loadVirt s w k true va 8 = .ok (leBytes 8 (hubRead s (p.pa - 0x3FFFFFFF0000)).toNat, s.setMem m) ∧
      storeVirt s w k true va bs = .ok (hubWrite (s.setMem m) (p.pa - 0x3FFFFFFF0000) (BitVec.ofNat 64 (leValue bs)) false)) ∧
    (0x200000000000 ≤ p.pa → p.pa < 0x300000000000 →
      (∃ v, loadVirt s w k true va 8 = .ok (leBytes 8 v, s.setMem m)) ∧
      storeVirt s w k true va bs =
        .ok (s.setMem { m with hostWrites := m.hostWrites ++ [(p.pa - 0x200000000000, BitVec.ofNat 64 (leValue bs))] }))) ∧
  (∀ (s : State) (w : Who) (k : Kind) (dev : Bool) (va len : Nat) (m : MemSt) (l : Leaf) (pa : Nat),
    translate s.mem s.hub s.free w va = .ok (m, some l) → l.dev = true → w.region = none → (k.writes = true → l.w = true) →
    (k = .fetch → l.x = true) → pa = l.pa + va % l.size →
    checkPiece s.mem s.hub s.free w k dev va len =
      (if (2 ^ 39 ≤ pa ∧ pa < 0x200000000000) ∨ (0x300000000000 ≤ pa ∧ pa < 0x3FFFFFFF0000) ∨ 0x400000000000 ≤ pa then .fail 5 0 va
       else if dev = false ∨ va % 8 ≠ 0 then .fail 3 0 va
       else checkPiece s.mem s.hub s.free w k dev va len)) ∧
  (∀ (s : State) (w : Who) (k : Kind) (va len : Nat), va % 8 ≠ 0 →
    checkAccess s.mem s.hub s.free w k true va len = checkAccess s.mem s.hub s.free w k false va len) ∧
  (∀ (s : State) (w u : Who) (va n : Nat) (f : List Byte → Option (List Byte)) (m : MemSt) (ps : List Piece) (old : List Byte),
    u = { w with clk := Clock.join w.clk (atomAcquire s w va n) } → checkAccess s.mem s.hub s.free u .atomic false va n = .ok (m, ps) →
    old = (readPieces m u .atomic ps).1 →
    ∃ t : State, atomicVirt s w va n f = .ok (old, t) ∧ t.hub = s.hub ∧ t.cores = s.cores ∧ t.router = s.router ∧ t.graphs = s.graphs ∧
      (∀ x c, s.ctx x = some c → ∃ d, t.ctx x = some d ∧ d.v = c.v ∧ d.handles = c.handles ∧
        (∀ i, { d.stream i with clk := [] } = { c.stream i with clk := [] })) ∧
      match f old with
      | some bs => t.mem.hbm = (writePieces m u .atomic ps bs).hbm ∧ t.mem.dieLines = (writePieces m u .atomic ps bs).dieLines
      | none => t.mem.hbm = m.hbm)

/-- R4, R239, R208: in canonical memory a piece that is written reads as written, through the same page by the same agent; of HBM every byte
outside it reads as before through the key of the access, and through every key where its line is not stored to. R239: a write to a
die-private page that is not written through (Table 13.10) stays in the die's copies: HBM is unchanged, no other die reads otherwise, and
the die reads what was written. -/
def Obligations.WrittenBytesReadBack : Prop :=
  (∀ (m : MemSt) (w : Who) (k : Kind) (p : Piece) (bs : List Byte), Memory.wf m.hbm = true → bs.length = p.len →
    (p.leaf.direct = true ∨ w.die = none) →
    readPiece (writePiece m w k p bs) w p = bs ∧
    (∀ a, a < p.pa ∨ p.pa + p.len ≤ a → hbmByte (writePiece m w k p bs) p.key a = hbmByte m p.key a) ∧
    (∀ key a, a / 128 < p.pa / 128 ∨ (p.pa + p.len + 127) / 128 ≤ a / 128 → hbmByte (writePiece m w k p bs) key a = hbmByte m key a) ∧
    (writePiece m w k p bs).dieLines = m.dieLines) ∧
  (∀ (m : MemSt) (w : Who) (k : Kind) (p : Piece) (bs : List Byte) (d : Die), p.leaf.direct = false → p.leaf.through = false →
    w.die = some d →
    (writePiece m w k p bs).hbm = m.hbm ∧
    (∀ key a, hbmByte (writePiece m w k p bs) key a = hbmByte m key a) ∧
    (∀ e key a, e ≠ d → dieByte (writePiece m w k p bs) e key a = dieByte m e key a) ∧
    ((∀ x ∈ m.dieLines, x.bytes.length = 128) → bs.length = p.len → readPiece (writePiece m w k p bs) w p = bs))

/-- R96-R98: an atomic at an aligned, accessible address that no adjoint mode treats apart completes: memory receives the new value where
the operation writes one, and the old value comes back interlocked, sign-extended from a 32-bit operand. -/
def Obligations.AtomicsReturnTheOldValue : Prop :=
  (∀ (s u : State) (r : StreamRef) (c : Ctx) (i : Instr) (a d : SReg) (n : Nat) (f : Nat → Option Nat) (sx : Bool) (old : List Byte)
    (va : Nat),
    s.issuer r c → Claims.atomicForm (c.stream r.st) i = some (a, d, n, f, sx) → va = ((c.stream r.st).sreg a).toNat → va % n = 0 →
    Claims.plainLoad c va n →
    atomicVirt (Claims.accessState s r c) (Claims.accessWho s r c) va n (fun b => (f (leValue b)).map (leBytes n)) = .ok (old, u) →
    exec i s = .next ((u.mapStream r fun t => t.fly (s.place r) (.s d) (Claims.extended sx old) .interlocked).completed r)) ∧
  (∀ (s u : State) (r : StreamRef) (c : Ctx) (d a b : SReg) (old : List Byte) (va e x : Nat),
    s.issuer r c → va = ((c.stream r.st).sreg a).toNat → va % 16 = 0 → Claims.plainLoad c va 16 →
    e = ((c.stream r.st).sreg d).toNat + ((c.stream r.st).sreg (d + 1)).toNat * 2 ^ 64 →
    x = ((c.stream r.st).sreg b).toNat + ((c.stream r.st).sreg (b + 1)).toNat * 2 ^ 64 →
    atomicVirt (Claims.accessState s r c) (Claims.accessWho s r c) va 16
      (fun o => if leValue o = e then some (leBytes 16 x) else none) = .ok (old, u) →
    exec (.casq d a b) s = .next ((u.mapStream r fun t =>
      (t.fly (s.place r) (.s d) (BitVec.ofNat 64 (leValue (old.take 8))) .interlocked).fly (s.place r) (.s (d + 1))
        (BitVec.ofNat 64 (leValue (old.drop 8))) .interlocked).completed r))

/-- R87: `BJT` reads the length of the table at a, then the entry of the index, or the one after the last; the target is the table's
address plus 4 × that offset, interlocked. That these reads are plain ones in every adjoint mode is the model's choice (log 93). -/
def Obligations.JumpTablesGiveTheTarget : Prop :=
  ∀ (s u v : State) (r : StreamRef) (c : Ctx) (b : BReg) (a j : SReg) (base : Word) (n e : Nat) (bs es : List Byte) (tgt : Word),
    s.issuer r c → base = (c.stream r.st).sreg a → base.toNat % 4 = 0 →
    loadVirt (Claims.accessState s r c) (Claims.accessWho s r c) .load false base.toNat 4 = .ok (bs, u) → n = leValue bs →
    e = (if ((c.stream r.st).sreg j).toNat < n then ((c.stream r.st).sreg j).toNat + 1 else n + 1) →
    loadVirt u (Claims.accessWho s r c) .load false (base + BitVec.ofNat 64 (4 * e)).toNat 4 = .ok (es, v) →
    tgt = base + ((BitVec.ofNat 32 (leValue es)).signExtend 64 <<< 2) → tgt.toNat < 2 ^ 52 →
    exec (.bjt b a j) s = .next ((v.putStream r ((c.stream r.st).fly (s.place r) (.b b) tgt .interlocked)).completed r)

/-! ## Exceptions and privilege (R27, R58, R205, R206, R223-R225) -/

/-- R223-R225, R31: an exception of a job whose handler takes it: the C stream enters the handler in supervisor mode; each live stream
stops at its word, its exposed results and its vector words completed, its resume point recorded; the trapping stream and the C stream hold
the cause, `tinfo` the word's place. -/
def Obligations.TrapEntersTheHandler : Prop :=
  ∀ (s : State) (r : StreamRef) (x : Ctx) (k : Cause) (pc : Word) (qcmd : Bool),
    s.ctx r.ctx = some x → x.frozen = false → r.ctx.core.isSup = false → (x.stream .C).mode = false → x.card.handler ≠ 0 →
    k.code ≠ 13 → k.code ≠ 14 →
    ∃ y : Ctx, takeTrap s r k pc qcmd = s.putCtx y ∧ y.id = x.id ∧
      (y.stream .C).pc = BitVec.ofNat 64 (x.card.handler.toNat % 2 ^ 52 / 4 * 4) ∧ (y.stream .C).mode = true ∧ (y.stream .C).xfer = none ∧ (y.stream .C).slots = 0 ∧
      (y.stream .C).run = .run ∧ (y.stream .C).stopped = false ∧
      (y.stream .C).ecause = ecauseWord k ∧ (y.stream .C).eaddr = BitVec.ofNat 64 k.eaddr ∧
      (y.stream r.st).ecause = ecauseWord k ∧ (y.stream r.st).eaddr = BitVec.ofNat 64 k.eaddr ∧
      y.tinfo = tinfoWord qcmd r.st pc ∧
      (∀ i, (x.stream i).run.live = true → (x.stream i).stopped = false →
        (y.stream i).epc = (x.stream i).pc ∧ (y.stream i).ebr = (x.stream i).ebrWord ∧ (i ≠ .C → (y.stream i).stopped = true)) ∧
      (∀ i, (y.stream i).fflags =
        (if (x.stream i).run.live && !(x.stream i).stopped then (x.stream i).landExposed.fflags else (x.stream i).fflags)) ∧ y.v = x.v ∧ y.p = x.p ∧ y.g = x.g ∧ y.handles = x.handles ∧ y.cmds = x.cmds ∧
      y.status = x.status ∧ y.atSup = x.atSup

/-- R27, R225, R252: a cause 13 or 14, one raised in supervisor mode, or one of a job without a handler goes to the supervisor: the job
stays stopped, its cause recorded, and the graphs of its fault domain leave state 2. R249, R327: an exception of supervisor core 0's C
stream enters `hub.strap` in supervisor mode, the resume point recorded; one before the last is taken up is a fatal error. -/
def Obligations.TrapsGoToTheSupervisor : Prop :=
  (∀ (s : State) (r : StreamRef) (x : Ctx) (k : Cause) (pc : Word) (qcmd : Bool),
    s.ctx r.ctx = some x → x.frozen = false → r.ctx.core.isSup = false →
    (k.code = 13 ∨ k.code = 14 ∨ (x.stream .C).mode = true ∨ x.card.handler = 0) →
    ∃ y : Ctx, takeTrap s r k pc qcmd = faultDomain (s.putCtx y) x.card.fdom ∧ y.id = x.id ∧ y.atSup = true ∧
      (y.stream r.st).ecause = ecauseWord k ∧ (y.stream .C).ecause = ecauseWord k ∧ y.tinfo = tinfoWord qcmd r.st pc ∧
      (∀ i, (x.stream i).run.live = true → (x.stream i).stopped = false →
        (y.stream i).epc = (x.stream i).pc ∧ (y.stream i).ebr = (x.stream i).ebrWord ∧ (y.stream i).stopped = true)) ∧
  (∀ (s : State) (r : StreamRef) (x : Ctx) (k : Cause) (pc : Word) (qcmd : Bool),
    s.ctx r.ctx = some x → x.frozen = false → r.ctx.core.isSup = true → r.st = .C →
    (x.untaken = true → takeTrap s r k pc qcmd = fatalError s true) ∧
    (x.untaken = false → (x.stream .C).run.live = true → (x.stream .C).stopped = false →
      ∃ y : Ctx, takeTrap s r k pc qcmd = s.putCtx y ∧ y.untaken = true ∧
        (y.stream .C).pc = BitVec.ofNat 64 (s.hub.strap.toNat % 2 ^ 52 / 4 * 4) ∧ (y.stream .C).mode = true ∧ (y.stream .C).epc = (x.stream .C).pc ∧
        (y.stream .C).ebr = (x.stream .C).ebrWord ∧ (y.stream .C).ecause = ecauseWord k ∧
        (y.stream .C).eaddr = BitVec.ofNat 64 k.eaddr ∧ (y.stream .C).xfer = none ∧ (y.stream .C).slots = 0))

/-- R206, R31: `ERET` in a handler: the C stream goes on at `epc` in job mode, with the transfer that `ebr` holds; every stream that the
trap stopped goes on at its own; on supervisor core 0 the mode stays. -/
def Obligations.EretResumesWhatTheTrapStopped : Prop :=
  ∀ (s : State) (r : StreamRef) (c : Ctx), s.issuer r c → r.st = .C → (c.stream .C).mode = true → badResume c = false →
    ∃ y : Ctx, exec .eret s = .next ((s.putCtx y).ended r) ∧ y.id = c.id ∧
      (y.stream .C).pc = BitVec.ofNat 64 ((c.stream .C).epc.toNat % 2 ^ 52 / 4 * 4) ∧
      (y.stream .C).run = .run ∧ (y.stream .C).mode = r.ctx.core.isSup ∧
      ((c.stream .C).ebr.getLsbD 63 = false → (y.stream .C).xfer = none ∧ (y.stream .C).slots = 0) ∧
      ((c.stream .C).ebr.getLsbD 63 = true →
        (y.stream .C).xfer = some (BitVec.ofNat 64 ((c.stream .C).ebr.toNat % 2 ^ 52 / 4 * 4)) ∧
        (y.stream .C).slots = (c.stream .C).ebr.toNat / 2 ^ 61 % 4) ∧
      (∀ i, i ≠ .C → r.ctx.core.isSup = false → (c.stream i).stopped = true →
        (y.stream i).stopped = false ∧ (y.stream i).pc = BitVec.ofNat 64 ((c.stream i).epc.toNat % 2 ^ 52 / 4 * 4)) ∧
      (∀ i, i ≠ .C → (c.stream i).stopped = false → y.stream i = c.stream i)

/-- R205, R58: a K word outside the C stream is an illegal word with reason 3; in the C stream with `mode` 0 it is a privilege trap; in a
handler of a G-core or X-core every K word but `ERET`, `CSRR` and `CSRW` is one. R58, R210, Table 4.8: a V word outside the C stream is an
illegal word with reason 3; an A word on a core of the wrong kind is one with reason 4. -/
def Obligations.WordsKeepToTheirPlace : Prop :=
  (∀ (s : State) (r : StreamRef) (c : Ctx) (i : Instr), s.issuer r c → i.engine = 7 →
    (r.st ≠ .C → exec i s = .next (trapWord (s.putCtx (s.placed r c)) r (illegal i 3))) ∧
    (r.st = .C → (c.stream r.st).mode = false → exec i s = .next (trapWord (s.putCtx (s.placed r c)) r ⟨2, 0, 7, 0⟩)) ∧
    (r.st = .C → (c.stream r.st).mode = true → r.ctx.core.isSup = false → i.handlerWord = false →
      exec i s = .next (trapWord (s.putCtx (s.placed r c)) r ⟨2, 0, 7, 0⟩))) ∧
  (∀ (s : State) (r : StreamRef) (c : Ctx) (i : Instr), s.issuer r c →
    (i.engine = 1 → r.st ≠ .C → exec i s = .next (trapWord (s.putCtx (s.placed r c)) r (illegal i 3))) ∧
    (i.engine = 2 → wrongCore r.ctx.core i = true → (∀ op fn a b, i ≠ .uopArr op fn a b) → (∀ k v, i ≠ .uopSet k v) →
      (∀ k a v, i ≠ .uopAdd k a v) → (∀ k t, i ≠ .uopLoop k t) → i ≠ .uopSafe → i ≠ .uopEnd →
      exec i s = .next (trapWord (s.putCtx (s.placed r c)) r (illegal i 4))))

/-! ## Vector unit (spec/06_vector_unit.md) -/

namespace Sys2Proof.Claims

/-- An arithmetic element: `ff` on the values of a float view, rounded and flagged by R37; `fi` on the bits of an integer view. -/
def arith (t : VType) (st : Stream) (ff : Machine.Num → Machine.Num → Machine.Num × FFlags) (fi : Nat → Nat → Nat) (x y : Nat) : Nat × FFlags :=
  match viewFmt t with
  | some f => f.fin st (ff (f.arg x) (f.arg y))
  | none => (fi x y, 0)

/-- Table 6.2 and Table 6.3: destination, sources, view, predicate, zeroing, and the new bits of an element for those of the destination and
the sources (a word of one source names it twice). -/
def elementRule (st : Stream) : Instr → Option (VReg × VReg × VReg × VType × PReg × Bool × (Nat → Nat → Nat → Nat × FFlags))
  | .vadd d a b t p z => some (d, a, b, t, p, z, fun _ x y => arith t st (Machine.Num.add (rmOf st.round)) (fun x y => (x + y) % 2 ^ t.width) x y)
  | .vsub d a b t p z => some (d, a, b, t, p, z, fun _ x y =>
      arith t st (fun m n => Machine.Num.add (rmOf st.round) m n.neg) (fun x y => (x + (2 ^ t.width - y)) % 2 ^ t.width) x y)
  | .vmul d a b t p z => some (d, a, b, t, p, z, fun _ x y => arith t st Machine.Num.mul (fun x y => x * y % 2 ^ t.width) x y)
  | .vmin d a b t p z => some (d, a, b, t, p, z, fun _ x y => elemMin true t x y)
  | .vmax d a b t p z => some (d, a, b, t, p, z, fun _ x y => elemMin false t x y)
  | .vfma d a b t p z => some (d, a, b, t, p, z, fun o x y => match viewFmt t with
      | some f => f.fin st (Machine.Num.fma (rmOf st.round) (f.arg x) (f.arg y) (f.arg o))
      | none => (o, 0))
  | .vfms d a b t p z => some (d, a, b, t, p, z, fun o x y => match viewFmt t with
      | some f => f.fin st (Machine.Num.fma (rmOf st.round) (f.arg x) (f.arg y) (f.arg o).neg)
      | none => (o, 0))
  | .vabs d a t p z => some (d, a, a, t, p, z, fun _ x _ => (elemAbs t x, 0))
  | .vneg d a t p z => some (d, a, a, t, p, z, fun _ x _ => (elemNeg t x, 0))
  | .vdiv d a b t p z => some (d, a, b, t, p, z, fun _ x y => ((elemDiv t st x y).1, (elemDiv t st x y).2.2))
  | .vrem d a b t p z => some (d, a, b, t, p, z, fun _ x y => ((elemDiv t st x y).2.1, (elemDiv t st x y).2.2))
  | .vsqrt d a t p z => some (d, a, a, t, p, z, fun _ x _ => correct t (Machine.Num.sqrt 128) st x)
  | .vrcp d a t p z => some (d, a, a, t, p, z, fun _ x _ => correct t Machine.Num.rcp st x)
  | .vrsq d a t p z => some (d, a, a, t, p, z, fun _ x _ => correct t Machine.Num.rsq st x)
  | .vexp2 d a t p z => some (d, a, a, t, p, z, fun _ x _ => faithful Machine.Num.exp2 st x)
  | .vlog2 d a t p z => some (d, a, a, t, p, z, fun _ x _ => faithful Machine.Num.log2 st x)
  | .vsin d a t p z => some (d, a, a, t, p, z, fun _ x _ => faithful Machine.Num.sinTurn st x)
  | .vcos d a t p z => some (d, a, a, t, p, z, fun _ x _ => faithful Machine.Num.cosTurn st x)
  | .vtanh d a t p z => some (d, a, a, t, p, z, fun _ x _ => faithful Machine.Num.tanh st x)
  | .vand d a b t p z => some (d, a, b, t, p, z, fun _ x y => (x &&& y, 0))
  | .vor d a b t p z => some (d, a, b, t, p, z, fun _ x y => (x ||| y, 0))
  | .vxor d a b t p z => some (d, a, b, t, p, z, fun _ x y => (x ^^^ y, 0))
  | .vsll d a b t p z => some (d, a, b, t, p, z, fun _ x y => (x <<< (y % t.width), 0))
  | .vsrl d a b t p z => some (d, a, b, t, p, z, fun _ x y => (x >>> (y % t.width), 0))
  | .vsra d a b t p z => some (d, a, b, t, p, z, fun _ x y => (wrapN t.width (sextN t.width x / 2 ^ (y % t.width)), 0))
  | .vmov d a t p z => some (d, a, a, t, p, z, fun _ x _ => (x, 0))
  | _ => none

/-- A compare: destination, sources, view, predicate, and the relation of an element with its flags (R114). -/
def compareRule : Instr → Option (PReg × VReg × VReg × VType × PReg × (Nat → Nat → Bool × FFlags))
  | .vcmpeq d a b t p => some (d, a, b, t, p, vrel t true Machine.Num.eq fun x y => decide (x = y))
  | .vcmplt d a b t p => some (d, a, b, t, p, vrel t false Machine.Num.lt fun x y => decide (x < y))
  | .vcmple d a b t p => some (d, a, b, t, p, vrel t false (fun x y => x.lt y || x.eq y) fun x y => decide (x ≤ y))
  | .vcmpun d a b t p => some (d, a, b, t, p, vrel t true (fun x y => x.isNan || y.isNan) fun _ _ => false)
  | _ => none

/-- The elements of a view that lie in lane `l`, or that it lies in. -/
def laneElems (w l : Nat) : List Nat := if w = 64 then [l / 2] else (List.range (32 / w)).map fun k => l * (32 / w) + k

/-- A predicate word: destination and value. -/
def predicateRule (c : Ctx) : Instr → Option (PReg × BitVec 64)
  | .vpand d a b => some (d, c.preg a &&& c.preg b)
  | .vpor d a b => some (d, c.preg a ||| c.preg b)
  | .vpxor d a b => some (d, c.preg a ^^^ c.preg b)
  | .vpnot d a => some (d, ~~~ c.preg a)
  | _ => none

/-- A reduction: destination, source, view, predicate, zeroing, fold (R119). -/
def foldRule : Instr → Option (VReg × VReg × VType × PReg × Bool × Fold)
  | .vredadd d a t p z => some (d, a, t, p, z, .add)
  | .vredmax d a t p z => some (d, a, t, p, z, .max)
  | .vredmin d a t p z => some (d, a, t, p, z, .min)
  | _ => none

/-- The fold of the active elements below `n`, ascending, with its flags. -/
def foldBelow (g : Fold) (t : VType) (st : Stream) (p : BitVec 64) (x : BitVec 2048) (n : Nat) : Nat × FFlags :=
  ((List.range n).filter (vactive p t.width)).foldl (fun (acc : Nat × FFlags) j =>
    let q := g.step t st acc.1 (velem x t.width j)
    (q.1, acc.2 ||| q.2)) (g.identity t, 0)

/-- Table 6.1: the cycles after which a V word completes; none for the shared divider and for memory. -/
def latency : Instr → Option Nat
  | .vmul .. => some 4 | .vfma .. => some 4 | .vfms .. => some 4 | .vcvt .. => some 4 | .vperm .. => some 6
  | .vrcp .. => some 12 | .vrsq .. => some 12 | .vexp2 .. => some 12 | .vlog2 .. => some 12 | .vsin .. => some 12 | .vcos .. => some 12
  | .vtanh .. => some 12 | .vsqrt _ _ t _ _ => some (if t.width = 64 then 24 else 14)
  | .vredadd .. => some 16 | .vredmax .. => some 16 | .vredmin .. => some 16 | .vscan .. => some 16
  | .vdiv .. => none | .vrem .. => none | .vldm .. => none | .vldh .. => some 8
  | _ => some 2

/-- When the result of a V word lands, and its flags join `fflags` (R26, R106, log 5); a division's in the order of the divider (R82). -/
def lands (s : State) (i : Instr) : Due :=
  match i with
  | .vdiv .. => .divider
  | .vrem .. => .divider
  | _ =>
    match latency i with
    | some n => .unit (s.now + n)
    | none => .interlocked

/-- The state in which the V word `i` has written a vector register, its flags in flight until its latency has passed. -/
def vectorDone (s : State) (r : StreamRef) (c : Ctx) (i : Instr) (d : VReg) (x : BitVec 2048) (fl : FFlags) : State :=
  s.putCtx (((s.placed r c).setV d x).putStream r.st ((c.stream r.st).flyFlags (s.place r) (.v d) 0 fl (lands s i)))

/-- The state in which the V word `i` has written a predicate, its flags in flight until its latency has passed. -/
def predicateDone (s : State) (r : StreamRef) (c : Ctx) (i : Instr) (d : PReg) (x : BitVec 64) (fl : FFlags) : State :=
  s.putCtx (((s.placed r c).setP d x).putStream r.st ((c.stream r.st).flyFlags (s.place r) (.p d) 0 fl (lands s i)))

/-- What `VSTH` makes of a row (R124), with its flags: the active lanes as they are, within the row; converted element by element; or, in a
BX format, the blocks that have an active lane encoded anew. -/
def storedRow (y : Handle) (f : Fin 16) (split : Nat) (satfp cv : Bool) (row st : Nat) (x : BitVec 2048) (p : BitVec 64) :
    Handle × FFlags :=
  if cv then
    (if isBx f then
      ([0, 1].filter fun b => (List.range 32).any fun j => p.getLsbD (32 * b + j) && decide (st + 32 * b + j < y.cols)).foldl
        (fun (z : Handle × FFlags) b =>
          let e := bxEncode f split ((List.range 32).map fun j =>
            if p.getLsbD (32 * b + j) && decide (st + 32 * b + j < y.cols) then f32.decode (velem x 32 (32 * b + j))
            else (z.1.blockNums f row (st / 32 + b)).getD j .zero)
          (z.1.store row ((st / 32 + b) * bxBytes f) e.1, z.2 ||| e.2)) (y, 0)
    else
      ((vactives p 32).filter fun j => decide (st + j < y.cols)).foldl (fun (z : Handle × FFlags) j =>
        let e := numElem f satfp false (f32.decode (velem x 32 j))
        (z.1.putRaw f row (st + j) e.1, z.2 ||| e.2)) (y, 0))
  else
    ((vactives p 32).foldl (fun z j => z.store row (st + 4 * j) ((leBytes 4 (velem x 32 j)).take (rowBytes f y.cols - (st + 4 * j)))) y, 0)

/-- The elements that a gather reads from memory, place by place (R127, R129). -/
def gathered (w : Who) : MemSt → List VPlace → List (Nat × Nat)
  | _, [] => []
  | m, p :: l =>
    match p.piece with
    | some q => (p.el, leValue (readPiece m w q)) :: gathered w (noteRead m w .load q) l
    | none => gathered w m l

/-- Memory after a scatter has written its elements, place by place (R127, R129). -/
def scattered (w : Who) (n : Nat) (x : BitVec 2048) (m : MemSt) (l : List VPlace) : MemSt :=
  l.foldl (fun m p => match p.piece with
    | some q => writePiece m w .store q (leBytes n (velem x (8 * n) p.el))
    | none => m) m

/-- R128: the triple of a segment: lo, slope, offset. -/
def segment (y : Handle) (row i : Nat) : Machine.Num × Machine.Num × Machine.Num :=
  (y.num 10 row (3 * i), y.num 10 row (3 * i + 1), y.num 10 row (3 * i + 2))

/-- R128: the value of a table of `n` segments at an input: of the highest segment with lo ≤ x, or of segment 0. -/
def tableAt (y : Handle) (row n : Nat) (rm : Rm) (x : Machine.Num) : Nat × FFlags :=
  if x.isNan then (f32.nan, sigFlag [x])
  else
    let g := segment y row (((List.range n).filter fun i => (segment y row i).1.lt x || (segment y row i).1.eq x).getLastD 0)
    let e := Machine.Num.fma rm g.2.1 x g.2.2
    let q := f32.result rm false e.1
    (q.1, e.2 ||| q.2)

/-- Element `j` of the data register after a gather or lookup (R127): the value of its place, if it is active; else as zm says. -/
def gatherElem (v : VxcSt) (w : Nat) (vals : List (Nat × Nat)) (j : Nat) : Nat :=
  if vactive v.pred w j then
    (match assocFind vals j with
    | some x => x % 2 ^ w
    | none => velem v.data w j)
  else if v.zm then 0 else velem v.data w j

/-- The bits that a popped adjoint leaves in an element of a vector register (R271), and their flags. -/
def poppedBits (x : DRegion) (b : Nat) : Nat × FFlags :=
  if x.type = 1 then bf16.convert .rne false (f32.decode b) else (b, 0)

/-- A `VXC` word with the kind it names. -/
def vxcKind : Instr → Option (Fin 5 × SReg × SReg)
  | .vxcGather a b => some (0, a, b)
  | .vxcScatter a b => some (1, a, b)
  | .vxcHandleGather a b => some (2, a, b)
  | .vxcHandleScatter a b => some (3, a, b)
  | .vxcTableLookup a b => some (4, a, b)
  | _ => none

end Sys2Proof.Claims

/-- R26, R105-R112, R115: an elementwise word in the C stream leaves the pc at the next word: every active element is what the tables say,
an inactive one keeps its bits or becomes 0, the flags of the active elements join `fflags` when its latency has passed (Table 6.1, log 5),
and nothing else changes. R113: `VCVT`: an active element is the conversion of the source element of the same number; one past the source's
count becomes 0. -/
def Obligations.ElementwiseWordsComputeEachElement : Prop :=
  (∀ (s : State) (r : StreamRef) (c : Ctx) (i : Instr) (d a b : VReg) (t : VType) (p : PReg) (z : Bool)
    (f : Nat → Nat → Nat → Nat × FFlags),
    s.issuer r c → r.st = .C → Claims.elementRule (c.stream r.st) i = some (d, a, b, t, p, z, f) →
    ∃ (x : BitVec 2048) (fl : FFlags), exec i s = .next ((Claims.vectorDone s r c i d x fl).completed r) ∧
      (∀ j < 2048 / t.width, velem x t.width j =
        if vactive (c.preg p) t.width j then
          (f (velem (c.vreg d) t.width j) (velem (c.vreg a) t.width j) (velem (c.vreg b) t.width j)).1 % 2 ^ t.width
        else if z then 0 else velem (c.vreg d) t.width j) ∧
      fl = (List.range (2048 / t.width)).foldl (fun g j => if vactive (c.preg p) t.width j then
        g ||| (f (velem (c.vreg d) t.width j) (velem (c.vreg a) t.width j) (velem (c.vreg b) t.width j)).2 else g) 0) ∧
  (∀ (s : State) (r : StreamRef) (c : Ctx) (d a : VReg) (src t : VType) (p : PReg) (z : Bool), s.issuer r c → r.st = .C →
    ∃ (x : BitVec 2048) (fl : FFlags), exec (.vcvt d a src t p z) s = .next ((Claims.vectorDone s r c (.vcvt d a src t p z) d x fl).completed r) ∧
      (∀ j < 2048 / t.width, velem x t.width j =
        if vactive (c.preg p) t.width j then
          (if j < 2048 / src.width then (vcvtElem src t (c.stream r.st) (velem (c.vreg a) src.width j)).1 % 2 ^ t.width else 0)
        else if z then 0 else velem (c.vreg d) t.width j) ∧
      fl = (List.range (2048 / t.width)).foldl (fun g j => if vactive (c.preg p) t.width j ∧ j < 2048 / src.width then
        g ||| (vcvtElem src t (c.stream r.st) (velem (c.vreg a) src.width j)).2 else g) 0)

/-- R114, R116: a compare writes, in each lane with an active element, whether the relation holds of all of them, and leaves the other
lanes; the flags that join `fflags` after its latency are those of the active elements. The predicate words combine predicates; a write to p0 is discarded. -/
def Obligations.ComparesAndPredicateWords : Prop :=
  (∀ (s : State) (r : StreamRef) (c : Ctx) (i : Instr) (d : PReg) (a b : VReg) (t : VType) (p : PReg) (f : Nat → Nat → Bool × FFlags),
    s.issuer r c → r.st = .C → Claims.compareRule i = some (d, a, b, t, p, f) →
    ∃ (x : BitVec 64) (fl : FFlags), exec i s = .next ((Claims.predicateDone s r c i d x fl).completed r) ∧
      (∀ l < 64, x.getLsbD l =
        if (Claims.laneElems t.width l).any (vactive (c.preg p) t.width) then
          (Claims.laneElems t.width l).all fun j => !vactive (c.preg p) t.width j ||
            (f (velem (c.vreg a) t.width j) (velem (c.vreg b) t.width j)).1
        else (c.preg d).getLsbD l) ∧
      fl = (vactives (c.preg p) t.width).foldl (fun g j => g ||| (f (velem (c.vreg a) t.width j) (velem (c.vreg b) t.width j)).2) 0) ∧
  (∀ (s : State) (r : StreamRef) (c : Ctx) (i : Instr) (d : PReg) (x : BitVec 64),
    s.issuer r c → r.st = .C → Claims.predicateRule c i = some (d, x) →
    exec i s = .next ((Claims.predicateDone s r c i d x 0).completed r) ∧
    (((s.placed r c).setP d x).preg 0 = BitVec.allOnes 64) ∧ (d ≠ 0 → ((s.placed r c).setP d x).preg d = x))

/-- R117-R120: selection, permutation, reductions and the scan, element by element; an inactive element keeps its bits or becomes 0. R121:
`VSPLAT` fills every lane from an s register, `VINS` replaces one (or, wide, a pair), `VEXT` reads one into an s register, interlocked,
sign-extended from 32 bits. -/
def Obligations.LaneWordsMoveAndFold : Prop :=
  (∀ (s : State) (r : StreamRef) (c : Ctx), s.issuer r c → r.st = .C →
    (∀ d a b t p, ∃ x : BitVec 2048, exec (.vsel d a b t p) s = .next ((Claims.vectorDone s r c (.vsel d a b t p) d x 0).completed r) ∧
      ∀ j < 2048 / laneWidth t, velem x (laneWidth t) j =
        if vactive (c.preg p) (laneWidth t) j then velem (c.vreg a) (laneWidth t) j else velem (c.vreg b) (laneWidth t) j) ∧
    (∀ d a b t p z, ∃ x : BitVec 2048, exec (.vperm d a b t p z) s = .next ((Claims.vectorDone s r c (.vperm d a b t p z) d x 0).completed r) ∧
      ∀ j < 2048 / laneWidth t, velem x (laneWidth t) j =
        if vactive (c.preg p) (laneWidth t) j then
          (match nearest (c.preg p) (laneWidth t) (velem (c.vreg b) 32 (j * laneWidth t / 32) % (2048 / laneWidth t)) with
          | some k => velem (c.vreg a) (laneWidth t) k
          | none => 0)
        else if z then 0 else velem (c.vreg d) (laneWidth t) j) ∧
    (∀ i d a t p z g, Claims.foldRule i = some (d, a, t, p, z, g) →
      ∃ x : BitVec 2048, exec i s = .next ((Claims.vectorDone s r c i d x
          (Claims.foldBelow g t (c.stream r.st) (c.preg p) (c.vreg a) (2048 / t.width)).2).completed r) ∧
      ∀ j < 2048 / t.width, velem x t.width j =
        if j = 0 then (Claims.foldBelow g t (c.stream r.st) (c.preg p) (c.vreg a) (2048 / t.width)).1 % 2 ^ t.width
        else if z then 0 else velem (c.vreg d) t.width j) ∧
    (∀ d a t p z, ∃ x : BitVec 2048, exec (.vscan d a t p z) s = .next ((Claims.vectorDone s r c (.vscan d a t p z) d x
          (Claims.foldBelow .add t (c.stream r.st) (c.preg p) (c.vreg a) (2048 / t.width)).2).completed r) ∧
      ∀ j < 2048 / t.width, velem x t.width j =
        if vactive (c.preg p) t.width j then (Claims.foldBelow .add t (c.stream r.st) (c.preg p) (c.vreg a) (j + 1)).1 % 2 ^ t.width
        else if z then 0 else velem (c.vreg d) t.width j)) ∧
  (∀ (s : State) (r : StreamRef) (c : Ctx) (v : VReg) (q : SReg) (l : Fin 64), s.issuer r c → r.st = .C →
    (∃ x : BitVec 2048, exec (.vsplat v q true) s = .next ((Claims.vectorDone s r c (.vsplat v q true) v x 0).completed r) ∧
      ∀ j < 32, velem x 64 j = ((c.stream r.st).sreg q).toNat) ∧
    (∃ x : BitVec 2048, exec (.vsplat v q false) s = .next ((Claims.vectorDone s r c (.vsplat v q false) v x 0).completed r) ∧
      ∀ j < 64, velem x 32 j = ((c.stream r.st).sreg q).toNat % 2 ^ 32) ∧
    (∀ w, ∃ x : BitVec 2048, exec (.vins v q l w) s = .next ((Claims.vectorDone s r c (.vins v q l w) v x 0).completed r) ∧
      ∀ j < 64, velem x 32 j = if j = l.val then ((c.stream r.st).sreg q).toNat % 2 ^ 32
        else if w = true ∧ j = l.val + 1 then ((c.stream r.st).sreg q).toNat / 2 ^ 32 else velem (c.vreg v) 32 j) ∧
    exec (.vext v q l false) s = .next ((s.withStream r c ((c.stream r.st).fly (s.place r) (if q = 0 then .unit else .s q)
      ((BitVec.ofNat 32 (velem (c.vreg v) 32 l.val)).signExtend 64) (.unit (s.now + 6)))).completed r) ∧
    exec (.vext v q l true) s = .next ((s.withStream r c ((c.stream r.st).fly (s.place r) (if q = 0 then .unit else .s q)
      (BitVec.ofNat 64 (velem (c.vreg v) 64 (l.val / 2))) (.unit (s.now + 6)))).completed r))

/-- R124, R125: `VLDH` reads a row of a tile handle, from its start, into the active lanes, as stored or converted, with the flags of the
conversions; `VSTH` writes the active lanes into the row, as they are or converted, and no byte of the handle outside the row. They complete
where the handle has the row, the start is aligned, and no earlier command still uses the row, and no byte that they read has been struck by
an uncorrectable error, which traps (R327). That a converting form converts in an `f32` bank too is the model's choice (log 93), and that
the flags of a BX store are those of the whole blocks encoded anew its reading (log 52). R122, R123, R93: `VLDM` and `VSTM` outside
D-regions, and `VLDM` of one in record mode: the active lanes are the words at the base plus 4 × their number, and the other lanes keep
theirs; they complete where the base is a multiple of 4 and each run of active lanes passes the checks. -/
def Obligations.VectorRowsLoadAndStore : Prop :=
  (∀ (s : State) (r : StreamRef) (c : Ctx) (v : VReg) (q : SReg) (h : HId) (p : Fin 8) (cv : Bool) (y : Handle) (row st : Nat) (f : Fin 16)
    (pr : BitVec 64),
    s.issuer r c → r.st = .C → row = ((c.stream r.st).sreg q).toNat % 2 ^ 16 → st = bitsN ((c.stream r.st).sreg q).toNat 47 32 →
    c.handle h = some y → y.kind = .tile → row < y.rows → f = handleFmt s c y → pr = c.preg (p.castLE (by decide)) →
    (if cv then isBx f = false ∨ st % 32 = 0 else st % 4 = 0) →
    (rowBusy (s.placed r c) (s.place r) h row false = false →
      y.meets row (rowSpan f (rowBytes f y.cols) st cv).1 (rowSpan f (rowBytes f y.cols) st cv).2 = true →
      exec (.vldh v q h p cv) s = .next (trapWord (s.putCtx (s.placed r c)) r ⟨14, 0, 1, 0⟩)) ∧
    (rowBusy (s.placed r c) (s.place r) h row false = false →
      y.meets row (rowSpan f (rowBytes f y.cols) st cv).1 (rowSpan f (rowBytes f y.cols) st cv).2 = false →
      ∃ (x : BitVec 2048) (fl : FFlags),
        exec (.vldh v q h p cv) s = .next ((Claims.vectorDone s r c (.vldh v q h p cv) v x fl).completed r) ∧
        (∀ j < 64, velem x 32 j =
          if pr.getLsbD j then
            (if cv then (cvtLane y f row (st + j)).1 % 2 ^ 32 else rawLane y (rowBytes f y.cols) row st j % 2 ^ 32)
          else velem (c.vreg v) 32 j) ∧
        fl = (List.range 64).foldl (fun g j => if cv = true ∧ pr.getLsbD j = true then g ||| (cvtLane y f row (st + j)).2 else g) 0) ∧
    (rowBusy (s.placed r c) (s.place r) h row true = false → (cv = true → blocksStruck f pr y row st = false) →
      ∃ (z : Handle) (fl : FFlags),
        (z, fl) = Claims.storedRow y f (handleSplit s c y).val (c.stream r.st).satfp cv row st (c.vreg v) pr ∧
        exec (.vsth v q h p cv) s = .next ((s.putCtx (((s.placed r c).putHandle z).putStream r.st
          ((c.stream r.st).flyFlags (s.place r) .unit 0 fl (.unit (s.now + 8))))).completed r) ∧
        z.id = y.id ∧ z.rows = y.rows ∧ z.cols = y.cols ∧ z.pitch = y.pitch ∧ z.banks = y.banks ∧
        (∀ o, o < row * y.pitch ∨ row * y.pitch + rowBytes f y.cols ≤ o → Memory.get z.data o = Memory.get y.data o) ∧
        (cv = false → fl = 0 ∧ (Memory.wf y.data = true → ∀ o, Memory.get z.data o =
          if (List.range 64).any (fun j => pr.getLsbD j && decide (row * y.pitch + st + 4 * j ≤ o) &&
              decide (o < row * y.pitch + st + 4 * j + 4) && decide (o < row * y.pitch + rowBytes f y.cols)) then
            BitVec.ofNat 8 (velem (c.vreg v) 8 (o - (row * y.pitch + st)))
          else Memory.get y.data o)))) ∧
  (∀ (s : State) (r : StreamRef) (c : Ctx) (v : VReg) (q : SReg) (o : BitVec 8) (p : Fin 8) (va : Nat) (pr : BitVec 64) (m : MemSt)
    (ps : List Piece),
    s.issuer r c → r.st = .C → va = ((c.stream r.st).sreg q + (o.signExtend 64 <<< 8)).toNat → va % 4 = 0 →
    pr = c.preg (p.castLE (by decide)) →
    (((∀ e ∈ vruns pr va, Claims.plainLoad c e.1 e.2) ∨ (c.dmode = 1 ∧ ∃ x, vAccess c (vruns pr va) = .inside x)) →
      checkRuns s.mem s.hub s.free (Claims.accessWho s r c) .load (vruns pr va) = .ok (m, ps) →
      ∃ x : BitVec 2048, exec (.vldm v q o p) s = .next (((Claims.vectorDone s r c (.vldm v q o p) v x 0).setMem
          (readPieces m (Claims.accessWho s r c) .load ps).2).completed r) ∧
        (∀ j < 64, velem x 32 j = (match assocFind ((vactives pr 32).zip
            (laneList (readPieces m (Claims.accessWho s r c) .load ps).1)) j with
          | some k => k % 2 ^ 32
          | none => velem (c.vreg v) 32 j))) ∧
    ((∀ e ∈ vruns pr va, Claims.plainLoad c e.1 e.2) →
      checkRuns s.mem s.hub s.free (Claims.accessWho s r c) .store (vruns pr va) = .ok (m, ps) →
      exec (.vstm v q o p) s = .next (((s.putCtx (s.placed r c)).setMem (writePieces m (Claims.accessWho s r c) .store ps
        ((vactives pr 32).flatMap fun j => leBytes 4 (velem (c.vreg v) 32 j)))).completed r)))

/-- R126-R130, R271: a `VXC` word whose command and places pass the checks starts its data phase when none is in progress, and waits while one
is; its accesses of D-regions outside primal mode are made first. `VXC_DATA_COMPLETE` makes its accesses and ends it, `vbusy` reading 0: a
gather leaves the elements of its places, and a table lookup
the values of the table, in the active lanes of its data register; a scatter leaves its elements in memory or in its handle (and, in
reverse mode, the popped adjoints in its register: that it holds them from this phase on is the model's reading, log 54). A command on a handle
that earlier words still use holds its stream. `VFENCE` completes when every vector word has completed, and waits before. -/
def Obligations.VxcStartsAndCompletes : Prop :=
  (∀ (s : State) (r : StreamRef) (c : Ctx) (a b : SReg) (kind : Fin 5) (i : Instr) (cmd : VxcCmd) (m : MemSt) (es : List VElem),
    s.issuer r c → r.st = .C → c.vxc = none → Claims.vxcKind i = some (kind, a, b) → kind.val < 2 →
    vxcCmd kind.val ((c.stream r.st).sreg a).toNat ((c.stream r.st).sreg b).toNat = some cmd →
    checkElems (Claims.accessState s r c) (s.here r c) (whoVxc (Claims.accessState s r c) (s.placed r c)) cmd (kind == 1) s.mem
      (vactives (c.preg cmd.pred) cmd.width) = .ok (m, es) → invElems (cmd.width / 8) es = [] →
    ∃ (v : VxcSt) (n : MemSt), exec i s = .next (((s.putCtx { s.placed r c with vxc := some v }).setMem n).completed r) ∧
      n.hbm = m.hbm ∧ n.dieLines = m.dieLines ∧ n.lineKey = m.lineKey ∧ n.keys = m.keys ∧ v.kind = kind ∧
      v.vd = cmd.vd ∧ v.wide = cmd.wide ∧ v.zm = cmd.zm ∧ v.pred = c.preg cmd.pred ∧ v.data = c.vreg cmd.vd ∧ v.result = none ∧
      v.flags = 0 ∧ v.places = (plainPlaces es).map fun p => { p with piece := p.piece.map fun q => { q with
        leaf := { q.leaf with chk := false } } }) ∧
  (∀ (s : State) (r : StreamRef) (c : Ctx) (a b : SReg) (kind : Fin 5) (i : Instr) (cmd : VxcCmd) (m : MemSt) (es : List VElem)
    (iv : List (Nat × DElem)) (w : Who) (z : State),
    s.issuer r c → r.st = .C → c.vxc = none → Claims.vxcKind i = some (kind, a, b) → kind.val < 2 →
    vxcCmd kind.val ((c.stream r.st).sreg a).toNat ((c.stream r.st).sreg b).toNat = some cmd → w = whoVxc (Claims.accessState s r c) (s.placed r c) →
    checkElems (Claims.accessState s r c) (s.here r c) w cmd (kind == 1) s.mem (vactives (c.preg cmd.pred) cmd.width) = .ok (m, es) →
    iv = invElems (cmd.width / 8) es → iv ≠ [] →
    z = (Claims.accessState s r c).setMem (notePlaces m w (if kind = 1 then .store else .load) (plainPlaces es)).1 →
    (c.dmode = 1 → ∀ (u : State) (j : Nat), recordElems z r.ctx w (s.here r c).tapedAt ((iv.map fun e =>
        (e.2.1.type, e.2.2, leBytes (dtSize e.2.1.type) (velem (c.vreg cmd.vd) (8 * dtSize e.2.1.type) e.1))).drop (s.here r c).tapedAt) =
          (u, j, .ok ()) →
      ∃ v : VxcSt, exec i s = .next (((u.mapStream r fun y => { y with taped := none }).mapCtx r.ctx fun y =>
        { y with vxc := some v }).completed r) ∧ v.kind = kind ∧ v.vd = cmd.vd ∧ v.data = c.vreg cmd.vd ∧ v.result = none ∧ v.flags = 0) ∧
    (c.dmode ≠ 1 → kind = 1 → ∀ (u : State) (l : List Nat), popBlock z r.ctx w (iv.map fun e => e.2) = .ok (l, u) →
      ∃ (v : VxcSt) (y : BitVec 2048), exec i s = .next ((u.mapCtx r.ctx fun x => { x with vxc := some v }).completed r) ∧ v.kind = 1 ∧
        v.vd = cmd.vd ∧ v.result = some y ∧ (∀ j < 256, velem y 8 j = match (iv.zip l).find? fun e => j / dtSize e.1.2.1.type == e.1.1 with
          | some e => (Claims.poppedBits e.1.2.1 e.2).1 / 2 ^ (8 * (j % dtSize e.1.2.1.type)) % 256
          | none => if cmd.zm = true ∧ vactive (c.preg cmd.pred) cmd.width (j * 8 / cmd.width) = false then 0 else velem (c.vreg cmd.vd) 8 j) ∧
        v.flags = (iv.zip l).foldl (fun f e => f ||| (Claims.poppedBits e.1.2.1 e.2).2) 0) ∧
    (c.dmode ≠ 1 → kind = 0 → ∀ (t u : State) (fl : FFlags), checkCells z w (iv.map fun e => e.2) = .ok t →
      accumCells t w 0 (iv.map fun e => (e.2, vAdjoint e.2.1 (velem (c.vreg cmd.vd) (8 * dtSize e.2.1.type) e.1))) = .ok (u, fl) →
      ∃ v : VxcSt, exec i s = .next ((u.mapCtx r.ctx fun x => { x with vxc := some v }).completed r) ∧ v.kind = 0 ∧ v.vd = cmd.vd ∧
        v.zm = false ∧ v.data = c.vreg cmd.vd ∧ v.flags = fl)) ∧
  (∀ (s : State) (r : StreamRef) (c : Ctx) (a b : SReg) (kind : Fin 5) (i : Instr) (cmd : VxcCmd) (y : Handle) (ps : List VPlace),
    s.issuer r c → r.st = .C → c.vxc = none → Claims.vxcKind i = some (kind, a, b) → (kind = 2 ∨ kind = 3) →
    vxcCmd kind.val ((c.stream r.st).sreg a).toNat ((c.stream r.st).sreg b).toNat = some cmd →
    c.handle cmd.h = some y → y.kind = .tile → cmd.row < y.rows →
    handlePlaces cmd y (c.vreg cmd.vi) (vactives (c.preg cmd.pred) cmd.width) = .ok ps →
    (handleBusy (s.placed r c) (s.place r) cmd.h (kind == 3) = true → (c.stream r.st).run = .run → exec i s =
      .next ((s.withStream r c { c.stream r.st with run := .held ⟨i, s.now, s.place r, some (c.stream r.st).s⟩ }).ended r)) ∧
    (handleBusy (s.placed r c) (s.place r) cmd.h (kind == 3) = false →
    ∃ v : VxcSt, exec i s = .next ((s.putCtx { s.placed r c with vxc := some v }).completed r) ∧ v.kind = kind ∧ v.handle = cmd.h ∧
      v.vd = cmd.vd ∧ v.wide = cmd.wide ∧ v.zm = cmd.zm ∧ v.pred = c.preg cmd.pred ∧ v.places = ps ∧ v.data = c.vreg cmd.vd ∧
      v.flags = 0)) ∧
  (∀ (s : State) (r : StreamRef) (c : Ctx) (a b : SReg) (cmd : VxcCmd) (y : Handle),
    s.issuer r c → r.st = .C → c.vxc = none →
    vxcCmd 4 ((c.stream r.st).sreg a).toNat ((c.stream r.st).sreg b).toNat = some cmd →
    c.handle cmd.h = some y → y.kind = .tile → cmd.row < y.rows → handleFmt s c y = 10 → 3 * cmd.nseg ≤ y.cols →
    ∃ v : VxcSt, exec (.vxcTableLookup a b) s = .next ((s.putCtx { s.placed r c with vxc := some v }).completed r) ∧ v.kind = 4 ∧
      v.handle = cmd.h ∧ v.row = cmd.row ∧ v.nseg = cmd.nseg ∧ v.vi = c.vreg cmd.vi ∧ v.vd = cmd.vd ∧ v.zm = cmd.zm ∧
      v.pred = c.preg cmd.pred ∧ v.data = c.vreg cmd.vd ∧ v.round = (c.stream r.st).round ∧ v.flags = 0) ∧
  (∀ (s : State) (r : StreamRef) (c : Ctx) (i : Instr) (kind : Fin 5) (a b : SReg),
    s.issuer r c → r.st = .C → c.vxc ≠ none → (c.stream r.st).run = .run → Claims.vxcKind i = some (kind, a, b) →
    exec i s = .next (s.withStream r c { c.stream r.st with run := .held ⟨i, s.now, s.place r, none⟩ })) ∧
  (∀ (s : State) (x : CtxId) (c : Ctx) (v : VxcSt) (w : Nat) (u : Who), s.ctx x = some c → c.vxc = some v → vxcReady s c v = .ok () →
    w = (if v.wide then 64 else 32) → u = whoVxc s c →
    ∃ (t : State) (d : Ctx), exec (.vxcDataComplete x) s = .next t ∧ t.ctx x = some d ∧ d.vxc = none ∧ d.p = c.p ∧ d.cmds = c.cmds ∧
      (∀ i, i ≠ .C → d.stream i = c.stream i) ∧ (d.stream .C).pc = (c.stream .C).pc ∧ (∀ k, k ≠ v.vd → d.vreg k = c.vreg k) ∧
      (v.kind.val < 4 → (d.stream .C).fflags = (c.stream .C).fflags ||| v.flags) ∧
      (v.kind = 0 → d.handles = c.handles ∧ t.mem.hbm = s.mem.hbm ∧
        ∀ j < 2048 / w, velem (d.vreg v.vd) w j = Claims.gatherElem v w (Claims.gathered u s.mem v.places) j) ∧
      (v.kind = 1 → d.handles = c.handles ∧ t.mem = Claims.scattered u (w / 8) v.data s.mem v.places ∧
        d.vreg v.vd = v.result.getD (c.vreg v.vd)) ∧
      (∀ y, c.handle v.handle = some y →
        (v.kind = 2 → d.handles = c.handles ∧ t.mem = s.mem ∧ ∀ j < 2048 / w, velem (d.vreg v.vd) w j =
          Claims.gatherElem v w (v.places.map fun p => (p.el, leValue (Memory.gets y.data p.va (w / 8)))) j) ∧
        (v.kind = 3 → d.v = c.v ∧ t.mem = s.mem ∧ d.handles = (c.putHandle (v.places.foldl (fun z p =>
          z.store 0 p.va (leBytes (w / 8) (velem v.data w p.el))) y)).handles) ∧
        (v.kind = 4 → d.handles = c.handles ∧ t.mem = s.mem ∧
          (∀ j < 64, velem (d.vreg v.vd) 32 j =
            if v.pred.getLsbD j then (Claims.tableAt y v.row v.nseg (rmOf v.round) (f32.decode (velem v.vi 32 j))).1 % 2 ^ 32
            else if v.zm then 0 else velem v.data 32 j) ∧
          (d.stream .C).fflags = (List.range 64).foldl (fun g j => if v.pred.getLsbD j then
            g ||| (Claims.tableAt y v.row v.nseg (rmOf v.round) (f32.decode (velem v.vi 32 j))).2 else g)
            ((c.stream .C).fflags ||| v.flags)))) ∧
  (∀ (s : State) (r : StreamRef) (c : Ctx), s.issuer r c → r.st = .C →
    (c.vxc = none → (∀ f ∈ (c.stream r.st).flight, f.vector = false) →
      ∃ k : Clock, exec .vfence s = .next ((s.putCtx { (s.placed r c).putStream r.st { c.stream r.st with clk := k } with vxcClk := [] }).completed r)) ∧
    ((c.vxc ≠ none ∨ ∃ f ∈ (c.stream r.st).flight, f.vector = true) → (c.stream r.st).run = .run →
      exec .vfence s = .next ((s.withStream r c { c.stream r.st with
        run := .held ⟨.vfence, s.now, s.place r, some (c.stream r.st).s⟩ }).ended r)))

/-! ## Engine queues (spec/05_control_engine.md, spec/10_jobs_and_streams.md) -/

namespace Sys2Proof.Claims

/-- Tables 4.6, 4.7, 4.9: the queue of a queued word, its handle with the kind it must have, and the s register that it reads at issue.
`STATS` and `STATC` are in `statusForm`. -/
def queueForm : Instr → Option (Queue × Option (HId × HKind) × Option SReg)
  | .lacq _ => some (.A, none, none) | .lrel _ => some (.A, none, none) | .statg _ _ _ _ => some (.A, none, none)
  | .dtt _ x => some (.A, none, some x)
  | .bload _ h x _ => some (.A, some (h, .tile), some x) | .mma _ h x _ _ => some (.A, some (h, .tile), some x)
  | .mma3 _ h x _ => some (.A, some (h, .tile), some x) | .drain _ h x _ => some (.A, some (h, .tile), some x)
  | .dbias _ h x => some (.A, some (h, .tile), some x) | .dact _ h x => some (.A, some (h, .tile), some x)
  | .dclamp _ h x => some (.A, some (h, .tile), some x) | .drainm _ h x _ => some (.A, some (h, .chain), some x)
  | .layerf _ h x => some (.A, some (h, .tile), some x) | .layerd _ h x => some (.A, some (h, .tile), some x)
  | .layerw _ h x => some (.A, some (h, .tile), some x) | .layeru _ h x => some (.A, some (h, .tile), some x)
  | .fft _ h x _ => some (.A, some (h, .tile), some x) | .ifft _ h x _ => some (.A, some (h, .tile), some x)
  | .shtf _ h x _ => some (.A, some (h, .tile), some x) | .shti _ h x _ => some (.A, some (h, .tile), some x)
  | .plan _ h x _ => some (.A, some (h, .tile), some x)
  | .copy _ h x => some (.L, some (h, .chain), some x) | .chain _ h x => some (.L, some (h, .chain), some x)
  | .pref _ h x _ => some (.L, some (h, .chain), some x) | .retn _ h x => some (.L, some (h, .chain), some x)
  | .invr _ h x _ => some (.L, some (h, .chain), some x)
  | .copyo _ h x => some (.S, some (h, .chain), some x) | .chaino _ h x => some (.S, some (h, .chain), some x)
  | .copya _ h x => some (.S, some (h, .chain), some x) | .chaina _ h x => some (.S, some (h, .chain), some x)
  | .offl _ h x _ => some (.S, some (h, .chain), some x) | .wbr _ h x _ => some (.S, some (h, .chain), some x)
  | .zpop _ h x _ => some (.N, some (h, .tile), some x) | .zpush _ h x _ => some (.N, some (h, .tile), some x)
  | .zopen _ h x _ => some (.N, some (h, .tile), some x) | .zclose _ _ => some (.N, none, none)
  | .tune _ h x => some (.N, some (h, .tile), some x) | .trav _ h x => some (.N, some (h, .tile), some x)
  | .pushr _ h x _ => some (.N, some (h, .tile), some x) | .ncomb _ h x => some (.N, some (h, .tile), some x)
  | _ => none

/-- The register that a status read delivers to (R178). -/
def statusForm : Instr → Option Dst
  | .stats _ _ d _ => some (.s d)
  | .statc _ _ d _ => some (.c d)
  | _ => none

/-- The row that check 10 looks at: an L or S word's record, an N word's row value, bits [15:0] of its register. -/
def checkedRow (q : Queue) (v : Word) : Nat :=
  match q with
  | .L => v.toNat
  | .S => v.toNat
  | .N => v.toNat % 2 ^ 16
  | .A => 0

/-- Does a queued word pass the checks of its handle and row (check 10), and the rules of an A word (R210, Table 4.8)? Its chain handle is
written by an earlier command (R144), or not. -/
def queueOk (s : State) (r : StreamRef) (c : Ctx) (i : Instr) (q : Queue) (hk : Option (HId × HKind)) (v : Word)
    (busy : Bool) : Prop :=
  (∀ h k, hk = some (h, k) → ∃ y, c.handle h = some y ∧ y.kind = k ∧ checkedRow q v < y.rows ∧
    (k = .chain → chainBusy c (s.place r) h = busy)) ∧
  (q = .A → c.card.arr = true ∧ wrongCore r.ctx.core i = false) ∧ (∀ g x, i = .dtt g x → v.toNat < 2 ^ 13)

/-- The command that a word becomes. It observes every earlier access of its stream (Table 11.2). -/
def newCmd (s : State) (r : StreamRef) (c : Ctx) (q : Queue) (i : Instr) (v : Word) (reads writes : List RowSet) (paths : BitVec 5) : Cmd :=
  ⟨s.place r, q, i, v, r.st, (c.stream r.st).pc, reads, writes, paths, 0, [], .queued, Clock.tick (c.stream r.st).clk (streamAgent c.job r.st)⟩

/-- The state in which a command has entered its queue. -/
def entered (s : State) (r : StreamRef) (c : Ctx) (t : Stream) (d : Cmd) : State :=
  (s.putCtx { (s.placed r c).putStream r.st { t with clk := d.clk } with cmds := c.cmds ++ [d] }).completed r

/-- The state in which a word holds its stream, from now on: it has issued, and keeps its place and its operands (R28, R212). -/
def waits (s : State) (r : StreamRef) (c : Ctx) (i : Instr) : State :=
  (s.withStream r c { c.stream r.st with run := .held ⟨i, s.now, s.place r, some (c.stream r.st).s⟩ }).ended r

/-- The state in which a word that finds its queue full holds its stream: it has not issued (R212, R219). -/
def queueWaits (s : State) (r : StreamRef) (c : Ctx) (i : Instr) : State :=
  s.withStream r c { c.stream r.st with run := .held ⟨i, s.now, s.place r, none⟩ }

/-- What a synchronisation word leaves of a context: everything but handles, results in flight and the clocks of the race checker. -/
def sameBut (c x : Ctx) : Prop :=
  x.id = c.id ∧ x.card = c.card ∧ x.v = c.v ∧ x.p = c.p ∧ x.z = c.z ∧ x.g = c.g ∧ x.cmds = c.cmds ∧ x.status = c.status ∧ x.acc = c.acc ∧
  x.dregs = c.dregs ∧ x.dmode = c.dmode ∧ x.tapePos = c.tapePos ∧
  ∀ i, { x.stream i with clk := [], flight := [] } = { c.stream i with clk := [], flight := [] }

/-- The same, with handles and results in flight as given. -/
def leaves (c x : Ctx) (r : StreamRef) (hs : List Handle) (fs : List Flight) : Prop :=
  sameBut c x ∧ x.handles = hs ∧ (x.stream r.st).flight = fs

end Sys2Proof.Claims

/-- R57, R61, R144, R210, R212, R219: a queued word that passes its checks completes at once when its queue has a free entry and no word that
issued earlier in another stream still waits to enter it: it enters the queue with the value of its s register, and nothing else changes;
otherwise it holds its stream, and has not issued (that it waits so behind a word of another stream which still waits to enter is the model's
reading: log 108). A word whose chain handle an earlier command writes holds its stream with the operands and
the place that it has. A status read puts a result in flight too, that waits for its command (R178). -/
def Obligations.QueueWordsEnterTheirQueue : Prop :=
  (∀ (s : State) (r : StreamRef) (c : Ctx) (i : Instr) (q : Queue) (hk : Option (HId × HKind)) (x : Option SReg) (v : Word),
    s.issuer r c → Claims.queueForm i = some (q, hk, x) → v = (match x with | some n => (c.stream r.st).sreg n | none => 0) →
    (Claims.queueOk s r c i q hk v false →
      (queueShut c q r.st = false → ∃ reads writes paths, exec i s = .next (Claims.entered s r c (c.stream r.st)
        (Claims.newCmd s r c q i v reads writes paths))) ∧
      (queueShut c q r.st = true → (c.stream r.st).run = .run → exec i s = .next (Claims.queueWaits s r c i))) ∧
    (∀ h, hk = some (h, .chain) → Claims.queueOk s r c i q hk v true → (c.stream r.st).run = .run →
      exec i s = .next (Claims.waits s r c i))) ∧
  (∀ (s : State) (r : StreamRef) (c : Ctx) (i : Instr) (d : Dst),
    s.issuer r c → Claims.statusForm i = some d → c.card.arr = true → wrongCore r.ctx.core i = false →
    (queueShut c .A r.st = false → exec i s = .next (Claims.entered s r c ((c.stream r.st).fly (s.place r) d 0 .statusRead)
      (Claims.newCmd s r c .A i 0 [] [] 0))) ∧
    (queueShut c .A r.st = true → (c.stream r.st).run = .run → exec i s = .next (Claims.queueWaits s r c i)))

/-! ## Handles and synchronisation (spec/07_memory_and_sync.md) -/

/-- R131-R135: `HALLOC` gives a handle the lowest free banks and sets their format registers, or units of the L2 quota, and every byte of
it reads 0; `HFREE` gives its banks back; `HFMT` sets the format of its banks and keeps its data; both wait while a command or V word issued
before uses the handle. The L2 of a die holds 384 MiB (log 94). -/
def Obligations.HandlesAreAllocatedAndFreed : Prop :=
  (∀ (s : State) (r : StreamRef) (c : Ctx) (h : HId) (x : SReg) (d : HDesc) (k : CoreSt) (bs : List (Fin 96)),
    s.issuer r c → hdesc ((c.stream r.st).sreg x).toNat = some d → c.handle h = none → d.l2 = false →
    s.core r.ctx.core = some k → bs = (freeBanks s k).take d.units → bs.length = d.units →
    ∃ (y : Handle) (m : CoreSt), exec (.halloc h x) s = .next (((s.putCtx { s.placed r c with handles := y :: c.handles }).putCore m).completed r) ∧
      y.id = h ∧ y.kind = d.kind ∧ y.rows = d.rows ∧ y.cols = d.cols ∧ y.pitch = d.pitch ∧ y.banks = bs ∧ y.kept = none ∧
      (∀ a, Memory.get y.data a = 0) ∧ m.id = k.id ∧ m.pool = k.pool ∧ m.micro = k.micro ∧
      ∀ b, m.banks.get b = if b ∈ bs then ⟨some (r.ctx.ctx, h), d.split, d.fmt⟩ else k.banks.get b) ∧
  (∀ (s : State) (r : StreamRef) (c : Ctx) (h : HId) (x : SReg) (d : HDesc),
    s.issuer r c → hdesc ((c.stream r.st).sreg x).toNat = some d → c.handle h = none → d.l2 = true →
    l2Fits (Claims.accessState s r c) (s.placed r c) d.units = true →
    ∃ y : Handle, exec (.halloc h x) s = .next ((s.putCtx { s.placed r c with handles := y :: c.handles }).completed r) ∧
      y.id = h ∧ y.l2 = true ∧ y.kind = d.kind ∧ y.rows = d.rows ∧ y.cols = d.cols ∧ y.pitch = d.pitch ∧ y.units = d.units ∧
      y.banks = [] ∧ y.l2fmt = d.fmt ∧ y.l2split = d.split ∧ (∀ a, Memory.get y.data a = 0)) ∧
  (∀ (s : State) (r : StreamRef) (c : Ctx) (h : HId) (y : Handle) (k : CoreSt),
    s.issuer r c → c.handle h = some y → waiting c (fun x _ => decide (x = h)) = false → handleInUse c (s.place r) h = false →
    s.core r.ctx.core = some k →
    ∃ m : CoreSt, exec (.hfree h) s = .next (((s.putCtx ({ s.placed r c with
        handles := c.handles.filter fun z => decide (z.id ≠ h) }.forget fun z _ => decide (z = h))).putCore m).completed r) ∧ m.id = k.id ∧ m.pool = k.pool ∧
      ∀ b, m.banks.get b = if b ∈ y.banks then { k.banks.get b with owner := none } else k.banks.get b) ∧
  (∀ (s : State) (r : StreamRef) (c : Ctx) (h : HId) (y : Handle),
    s.issuer r c → c.handle h = some y → (c.stream r.st).run = .run →
    ((∃ d ∈ c.cmds, d.seq < s.place r ∧ ∃ x ∈ d.reads ++ d.writes, x.h = h) ∨
      (∃ v, c.vxc = some v ∧ v.seq < s.place r ∧ v.handle = h ∧ (v.kind = 2 ∨ v.kind = 3 ∨ v.kind = 4)) ∨ vHeldUses c (s.place r) h = true) →
    (waiting c (fun x _ => decide (x = h)) = false → exec (.hfree h) s = .next (Claims.waits s r c (.hfree h))) ∧
    (∀ (x : SReg) (v : Nat) (f : Fin 16), y.kind = .tile → 0 < y.rows → v = ((c.stream r.st).sreg x).toNat → v / 2 ^ 48 = 0 →
      v % 2 ^ 40 = 0 → f.val = v / 2 ^ 44 % 16 → (isBx f = true ∨ v / 2 ^ 40 % 16 = 0) → rowBytes f y.cols ≤ y.pitch →
      exec (.hfmt h x) s = .next (Claims.waits s r c (.hfmt h x)))) ∧
  (∀ (s : State) (r : StreamRef) (c : Ctx) (h : HId) (x : SReg) (y : Handle) (k : CoreSt) (v : Nat) (f : Fin 16),
    s.issuer r c → c.handle h = some y → y.kind = .tile → 0 < y.rows → v = ((c.stream r.st).sreg x).toNat → v / 2 ^ 48 = 0 →
    v % 2 ^ 40 = 0 → f.val = v / 2 ^ 44 % 16 → (isBx f = true ∨ v / 2 ^ 40 % 16 = 0) → rowBytes f y.cols ≤ y.pitch →
    handleInUse c (s.place r) h = false → s.core r.ctx.core = some k →
    ∃ (z : Handle) (m : CoreSt), exec (.hfmt h x) s = .next (((s.putCtx ((s.placed r c).putHandle z)).putCore m).completed r) ∧
      z.id = y.id ∧ z.data = y.data ∧ z.rows = y.rows ∧ z.cols = y.cols ∧ z.pitch = y.pitch ∧ z.banks = y.banks ∧ m.id = k.id ∧
      ∀ b, (m.banks.get b).fmt = if b ∈ y.banks then f else (k.banks.get b).fmt)

namespace Sys2Proof.Claims

/-- What the counts that a cycle found at a cell, with the drops and arrivals of the cycle so far, make of the cell (R152): drops lower both
counts, then arrivals lower the pending one; at 0 or less the phase completes once, and the excess is carried into the next. A cell that every
party has dropped from is idle (log 92). -/
def cellAfter (n : CellNow) : Nat :=
  let e := n.expect - n.drops
  let p : Int := n.pend - n.drops - n.arrs
  if p ≤ 0 then mkCell (n.phase + 1) e (if e = 0 then 0 else ((e + p) % 2 ^ 16).toNat) else mkCell n.phase e (p % 2 ^ 16).toNat

/-- What a cycle has counted at a cell, without what was released there. -/
def cellSeen (n : CellNow) : CellNow := { n with dropClk := [], arrClk := [] }

/-- A cell that nothing has reached in this cycle yet. -/
def untouched (c : Ctx) (h : HId) (row : Nat) : Prop := ∀ n ∈ c.cellNow, n.h = h → n.row ≠ row

end Sys2Proof.Claims

/-- R151-R153: setting a cell, arriving at it, and waiting for its phase; the cell's other bytes and everything else of the job but clocks
of the race checker stay. Several arrivals of one cycle count in the order of R152; a cell that is set again forgets those of its former life. A
row that an uncorrectable error has struck traps (R327). -/
def Obligations.PhaseCellsCountArrivals : Prop :=
  (∀ (y : Handle) (row v : Nat), Memory.wf y.data = true → v < 2 ^ 128 → cellRow (y.store row 0 (leBytes 16 v)) row = v) ∧
  (∀ (s : State) (r : StreamRef) (c : Ctx) (h : HId) (row : HRow) (y : Handle) (v : Nat),
    s.issuer r c → c.handle h = some y → y.kind = .cell → row.val < y.rows → v = cellRow y row.val →
    (y.meets row.val 0 16 = true → ∀ i, (i = .parrive h row ∨ i = .pdrop h row ∨ (∃ b, i = .pwait h row b) ∨ ∃ n, i = .pinit h row n) →
      exec i s = .next (trapWord (s.putCtx (s.placed r c)) r ⟨14, 0, 6, 0⟩)) ∧
    (y.meets row.val 0 16 = false →
    (cellPend v = cellExpect v → waiting c (fun a b => decide (a = h) && b == row.val) = false →
      (∀ n : Fin 64, exec (.pinit h row n) s = .next ((s.putCtx (((s.placed r c).putHandle
        (y.store row.val 0 (leBytes 16 (n.val * 2 ^ 32 + n.val * 2 ^ 48)))).forget fun z k => decide (z = h) && k == row.val)).completed r)) ∧
      (∀ (x : SReg) (n : Nat), ((c.stream r.st).sreg x).toNat = n → n < 2 ^ 16 →
        exec (.pinitr h row x) s = .next ((s.putCtx (((s.placed r c).putHandle
          (y.store row.val 0 (leBytes 16 (n * 2 ^ 32 + n * 2 ^ 48)))).forget fun z k => decide (z = h) && k == row.val)).completed r))) ∧
    (∀ (i : Instr) (m : CellNow), Claims.untouched c h row.val → cellPend v ≠ 0 →
      ((i = .parrive h row ∧ m = ⟨y.id, row.val, cellPhase v, cellExpect v, cellPend v, 0, 1, [], []⟩) ∨
        (i = .pdrop h row ∧ m = ⟨y.id, row.val, cellPhase v, cellExpect v, cellPend v, 1, 0, [], []⟩)) →
      ∃ (x : Ctx) (k : CellNow), Claims.cellSeen k = m ∧ exec i s = .next ((s.putCtx x).completed r) ∧
        Claims.leaves c x r (c.putHandle (y.store row.val 0 (leBytes 16 (Claims.cellAfter m)))).handles (c.stream r.st).flight ∧
        x.cellNow = k :: c.cellNow.filter fun o => !(decide (o.h = y.id) && o.row == row.val)) ∧
    (∀ (i : Instr) (n m : CellNow), c.cellNow.find? (fun k => decide (k.h = y.id) && k.row == row.val) = some n → n.pend ≠ 0 →
      ((i = .parrive h row ∧ m = { n with arrs := n.arrs + 1 }) ∨ (i = .pdrop h row ∧ m = { n with drops := n.drops + 1 })) →
      ∃ (x : Ctx) (k : CellNow), Claims.cellSeen k = Claims.cellSeen m ∧ exec i s = .next ((s.putCtx x).completed r) ∧
        Claims.leaves c x r (c.putHandle (y.store row.val 0 (leBytes 16 (Claims.cellAfter m)))).handles (c.stream r.st).flight ∧
        x.cellNow = k :: c.cellNow.filter fun o => !(decide (o.h = y.id) && o.row == row.val)) ∧
    (Claims.untouched c h row.val → cellPend v = 0 → ∀ i, (i = .parrive h row ∨ i = .pdrop h row) →
      exec i s = .next (trapWord (s.putCtx (s.placed r c)) r ⟨5, 6 * 256 + h.val, 6, 0⟩)) ∧
    (∀ b : Bool, v % 2 ≠ (if b then 1 else 0) → ∃ x : Ctx, exec (.pwait h row b) s = .next ((s.putCtx x).completed r) ∧
      Claims.leaves c x r c.handles (c.stream r.st).flight) ∧
    (∀ b : Bool, v % 2 = (if b then 1 else 0) → (c.stream r.st).run = .run →
      exec (.pwait h row b) s = .next (Claims.waits s r c (.pwait h row b)))))

/-- R154, R155: a ring is set, a slot claimed, committed, and freed; the waits for filled and free slots pass when there are k of them, hold
their stream when there are fewer, and are ring misuse (sub-reason 7) when the ring has fewer than k slots. A row that an uncorrectable error has
struck traps all but `RINIT`, which writes it whole (R327). -/
def Obligations.RingsClaimCommitAndFree : Prop :=
  ∀ (s : State) (r : StreamRef) (c : Ctx) (h : HId) (row : HRow) (y : Handle) (g : Ring),
    s.issuer r c → c.handle h = some y → y.kind = .cell → row.val < y.rows → g = ringOf (cellRow y row.val) →
    (∀ (x : SReg) (n : Nat), ((c.stream r.st).sreg x).toNat = n → 1 ≤ n → n ≤ 64 →
      waiting c (fun a b => decide (a = h) && b == row.val) = false →
      ∃ z : Ctx, exec (.rinit h row x) s = .next ((s.putCtx z).completed r) ∧
        Claims.leaves c z r (c.putHandle (y.store row.val 0 (leBytes 16 (n * 2 ^ 32)))).handles (c.stream r.st).flight) ∧
    (y.meets row.val 0 16 = true → ∀ i, ((∃ x, i = .rclaim h row x ∨ i = .rcommit h row x ∨ i = .rfree h row x) ∨
        ∃ k, i = .rwfill h row k ∨ i = .rwfree h row k) →
      exec i s = .next (trapWord (s.putCtx (s.placed r c)) r ⟨14, 0, 6, 0⟩)) ∧
    (y.meets row.val 0 16 = false →
    (∀ x : SReg, g.n ≠ 0 → g.n - g.cl - g.fl ≠ 0 → ∃ z : Ctx, exec (.rclaim h row x) s = .next ((s.putCtx z).completed r) ∧
      Claims.leaves c z r (c.putHandle (y.store row.val 0 (leBytes 16 (ringVal { g with wr := (g.wr + 1) % g.n, cl := g.cl + 1 })))).handles
        ((c.stream r.st).fly (s.place r) (.s x) (BitVec.ofNat 64 g.wr) .interlocked).flight) ∧
    (∀ x : SReg, g.n ≠ 0 → g.n - g.cl - g.fl = 0 → (c.stream r.st).run = .run →
      exec (.rclaim h row x) s = .next (Claims.waits s r c (.rclaim h row x))) ∧
    (∀ (x : SReg) (i : Nat), g.n ≠ 0 → ((c.stream r.st).sreg x).toNat = i → g.claimed i = true →
      ∃ z : Ctx, exec (.rcommit h row x) s = .next ((s.putCtx z).completed r) ∧
        Claims.leaves c z r (c.putHandle (y.store row.val 0 (leBytes 16 (ringVal
          ({ g with cmask := g.cmask + 2 ^ i }.settle g.n))))).handles (c.stream r.st).flight) ∧
    (∀ (k : Fin 64) (i : Instr) (n : Nat), g.n ≠ 0 → ((i = .rwfill h row k ∧ n = g.fl) ∨ (i = .rwfree h row k ∧ n = g.n - g.cl - g.fl)) →
      (k.val ≤ g.n → k.val ≤ n → ∃ z : Ctx, exec i s = .next ((s.putCtx z).completed r) ∧
        Claims.leaves c z r c.handles (c.stream r.st).flight) ∧
      (k.val ≤ g.n → n < k.val → (c.stream r.st).run = .run → exec i s = .next (Claims.waits s r c i)) ∧
      (g.n < k.val → exec i s = .next (trapWord (s.putCtx (s.placed r c)) r ⟨5, 7 * 256 + h.val, 6, 0⟩))) ∧
    (∀ x : SReg, g.n ≠ 0 → g.fl ≠ 0 → ((c.stream r.st).sreg x).toNat = g.rd →
      ∃ z : Ctx, exec (.rfree h row x) s = .next ((s.putCtx z).completed r) ∧
        Claims.leaves c z r (c.putHandle (y.store row.val 0 (leBytes 16
          (ringVal { g with rd := (g.rd + 1) % g.n, fl := g.fl - 1 })))).handles (c.stream r.st).flight) ∧
    (∀ x : SReg, g.n ≠ 0 → g.fl = 0 → exec (.rfree h row x) s =
      .next (trapWord (s.putCtx (s.placed r c)) r ⟨5, 7 * 256 + h.val, 6, 0⟩)))

namespace Sys2Proof.Claims

/-- A tag instance that an arrival, or an arrive-and-drop, of a stream has reached: it is counted when the cycle ends. -/
def tagReached (x y : TagSt) (r : StreamRef) (pc : Word) (drop : Bool) : Prop :=
  y.tag = x.tag ∧ y.die = x.die ∧ y.config = x.config ∧ y.expect = x.expect ∧ y.pend = x.pend ∧ y.phase = x.phase ∧ y.coming = x.coming ∧
  y.reached = x.reached ∧ (∃ k, y.evs = x.evs ++ [(r, pc, drop, k)]) ∧
  y.members = (if drop then x.members.filter (fun m => decide (m ≠ r.ctx.core)) else x.members)

/-- Drops among the arrivals of a cycle. -/
def dropsOf (x : TagSt) : Nat := (x.evs.filter fun e => e.2.2.1).length

end Sys2Proof.Claims

/-- R156, R157: an arrival at a tag that the job may use counts when its cycle ends: the drops lower both counts, then the arrivals the pending
one, and at 0 or less one phase completes, whose completion reaches the members 20 or 60 cycles later (an instance that every party has left
completes no further phase: log 92). A wait passes when the completion of its phase has reached the members, and holds its stream before; `BARR`
arrives and holds at its first execution, and passes when its phase is complete; a wait that lasts `wdog` cycles before that traps with cause 12. -/
def Obligations.BelayTagsCountArrivals : Prop :=
  (∀ (s : State) (r : StreamRef) (c : Ctx) (t : Tag) (x : TagSt), s.issuer r c → tagOf s t r.ctx.core = some x →
    c.card.owned.getLsbD t.val = true → r.ctx.core ∈ x.members → (c.tagV t).last ≠ some x.phase →
    (∀ drop : Bool, ∃ (u : Ctx) (y : TagSt), exec (if drop then .bdrop t else .bara t) s = .next ((putTag (s.putCtx u) y).completed r) ∧
      Claims.tagReached x y r (c.stream r.st).pc drop ∧
      Claims.leaves c u r c.handles (c.stream r.st).flight ∧ u.tagV t = ⟨some x.phase, false⟩) ∧
    ((c.stream r.st).run = .run → (c.stream r.st).joined = [] → x.reached ≤ x.phase →
      ∃ (u : Ctx) (y : TagSt), exec (.barr t) s = .next ((putTag (s.putCtx u) y).ended r) ∧
        Claims.tagReached x y r (c.stream r.st).pc false ∧ u.tagV t = ⟨some x.phase, false⟩ ∧ u.handles = c.handles ∧
        (u.stream r.st).run = .held ⟨.barr t, s.now, s.place r, some (c.stream r.st).s⟩ ∧
        (u.stream r.st).joined = [((c.stream r.st).pc, x.phase)] ∧
        Claims.sameBut c (u.putStream r.st { u.stream r.st with run := .run, joined := [] }))) ∧
  (∀ s : State, s.tags.Pairwise (fun x y => x.tag ≠ y.tag ∨ x.die ≠ y.die) → ∀ x ∈ s.tags, x.evs ≠ [] →
    ∃ y ∈ (settleTags s).tags, y.tag = x.tag ∧ y.die = x.die ∧ y.members = x.members ∧ y.config = x.config ∧ y.evs = [] ∧
      y.reached = x.reached ∧ y.expect = x.expect - Claims.dropsOf x ∧
      (if x.pend - x.evs.length ≤ 0 ∧ 0 < x.expect then
        y.phase = x.phase + 1 ∧ y.coming = x.coming ++ [(x.phase, s.now + if x.die.isSome then 20 else 60)] ∧
        y.pend = (if y.expect ≤ 0 then 0 else y.expect + (x.pend - x.evs.length))
      else y.phase = x.phase ∧ y.coming = x.coming ∧ y.pend = x.pend - x.evs.length)) ∧
  (∀ (s : State) (r : StreamRef) (c : Ctx) (t : Tag) (x : TagSt) (p : Nat), s.issuer r c → tagOf s t r.ctx.core = some x →
    c.card.owned.getLsbD t.val = true → (c.stream r.st).joined = [] → (c.tagV t).last = some p → (c.tagV t).returned = false →
    (p < x.reached → ∃ u : Ctx, exec (.bwait t) s = .next ((s.putCtx u).completed r) ∧ Claims.leaves c u r c.handles (c.stream r.st).flight ∧
      u.tagV t = ⟨some p, true⟩) ∧
    (x.reached ≤ p → (c.stream r.st).run = .run → exec (.bwait t) s = .next ((s.withStream r c { c.stream r.st with
      run := .held ⟨.bwait t, s.now, s.place r, some (c.stream r.st).s⟩, joined := [((c.stream r.st).pc, p)] }).ended r))) ∧
  (∀ (s : State) (r : StreamRef) (c : Ctx) (t : Tag) (x : TagSt) (p n : Nat) (v : Vector Word 64),
    (s.issuer r c ∨ s.holder r c n v) → tagOf s t r.ctx.core = some x →
    (c.stream r.st).joined = [((c.stream r.st).pc, p)] → p < x.reached →
    ∃ u : Ctx, exec (.barr t) s = .next ((s.putCtx u).completed r) ∧ (u.stream r.st).joined = [] ∧ u.id = c.id ∧ u.handles = c.handles) ∧
  (∀ (s : State) (t : Tag) (d : Option Die) (x : TagSt) (p due : Nat) (l : List (Nat × Nat)),
    s.tags.find? (fun y => decide (y.tag = t) && decide (y.die = d)) = some x → x.coming = (p, due) :: l → due ≤ s.now →
    exec (.belayCompletion t d) s = .next (putTag s { x with coming := l, reached := max x.reached (p + 1) })) ∧
  (∀ (s : State) (x : StreamRef) (c : Ctx) (t : Tag) (h : Hold) (y : TagSt) (p : Nat), s.ctx x.ctx = some c →
    (h.word = .bwait t ∨ h.word = .barr t) → (c.stream x.st).run = .held h → (c.stream x.st).stopped = false → c.frozen = false →
    c.atSup = false → tagOf s t x.ctx.core = some y → (c.stream x.st).joined = [((c.stream x.st).pc, p)] → y.reached ≤ p →
    (c.stream x.st).wdog ≤ s.now - h.since →
    exec (.barrierWatchdog x) s = .next (trapWord s x ⟨12, 32 + t.val, 6, 0⟩))

/-- R158, R159, R63, R218: a guard slot is resolved once, which the queue heads see from the next cycle on, and resolving it again is guard
misuse (cause 10); `GCLR` unresolves it when no queue holds a command guarded on it, and waits while one does. -/
def Obligations.GuardSlotsResolveOnce : Prop :=
  ∀ (s : State) (r : StreamRef) (c : Ctx) (g : GSlot), s.issuer r c →
    (c.g.get g = none →
      (∀ i v, ((∃ k, i = .gset g k ∧ v = (c.stream r.st).creg k) ∨ i = .gseti g v) →
        exec i s = .next ((s.putCtx { s.placed r c with
          g := c.g.set g.val (some v) g.isLt, gAt := c.gAt.set g.val (s.now + 1) g.isLt }).completed r)) ∧
      exec (.gclr g) s = .next ((s.putCtx (s.placed r c)).completed r)) ∧
    (∀ b, c.g.get g = some b →
      (∀ v, exec (.gseti g v) s = .next (trapWord (s.putCtx (s.placed r c)) r ⟨10, g.val + 1, 6, 0⟩)) ∧
      (∀ k, exec (.gset g k) s = .next (trapWord (s.putCtx (s.placed r c)) r ⟨10, g.val + 1, 6, 0⟩)) ∧
      ((∀ d ∈ c.cmds, Guard.slot (Instr.guard d.word) ≠ some g) →
        exec (.gclr g) s = .next ((s.putCtx { s.placed r c with g := c.g.set g.val none g.isLt }).completed r)) ∧
      ((∃ d ∈ c.cmds, Guard.slot (Instr.guard d.word) = some g) → (c.stream r.st).run = .run →
        exec (.gclr g) s = .next (Claims.waits s r c (.gclr g))))

namespace Sys2Proof.Claims

/-- Has a packet of the command with this place of a job of the core still to be handed to the router? -/
def packetOwed (s : State) (core : CoreId) (f : Nat → Prop) : Prop :=
  ∃ o ∈ s.router.outbox, o.ctx.core = core ∧ (∃ c ∈ s.ctxs, c.job = o.job) ∧ f o.seq

/-- Has a fabric command handed its last packet to the router (R150)? -/
def handed (s : State) (core : CoreId) (d : Cmd) : Prop :=
  d.prog = .done ∨ (∃ p, d.prog = .push p ∧ p.todo = []) ∨ ∃ t, d.prog = .trav t ∧ (t.announced = true ∨ t.need = []) ∧ ¬packetOwed s core fun n => n = d.seq

/-- Is a command of a path, issued on the core before a place in its order, still in progress as `WAITP` counts it (R150)? -/
def pathBusy (s : State) (core : CoreId) (p : Path) (place : Nat) : Prop :=
  (∃ y ∈ s.ctxs, y.id.core = core ∧ ∃ d ∈ y.issued, d.seq < place ∧ d.paths.getLsbD (pathIdx p) = true ∧ (p = .fabric → ¬handed s core d)) ∨
  (p = .fabric ∧ packetOwed s core fun n => n < place)

/-- A context without the clocks of the race checker in its streams and commands. -/
def clockless (c : Ctx) : Ctx :=
  { c with
    cmds := c.cmds.map fun d => { d with clk := [] }
    st := c.st.map fun t => { t with clk := [] } }

end Sys2Proof.Claims

/-- R19, R20, R150, R160, R161, R226: `FORK` starts a stream that is off or parked, with s1-s15 of its own, waits for one that runs, and refuses
its own; `RDV` parks a stream other than C, and passes in C when the others are parked and no command is left, and waits before; `RDV FIN` ends
the job then; `WAITP` passes when no command of its path, issued earlier on the core, is left, and waits while one is. -/
def Obligations.StreamsForkParkAndJoin : Prop :=
  (∀ (s : State) (r : StreamRef) (c : Ctx) (x : ForkStream) (ro : ForkRole) (o : BitVec 18), s.issuer r c →
    (forkStream x ≠ r.st → ((c.stream (forkStream x)).run = .off ∨ (c.stream (forkStream x)).run = .parked) →
    ∃ u : Stream, exec (.fork x ro o) s = .next ((s.putCtx ((s.placed r c).putStream (forkStream x) u)).completed r) ∧
      u.pc = BitVec.ofNat 64 (((c.stream r.st).pc + (o.signExtend 64 <<< 2)).toNat % 2 ^ 52 / 4 * 4) ∧ u.run = .run ∧ u.slots = 0 ∧
      u.xfer = none ∧ u.flight = [] ∧ u.mode = r.ctx.core.isSup ∧ u.fflags = 0 ∧ u.round = 0 ∧
      (∀ n : SReg, n ≠ 0 → u.sreg n = if n.val ≤ 15 then (c.stream r.st).sreg n else 0) ∧ (∀ n, u.breg n = 0) ∧ (∀ n, u.creg n = false) ∧
      u.role = (match ro with | .loader => 0 | .arith => 1 | .epilogue => 2 | .default => defaultRole (forkStream x))) ∧
    (forkStream x ≠ r.st → (c.stream (forkStream x)).run ≠ .off → (c.stream (forkStream x)).run ≠ .parked → (c.stream r.st).run = .run →
      exec (.fork x ro o) s = .next (Claims.waits s r c (.fork x ro o))) ∧
    (forkStream x = r.st → exec (.fork x ro o) s = .next (trapWord (s.putCtx (s.placed r c)) r (illegal (.fork x ro o) 2)))) ∧
  (∀ (s : State) (r : StreamRef) (c : Ctx), s.issuer r c → r.st ≠ .C →
    exec .rdv s = .next ((s.withStream r c { c.stream r.st with run := .parked, aged := 0 }).ended r)) ∧
  (∀ (s : State) (r : StreamRef) (c : Ctx), s.issuer r c → r.st = .C →
    ((∀ i, i ≠ .C → (c.stream i).run = .off ∨ (c.stream i).run = .parked) → c.cmds = [] → c.vxc = none →
      exec .rdv s = .next ((s.putCtx (s.placed r c)).completed r) ∧
      (r.ctx.core.isSup = false → ∃ t, exec .rdvFin s = .next t ∧ t.ctx r.ctx = none)) ∧
    (((∃ i, i ≠ .C ∧ (c.stream i).run ≠ .off ∧ (c.stream i).run ≠ .parked) ∨ c.cmds ≠ [] ∨ c.vxc ≠ none) → (c.stream r.st).run = .run →
      exec .rdv s = .next (Claims.waits s r c .rdv) ∧ exec .rdvFin s = .next (Claims.waits s r c .rdvFin))) ∧
  (∀ (s : State) (r : StreamRef) (c : Ctx) (p : Path), s.issuer r c →
    (¬Claims.pathBusy s r.ctx.core p (s.place r) →
      ∃ t : State, exec (.waitp p) s = .next (t.completed r) ∧ { t with ctxs := [] } = { s with ctxs := [] } ∧
        t.ctxs.map Claims.clockless = (s.putCtx (s.placed r c)).ctxs.map Claims.clockless ∧
        ((p ≠ .fabric ∨ ∀ y ∈ s.ctxs, y.id.core = r.ctx.core → y.cmds = []) →
          ∃ k : Clock, t = s.withStream r c { c.stream r.st with clk := k })) ∧
    (Claims.pathBusy s r.ctx.core p (s.place r) → (c.stream r.st).run = .run → exec (.waitp p) s = .next (Claims.waits s r c (.waitp p))))

/-! ## Adjoint mode and the tensor table (spec/09_fabric_adjoint_system.md) -/

namespace Sys2Proof.Claims

/-- Outside primal mode, the D-region that an access of a job meets: the first in address order whose bytes it touches (R199). -/
def meetsRegion (c : Ctx) (va n : Nat) (x : DRegion) : Prop := c.dmode ≠ 0 ∧ c.dregs.find? (fun y => y.touches va n) = some x

/-- A word takes an exception as it issues. -/
def trapsWith (s : State) (r : StreamRef) (c : Ctx) (i : Instr) (k : Cause) : Prop := exec i s = .next (trapWord (accessState s r c) r k)

end Sys2Proof.Claims

/-- R197, R198, R201, R263: registering and releasing a D-region in primal mode, and the trap outside it; setting the mode in the C stream
when no other stream runs and no command and no vector word is left, and the words of the tape registers; `DMODE` and `TREAD` wait for what
was issued before. Which earlier commands may still push, and so hold `TREAD`, is the model's reading of R201 (log 32). R264-R268, R270: a
push writes the record of Table 14.2 at `pos` and moves `pos` on, or traps where the tape ends or lies in a D-region or a shadow window; a
record-mode write checks its element, pushes it, and writes; an accumulation is an atomic pair at the shadow cell of Table 14.1, rounded by
RNE; a pop of one element checks the tape, its record and its cell, then takes the adjoint, clears the cell, restores the element and moves
`pos` back. R199, R264, R271, R275: scalar accesses, atomics, and `VLDM` and `VSTM` that meet a D-region outside primal mode. One across its
edge, one of another width than its data, and an atomic in reverse mode trap with the d-index. A record-mode load is plain, a store records
its elements; in reverse mode a load accumulates the adjoint in its register, which it leaves as it is, and a store pops its elements into
its register. The region that is named where an access meets two (log 30), the order in which the tape and the windows are checked (log 49),
and the lane by which a 64-bit element moves (log 53) are the model's. -/
def Obligations.AdjointWordsSetTheirState : Prop :=
  ((∀ (s u : State) (r : StreamRef) (c : Ctx) (x : Fin 64) (y : SReg) (v : Nat) (d : DRegion),
    s.issuer r c → v = ((c.stream r.st).sreg y).toNat → v / 2 ^ 58 = 0 → v / 2 ^ 56 % 4 ≠ 3 → c.dmode = 0 →
    d.idx = x → d.base = v % 2 ^ 40 * 4096 → d.pages = v / 2 ^ 40 % 2 ^ 16 + 1 → d.type.val = v / 2 ^ 56 % 4 →
    d.base + d.pages * 4096 ≤ 2 ^ 49 → (∀ z ∈ c.dregs, z.idx ≠ x ∧ z.touches d.base (d.pages * 4096) = false) →
    checkDregPages (Claims.accessState s r c) (Claims.accessWho s r c) d.base d.pages = .ok u →
    exec (.dreg x y) s = .next ((u.putCtx { s.placed r c with dregs := insertRegion d c.dregs }).completed r)) ∧
  (∀ (s : State) (r : StreamRef) (c : Ctx) (x : Fin 64), s.issuer r c → c.dmode = 0 →
    exec (.dunreg x) s = .next ((s.putCtx { s.placed r c with dregs := c.dregs.filter fun z => decide (z.idx ≠ x) }).completed r)) ∧
  (∀ (s : State) (r : StreamRef) (c : Ctx) (x : Fin 64) (y : SReg) (v : Nat), s.issuer r c → c.dmode ≠ 0 →
    exec (.dunreg x) s = .next (trapWord (s.putCtx (s.placed r c)) r ⟨7, x.val, 6, 0⟩) ∧
    (v = ((c.stream r.st).sreg y).toNat → v / 2 ^ 58 = 0 → v / 2 ^ 56 % 4 ≠ 3 →
      exec (.dreg x y) s = .next (trapWord (s.putCtx (s.placed r c)) r ⟨7, x.val, 6, 0⟩))) ∧
  (∀ (s : State) (r : StreamRef) (c : Ctx) (m : DMode), s.issuer r c → r.st = .C →
    (∀ i, i ≠ .C → (c.stream i).run = .off ∨ (c.stream i).run = .parked) →
    (c.cmds = [] → c.vxc = none → (∀ f ∈ (c.stream .C).flight, f.vector = false) →
      exec (.dmode m) s = .next ((s.putCtx { s.placed r c with
        dmode := match m with | .primal => 0 | .record => 1 | .reverse => 2 }).completed r)) ∧
    ((c.cmds ≠ [] ∨ c.vxc ≠ none) → (c.stream r.st).run = .run → exec (.dmode m) s = .next (Claims.waits s r c (.dmode m)))) ∧
  (∀ (s : State) (r : StreamRef) (c : Ctx) (x : SReg), s.issuer r c →
    ((c.dmode ≠ 1 ∨ c.cmds = []) →
      exec (.tread x) s = .next ((s.withStream r c ((c.stream r.st).fly (s.place r) (.s x) c.tapePos .interlocked)).completed r)) ∧
    (c.dmode = 1 → (∃ d ∈ c.cmds, d.seq < s.place r ∧ d.inverts (Claims.accessState s r c) (s.placed r c) = true) →
      ((c.stream r.st).mode = false ∨ r.ctx.core.isSup = true) → (c.stream r.st).run = .run →
      exec (.tread x) s = .next (Claims.waits s r c (.tread x))) ∧
    (∀ v : Word, (c.stream r.st).sreg x = v → v.toNat < 2 ^ 52 →
      (v.toNat % 16 = 0 →
        exec (.tlim x) s = .next ((s.putCtx { s.placed r c with tapeLim := v }).completed r) ∧
        exec (.tset x) s = .next ((s.putCtx { s.placed r c with tapePos := v }).completed r)) ∧
      (v.toNat % 16 = 1 → exec (.tset x) s = .next ((s.putCtx { s.placed r c with tapeBase := v - 1 }).completed r))))) ∧
  ((dtSize 0 = 4 ∧ dtSize 1 = 2 ∧ dtSize 2 = 8 ∧ cellSize 0 = 4 ∧ cellSize 1 = 4 ∧ cellSize 2 = 8 ∧
    ∀ a, shadowOf 0 a = 0x0008000000000000 + a ∧ shadowOf 1 a = 0x000C000000000000 + 2 * a ∧ shadowOf 2 a = 0x0008000000000000 + a) ∧
  (∀ (s : State) (x : CtxId) (w : Who) (c : Ctx) (old k va pos : Nat), s.ctx x = some c → pos = c.tapePos.toNat →
    (c.tapeLim.toNat < pos + 16 → pushTape s x w old k va = .fail 8 0 0) ∧
    (pos + 16 ≤ c.tapeLim.toNat → (inShadow pos = true ∨ ∃ r ∈ c.dregs, r.touches pos 16 = true) → pushTape s x w old k va = .fail 7 66 0) ∧
    (pos + 16 ≤ c.tapeLim.toNat → inShadow pos = false → (∀ r ∈ c.dregs, r.touches pos 16 = false) → c.tapeBase.toNat ≤ pos →
      ∀ (t : State) (d : Ctx), storeVirt s w .store false pos
          (leBytes 16 (old * 2 ^ 64 + (pos - c.tapeBase.toNat) / 16 % 1024 * 2 ^ 54 + k * 2 ^ 52 + va % 2 ^ 52)) = .ok t → t.ctx x = some d →
        pushTape s x w old k va = .ok (t.putCtx { d with tapePos := BitVec.ofNat 64 (pos + 16) }))) ∧
  (∀ (s : State) (x : CtxId) (w : Who) (k : Fin 4) (a : Nat) (bs : List Byte) (m : MemSt) (ps : List Piece) (u t : State),
    (a % dtSize k ≠ 0 → recordElem s x w k a bs = .fail 3 0 a) ∧
    (a % dtSize k = 0 → checkAccess s.mem s.hub s.free w .store false a bs.length = .ok (m, ps) →
      pushTape (s.setMem m) x w (leValue (readPieces m w .store ps).1) (if k = 0 then 1 else if k = 1 then 0 else 2) a = .ok u →
      storeVirt u w .store false a bs = .ok t → recordElem s x w k a bs = .ok t)) ∧
  (∀ (s : State) (w : Who) (x : DRegion) (a : Nat) (g : Machine.Num) (m : MemSt) (ps : List Piece) (old : List Byte) (u : State),
    (a % dtSize x.type ≠ 0 → accumCell s w x a g = .fail 3 0 a) ∧
    (a % dtSize x.type = 0 →
      checkAccess s.mem s.hub s.free (Who.atCell (w.fresh s) s x a) .atomic false (shadowOf x.type a) (cellSize x.type) = .ok (m, ps) →
      ((∃ p ∈ ps, p.leaf.coh = false) → accumCell s w x a g = .fail 7 x.idx.val (shadowOf x.type a)) ∧
      ((∀ p ∈ ps, p.leaf.coh = true) →
        atomicVirt (s.setMem m) (w.fresh s) (shadowOf x.type a) (cellSize x.type) (fun b => some (leBytes (cellSize x.type)
          ((cellFmt x.type).result .rne false (Machine.Num.add .rne ((cellFmt x.type).decode (leValue b)) g).1).1)) = .ok (old, u) →
        ∃ fl, accumCell s w x a g = .ok (u, fl)))) ∧
  (∀ (s : State) (x : CtxId) (w : Who) (c : Ctx) (e : DRegion) (a pos : Nat) (bs : List Byte) (q t u z : State) (d : Ctx) (old : List Byte),
    s.ctx x = some c → pos = c.tapePos.toNat →
    (pos - c.tapeBase.toNat < 16 → popBlock s x w [(e, a)] = .fail 7 64 0) ∧
    (16 ≤ pos - c.tapeBase.toNat → loadVirt s w .load false (pos - 16) 16 = .ok (bs, q) →
      ((leValue (bs.take 8) % 2 ^ 52 ≠ a % 2 ^ 52 ∨ leValue (bs.take 8) / 2 ^ 52 % 4 ≠ dtWidthCode e.type) →
        popBlock s x w [(e, a)] = .fail 7 65 0) ∧
      (leValue (bs.take 8) % 2 ^ 52 = a % 2 ^ 52 → leValue (bs.take 8) / 2 ^ 52 % 4 = dtWidthCode e.type → checkPop q w [(e, a)] = .ok t →
        atomicVirt t ((Who.atCell w t e a).fresh t) (shadowOf e.type a) (cellSize e.type)
          (fun _ => some (leBytes (cellSize e.type) 0)) = .ok (old, u) →
        storeVirt u { (Who.atCell w t e a).fresh u with
            clk := Clock.join ((Who.atCell w t e a).fresh u).clk (Who.atCell w t e a).clk } .store false a
          (leBytes (dtSize e.type) (leValue ((bs.drop 8).take 8))) = .ok z → z.ctx x = some d →
        popBlock s x w [(e, a)] = .ok ([leValue old], z.putCtx { d with tapePos := BitVec.ofNat 64 (pos - 16) }))))) ∧
  ((∀ (s : State) (r : StreamRef) (c : Ctx) (i : Instr) (d a : SReg) (o : BitVec 11) (n va : Nat) (sx dev : Bool) (x : DRegion),
    s.issuer r c → Claims.loadForm i = some (d, a, o, n, sx, dev) → va = Claims.addressOf (c.stream r.st) a o → Claims.meetsRegion c va n x →
    ((x.covers va n = false ∨ n ≠ dtSize x.type) → Claims.trapsWith s r c i ⟨7, x.idx.val, 0, 0⟩) ∧
    (x.covers va n = true → n = dtSize x.type →
      (c.dmode = 1 → ∀ bs u, loadVirt (Claims.accessState s r c) (Claims.accessWho s r c) .load dev va n = .ok (bs, u) →
        exec i s = .next ((u.putStream r ((c.stream r.st).fly (s.place r) (.s d) (Claims.extended sx bs) .interlocked)).completed r)) ∧
      (c.dmode ≠ 1 → ∀ u fl, accumCell (Claims.accessState s r c) (Claims.accessWho s r c) x va
          (if x.type = 2 then f64.decode ((c.stream r.st).sreg d).toNat else f32.decode (((c.stream r.st).sreg d).toNat % 2 ^ 32)) = .ok (u, fl) →
        exec i s = .next ((u.mapStream r fun t => t.orFlags fl).completed r)))) ∧
  (∀ (s : State) (r : StreamRef) (c : Ctx) (i : Instr) (v a : SReg) (o : BitVec 11) (n va : Nat) (dev : Bool) (x : DRegion),
    s.issuer r c → Claims.storeForm i = some (v, a, o, n, dev) → va = Claims.addressOf (c.stream r.st) a o → Claims.meetsRegion c va n x →
    ((x.covers va n = false ∨ n ≠ dtSize x.type) → Claims.trapsWith s r c i ⟨7, x.idx.val, 0, 0⟩) ∧
    (x.covers va n = true → n = dtSize x.type →
      (c.dmode = 1 → ∀ g, recordElem (Claims.accessState s r c) r.ctx (Claims.accessWho s r c) x.type va
          (leBytes n ((c.stream r.st).sreg v).toNat) = g →
        (∀ u, g = .ok u → exec i s = .next (u.completed r)) ∧ (∀ k d e, g = .fail k d e → Claims.trapsWith s r c i ⟨k, d, 0, e⟩)) ∧
      (c.dmode ≠ 1 → ∀ g, popBlock (Claims.accessState s r c) r.ctx (Claims.accessWho s r c) [(x, va)] = g →
        (∀ b u, g = .ok ([b], u) → exec i s = .next ((u.mapStream r fun t =>
          t.fly (s.place r) (.s v) (BitVec.ofNat 64 b) .interlocked).completed r)) ∧
        (∀ k d e, g = .fail k d e → Claims.trapsWith s r c i ⟨k, d, 0, e⟩)))) ∧
  (∀ (s : State) (r : StreamRef) (c : Ctx) (d a : SReg) (o : BitVec 11) (x : DRegion),
    s.issuer r c → Claims.meetsRegion c (Claims.addressOf (c.stream r.st) a o) 16 x →
    Claims.trapsWith s r c (.lq d a o) ⟨7, x.idx.val, 0, 0⟩ ∧ Claims.trapsWith s r c (.sq d a o) ⟨7, x.idx.val, 0, 0⟩) ∧
  (∀ (s : State) (r : StreamRef) (c : Ctx) (i : Instr) (a d : SReg) (n : Nat) (f : Nat → Option Nat) (sx : Bool) (va : Nat) (x : DRegion),
    s.issuer r c → Claims.atomicForm (c.stream r.st) i = some (a, d, n, f, sx) → va = ((c.stream r.st).sreg a).toNat → va % n = 0 →
    Claims.meetsRegion c va n x →
    ((x.covers va n = false ∨ c.dmode = 2 ∨ n ≠ dtSize x.type) → Claims.trapsWith s r c i ⟨7, x.idx.val, 0, 0⟩) ∧
    (x.covers va n = true → c.dmode = 1 → n = dtSize x.type → ∀ (w : Who) (m : MemSt) (ps : List Piece) (u z : State) (old : List Byte),
      w = { Claims.accessWho s r c with
        clk := Clock.join (Claims.accessWho s r c).clk (atomAcquire (Claims.accessState s r c) (Claims.accessWho s r c) va n) } →
      checkAccess s.mem s.hub s.free w .atomic false va n = .ok (m, ps) →
      pushTape ((Claims.accessState s r c).setMem m) r.ctx w (leValue (readPieces m (Claims.accessWho s r c) .atomic ps).1)
        (dtWidthCode x.type) va = .ok u →
      atomicVirt u (Claims.accessWho s r c) va n (fun b => (f (leValue b)).map (leBytes n)) = .ok (old, z) →
      exec i s = .next ((z.mapStream r fun t => t.fly (s.place r) (.s d) (Claims.extended sx old) .interlocked).completed r))) ∧
  (∀ (s : State) (r : StreamRef) (c : Ctx) (v : VReg) (q : SReg) (o : BitVec 8) (p : Fin 8) (va n : Nat) (pr : BitVec 64) (x : DRegion)
    (es : List (Nat × Nat)),
    s.issuer r c → r.st = .C → va = ((c.stream r.st).sreg q + (o.signExtend 64 <<< 8)).toNat → va % 4 = 0 →
    pr = c.preg (p.castLE (by decide)) → n = dtSize x.type → es = vElems x pr va →
    (∀ k, vAccess c (vruns pr va) = .straddles k →
      Claims.trapsWith s r c (.vldm v q o p) ⟨7, k, 1, 0⟩ ∧ Claims.trapsWith s r c (.vstm v q o p) ⟨7, k, 1, 0⟩) ∧
    (vAccess c (vruns pr va) = .inside x →
      (c.dmode ≠ 1 → ∀ (t u : State) (fl : FFlags),
        checkCells (Claims.accessState s r c) (Claims.accessWho s r c) (es.map fun e => (x, e.2)) = .ok t →
        accumCells t (Claims.accessWho s r c) 0 (es.map fun e => ((x, e.2), vAdjoint x (velem (c.vreg v) (8 * n) e.1))) = .ok (u, fl) →
        exec (.vldm v q o p) s = .next ((u.mapStream r fun y => y.flyFlags (s.place r) (.v v) 0 fl .interlocked).completed r)) ∧
      (c.dmode = 1 → ∀ (m : MemSt) (ps : List Piece) (u : State) (k : Nat) (l : List (Fin 4 × Nat × List Byte)),
        checkRuns s.mem s.hub s.free (Claims.accessWho s r c) .store (vruns pr va) = .ok (m, ps) → k = (s.here r c).tapedAt →
        l = (es.map fun e => (x.type, e.2, leBytes n (velem (c.vreg v) (8 * n) e.1))).drop k →
        ((∃ j, recordElems ((Claims.accessState s r c).setMem m) r.ctx (Claims.accessWho s r c) k l = (u, j, .ok ())) →
          exec (.vstm v q o p) s = .next ((u.mapStream r fun y => { y with taped := none }).completed r)) ∧
        (∀ j f d e, recordElems ((Claims.accessState s r c).setMem m) r.ctx (Claims.accessWho s r c) k l = (u, j, .fail f d e) →
          exec (.vstm v q o p) s = .next (trapWord (u.mapStream r fun y => { y with taped := some ((c.stream r.st).pc, j, (s.here r c).place) }) r ⟨f, d, 1, e⟩))) ∧
      (c.dmode ≠ 1 → ∀ (l : List Nat) (u : State),
        popBlock (Claims.accessState s r c) r.ctx (Claims.accessWho s r c) (es.map fun e => (x, e.2)) = .ok (l, u) →
        ∃ (y : BitVec 2048) (fl : FFlags), exec (.vstm v q o p) s = .next (((u.mapCtx r.ctx fun b => b.setV v y).mapStream r fun b =>
            b.flyFlags (s.place r) (.v v) 0 fl .interlocked).completed r) ∧
          (∀ j < 2048 / (8 * n), velem y (8 * n) j = match assocFind ((es.map fun e => e.1).zip l) j with
            | some b => (Claims.poppedBits x b).1 % 2 ^ (8 * n)
            | none => velem (c.vreg v) (8 * n) j) ∧
          fl = l.foldl (fun f b => f ||| (Claims.poppedBits x b).2) 0))))

/-- R202, R203, R259: `SREAD` delivers the fields of an entry, or the header's two counters; `SSTEP` and `SSKIP` change every named entry, and
then add 1 to their counter of the header; they wait for the captures issued before. -/
def Obligations.TensorTableWordsReadAndStep : Prop :=
  (∀ (s t u : State) (r : StreamRef) (c : Ctx) (x y : SReg) (v : Nat) (bs : List Byte), s.issuer r c → v = ((c.stream r.st).sreg y).toNat →
    (v = 2 ^ 12 → tableCheck (Claims.accessState s r c) (s.placed r c) (Claims.accessWho s r c) .load 0 none = .ok t →
      loadVirt t (Claims.accessWho s r c) .load false c.card.tt.toNat 8 = .ok (bs, u) →
      exec (.sread x y) s = .next ((u.putStream r ((c.stream r.st).fly (s.place r) (.s x) (BitVec.ofNat 64 (leValue bs)) .interlocked)).completed r)) ∧
    (v < 2 ^ 12 → tableCheck (Claims.accessState s r c) (s.placed r c) (Claims.accessWho s r c) .load 0 (some v) = .ok t →
      loadVirt t (Claims.accessWho s r c) .load false (entryFields c v) 52 = .ok (bs, u) →
      exec (.sread x y) s = .next ((u.putStream r ((c.stream r.st).fly (s.place r) (.s x)
        (BitVec.ofNat 64 (teMax (leValue bs * 2 ^ 32) + teK (leValue bs * 2 ^ 32) * 2 ^ 32 + teFill (leValue bs * 2 ^ 32) * 2 ^ 40))
        .interlocked)).completed r))) ∧
  (∀ (s t u z : State) (r : StreamRef) (c : Ctx) (x : SReg) (v e n : Nat) (i : Instr) (f : Nat → Nat) (tgt : Bool) (o : Nat),
    s.issuer r c → v = ((c.stream r.st).sreg x).toNat → v < 2 ^ 24 → e = v % 2 ^ 12 → n = v / 2 ^ 12 → e + n < 4096 →
    ((i = .sstep x ∧ f = teStep ∧ tgt = true ∧ o = 0) ∨ (i = .sskip x ∧ f = teSkip ∧ tgt = false ∧ o = 4)) →
    ((∃ d ∈ c.cmds, d.seq < s.place r ∧ isCapture d.word = true) → (c.stream r.st).run = .run →
      exec i s = .next (Claims.waits s r c i)) ∧
    ((∀ d ∈ c.cmds, isCapture d.word = false) →
      scaleChecks (Claims.accessState s r c) (s.placed r c) (Claims.accessWho s r c) tgt o e (n + 1) = .ok t →
      entryUpdates t (s.placed r c) (Claims.accessWho s r c) tgt f e (n + 1) = .ok u → headerCount u (s.placed r c) (Claims.accessWho s r c) o = .ok z →
      exec i s = .next (z.completed r)))

/-! ## System words (spec/09_fabric_adjoint_system.md, Table 4.11) -/

namespace Sys2Proof.Claims

/-- A K word of supervisor core 0 issues: in its C stream, with `mode` 1. -/
def supIssuer (s : State) (r : StreamRef) (c : Ctx) : Prop :=
  s.issuer r c ∧ r.st = .C ∧ (c.stream .C).mode = true ∧ r.ctx.core.isSup = true

/-- A stream after a word whose result has landed when it completes (Table 2.8): register `d` reads `v`; its other registers, its flags and
its place are as before. -/
def landedNow (t u : Stream) (d : SReg) (v : Word) : Prop :=
  (∀ q, q ≠ 0 → u.sreg q = if q = d then v else t.sreg q) ∧ (∀ q, u.breg q = t.breg q) ∧ (∀ q, u.creg q = t.creg q) ∧ u.pc = t.pc ∧
  u.slots = t.slots ∧ u.xfer = t.xfer ∧ u.fflags = t.fflags ∧ u.mode = t.mode ∧ u.epc = t.epc ∧ u.ecause = t.ecause

/-- A stream that a word holds, unless one holds it already. -/
def holding (h : Hold) (u : Stream) : Stream :=
  match u.run with
  | .held _ => u
  | _ => { u with run := .held h }

end Sys2Proof.Claims

/-- R205, R207, Table 9.12: `CSRR` and `CSRW` reach the registers of the stream itself, of a stream of its job that is stopped, parked or never
forked, and, from supervisor core 0, of a stopped job; those of an empty context read 0 and ignore a write. One that names a stream that is live,
or a job that runs, is a protection trap. R207 names stopped and never forked streams: that a parked or ended one is reached too is the model's
reading (log 28). -/
def Obligations.SystemRegistersOfStoppedStreams : Prop :=
  (∀ (s : State) (r : StreamRef) (c : Ctx) (d a : SReg) (n : SysReg), s.issuer r c → r.st = .C → (c.stream .C).mode = true → a = 0 →
    (∃ u : Stream, exec (.csrr d a n) s = .next ((s.withStream r c u).completed r) ∧
      Claims.landedNow (c.stream r.st) u d (readSys s c (c.stream r.st) (c.stream r.st).advance.pc n)) ∧
    exec (.csrw d a n) s = .next ((s.putCtx (writeSys (s.placed r c) r.st n ((c.stream r.st).sreg d))).completed r)) ∧
  (∀ (s : State) (r : StreamRef) (c : Ctx) (d a : SReg) (n : SysReg) (x : StreamId), s.issuer r c → r.st = .C → (c.stream .C).mode = true →
    a ≠ 0 → ((c.stream r.st).sreg a).toNat = 2 ^ 63 + streamEng x → x ≠ .C →
    ((c.stream x).stopped = false → (c.stream x).run.live = true → ∀ i, (i = .csrr d a n ∨ i = .csrw d a n) →
      exec i s = .next (trapWord (s.putCtx (s.placed r c)) r ⟨5, ((c.stream r.st).sreg a).toNat % 2 ^ 16, 7, 0⟩)) ∧
    (((c.stream x).stopped = true ∨ (c.stream x).run.live = false) →
    (∃ u : Stream, exec (.csrr d a n) s = .next ((s.withStream r c u).completed r) ∧
      Claims.landedNow (c.stream r.st) u d (readSys s c (c.stream x) (c.stream x).pc n)) ∧
    exec (.csrw d a n) s = .next ((s.putCtx (writeSys (s.placed r c) x n ((c.stream r.st).sreg d))).completed r))) ∧
  (∀ (s : State) (r : StreamRef) (c : Ctx) (d a : SReg) (n : SysReg) (x : StreamId) (die : Die) (k : Fin 96) (m : Fin 2),
    Claims.supIssuer s r c → a ≠ 0 → ((c.stream r.st).sreg a).toNat = die.val * 2 ^ 11 + k.val * 2 ^ 4 + m.val * 2 ^ 3 + streamEng x →
    s.ctx ⟨.core die k, m⟩ = none →
    (∃ u : Stream, exec (.csrr d a n) s = .next ((s.withStream r c u).completed r) ∧ Claims.landedNow (c.stream r.st) u d 0) ∧
    exec (.csrw d a n) s = .next ((s.putCtx (s.placed r c)).completed r)) ∧
  (∀ (s : State) (r : StreamRef) (c y : Ctx) (d a : SReg) (n : SysReg) (x : StreamId) (die : Die) (k : Fin 96) (m : Fin 2),
    Claims.supIssuer s r c → a ≠ 0 → ((c.stream r.st).sreg a).toNat = die.val * 2 ^ 11 + k.val * 2 ^ 4 + m.val * 2 ^ 3 + streamEng x →
    s.ctx ⟨.core die k, m⟩ = some y →
    (jobRuns y = false →
      (∃ u : Stream, exec (.csrr d a n) s = .next ((s.withStream r c u).completed r) ∧
        Claims.landedNow (c.stream r.st) u d (readSys s y (y.stream x) (y.stream x).pc n)) ∧
      exec (.csrw d a n) s = .next (((s.putCtx (s.placed r c)).putCtx (writeSys y x n ((c.stream r.st).sreg d))).completed r)) ∧
    (jobRuns y = true → ∀ i, (i = .csrr d a n ∨ i = .csrw d a n) → exec i s = .next (trapWord (s.putCtx (s.placed r c)) r
      ⟨5, ((c.stream r.st).sreg a).toNat % 2 ^ 16, 7, 0⟩)))

/-- R208, R261, R262: `TLBI` removes the cached translations that it covers, and nothing else; `KEYSET` sets or erases one key index, and
leaves everything but cached lines of that key as it is. That `TLBI key` also drops the leaves of key 0, which take their region's, and that
`TLBI page` acts in every region is the model's reading (log 19), and so is that `KEYSET` looks at no more of its block than the index, the
bit and the keys (log 18). It waits while a dirty line of the key cannot be written back (R323). R208, R246, R257, R331: `MBX` takes a new
message and clears its mark, or delivers 0; `MCLOAD` replaces a core's microcode and measures it (`at.m2` is extended by the image itself:
log 103), and waits while a layer macro runs there; `HALT` stops supervisor core 0 and records its code. -/
def Obligations.SystemWordsReplaceTheirState : Prop :=
  ((∀ (s : State) (r : StreamRef) (c : Ctx) (a : SReg) (v : Nat), Claims.supIssuer s r c → v = ((c.stream r.st).sreg a).toNat →
    (∃ l : List TlbEntry, exec (.tlbiPage a) s = .next (((s.putCtx (s.placed r c)).setMem { s.mem with tlb := l }).completed r) ∧
      ∀ e, e ∈ l ↔ e ∈ s.mem.tlb ∧ ¬(e.page ≤ v ∧ v < e.page + e.size)) ∧
    (∃ l : List TlbEntry, exec (.tlbiKey a) s = .next (((s.putCtx (s.placed r c)).setMem { s.mem with tlb := l }).completed r) ∧
      ∀ e, e ∈ l ↔ e ∈ s.mem.tlb ∧ e.leaf / 2 ^ 49 % 2 ^ 12 ≠ v % 2 ^ 12 ∧ e.leaf / 2 ^ 49 % 2 ^ 12 ≠ 0) ∧
    exec (.tlbiAll a) s = .next (((s.putCtx (s.placed r c)).setMem { s.mem with tlb := [] }).completed r)) ∧
  (∀ (s u : State) (r : StreamRef) (c : Ctx) (a : SReg) (bs : List Byte), Claims.supIssuer s r c → ((c.stream r.st).sreg a).toNat % 16 = 0 →
    loadVirt (Claims.accessState s r c) (Claims.accessWho s r c) .load false ((c.stream r.st).sreg a).toNat 80 = .ok (bs, u) →
    (∀ x ∈ u.mem.dieLines, x.key = leValue bs % 2 ^ 12 → x.dirty ≠ 0 → stackReady u.hub (x.line * 128) = true) →
    ∃ m : MemSt, exec (.keyset a) s = .next ((u.setMem m).completed r) ∧
      assocFind m.keys (leValue bs % 2 ^ 12) = (if leValue bs / 2 ^ 16 % 2 = 1 then
        some (BitVec.ofNat 256 (leValue bs / 2 ^ 128), BitVec.ofNat 256 (leValue bs / 2 ^ 384)) else none) ∧
      (∀ k, k ≠ leValue bs % 2 ^ 12 → assocFind m.keys k = assocFind u.mem.keys k) ∧ m.tlb = u.mem.tlb ∧
      ((∀ x ∈ u.mem.dieLines, x.key ≠ leValue bs % 2 ^ 12) → m = { u.mem with keys := m.keys }))) ∧
  ((∀ (s : State) (r : StreamRef) (c : Ctx) (d a : SReg) (m : Fin 64), Claims.supIssuer s r c → ((c.stream r.st).sreg a).toNat % 4096 = 0 →
    ((s.hub.mail.get m).new = false → ∃ v : Stream, exec (.mbx d a m) s = .next ((s.withStream r c v).completed r) ∧
      Claims.landedNow (c.stream r.st) v d 0) ∧
    (∀ u : State, (s.hub.mail.get m).new = true →
      storeVirt (Claims.accessState s r c) (Claims.accessWho s r c) .store false ((c.stream r.st).sreg a).toNat
        (fillBytes 4096 (s.hub.mail.get m).buf) = .ok u →
      ∃ v : Stream, exec (.mbx d a m) s = .next (((u.setHub { u.hub with
          mail := u.hub.mail.set m.val { s.hub.mail.get m with new := false } m.isLt }).putStream r v).completed r) ∧
        Claims.landedNow (c.stream r.st) v d
          (BitVec.ofNat 64 (2 ^ 63 + (s.hub.mail.get m).len.toNat * 2 ^ 32 + (s.hub.mail.get m).seq.toNat)))) ∧
  (∀ (s u : State) (r : StreamRef) (c : Ctx) (a : SReg) (g : Fin 256) (bs : List Byte) (k : CoreSt), Claims.supIssuer s r c →
    ((c.stream r.st).sreg a).toNat % 128 = 0 → (∀ x ∈ s.ctxs, x.id.core = gCore g → macroOf x = none) →
    loadVirt (Claims.accessState s r c) (Claims.accessWho s r c) .load false ((c.stream r.st).sreg a).toNat 131072 = .ok (bs, u) →
    u.core (gCore g) = some k →
    ∃ n : CoreSt, exec (.mcload a g) s = .next (((u.setHub { u.hub with m2 := shake256 (bytes512 u.hub.m2 ++ bs) }).putCore n).completed r) ∧
      n.id = k.id ∧ n.banks = k.banks ∧ n.pool = k.pool ∧
      ∀ i < 16384, microWord n.micro i = leValue ((bs.drop (8 * i)).take 8)) ∧
  (∀ (s : State) (r : StreamRef) (c : Ctx) (a : SReg) (g : Fin 256), Claims.supIssuer s r c →
    ((c.stream r.st).sreg a).toNat % 128 = 0 → (∃ x ∈ s.ctxs, x.id.core = gCore g ∧ macroOf x ≠ none) → (c.stream r.st).run = .run →
    exec (.mcload a g) s = .next (Claims.waits s r c (.mcload a g))) ∧
  (∀ (s : State) (r : StreamRef) (c : Ctx) (i : BitVec 11), Claims.supIssuer s r c →
    ∃ t : State, exec (.halt i) s = .next (t.ended r) ∧ t.hub = { s.hub with haltCode := some i } ∧ t.mem = s.mem ∧
      ∀ x ∈ t.ctxs, x.id.core.isSup = true → ∀ j, (x.stream j).run = .halted))

/-- R208, R253: the `GRAPH` words at an address that is a multiple of 128: the state of a graph that is loaded without an error is 1,
started 2, stopped 3 when none of its jobs runs; a stop waits while one runs, and the graph admits no new instance (that instances of its pool are
not dispatched either is the model's reading: log 16); one that is unloaded is known no more. -/
def Obligations.GraphWordsMoveTheState : Prop :=
  ∀ (s : State) (r : StreamRef) (c : Ctx) (a : SReg) (va : Nat), Claims.supIssuer s r c → va = ((c.stream r.st).sreg a).toNat → va % 128 = 0 →
    (∀ (e : Nat) (u : State), graphState s va = 0 → tableReady s = true →
      loadGraph (Claims.accessState s r c) (Claims.accessWho s r c) va = .ok (e, u) →
      exec (.graphLoad a) s = .next ((graphErr u va e).completed r) ∧ (e = 0 → graphState (graphErr u va e) va = 1)) ∧
    (∀ g : Graph, graphAt s va = some g →
      ((g.state = 1 ∨ g.state = 3 ∨ g.state = 4 ∨ g.state = 5) →
        (∃ t : State, exec (.graphStart a) s = .next (t.completed r) ∧ graphState t va = 2 ∧ t.ctxs = (s.putCtx (s.placed r c)).ctxs) ∧
        (gangReadable s = true → ∃ t : State, exec (.graphUnload a) s = .next (t.completed r) ∧ graphAt t va = none ∧
          ∀ x ∈ t.saved, x.card.graph ≠ va)) ∧
      ((g.state = 2 ∨ g.state = 5) → (∀ x ∈ s.ctxs, x.id.core.isSup = false → x.card.graph = va → jobRuns x = false) →
        ∃ t : State, exec (.graphStop a) s = .next (t.completed r) ∧ graphState t va = 3 ∧ t.ctxs = (s.putCtx (s.placed r c)).ctxs) ∧
      ((g.state = 2 ∨ g.state = 5) → (∃ x ∈ s.ctxs, x.id.core.isSup = false ∧ x.card.graph = va ∧ jobRuns x = true) →
        (c.stream r.st).run = .run →
        exec (.graphStop a) s = .next ((putGraph (Claims.waits s r c (.graphStop a)) { g with stopping := true })) ∧
        Graph.open { g with stopping := true } = false))

/-- R305, R306, R308, R310, R312: `GANG` on a record that passes its checks starts the sweep and holds its stream: from then on the gang is in state
1, its jobs are stopped and its graphs admit nothing; where every job can be lifted off at once they are saved (log 82). `GRES` on a saved gang starts
its resumption, state 3, and holds its stream; each completes once the switch is over, the word that began it and no other: any other is checked
anew (one that a trap has interrupted goes on: log 105). The events that end a switch set its state and take a sequence
number; the jobs go on. -/
def Obligations.GangSwitchesRunInStages : Prop :=
  (∀ (s : State) (r : StreamRef) (c : Ctx) (a : SReg) (g : Nat), Claims.supIssuer s r c → tableReady s = true →
    g = ((c.stream r.st).sreg a).toNat % 4096 →
    ((gangGet s g).hold ≠ some ⟨r, false, (c.stream r.st).pc⟩ →
      gangCheck (Claims.accessState s r c) g (fun t v => ggState v == 0 && gangHere t g) = .ok () →
      ∃ t : State, exec (.gang a) s = .next ((takenUp t r).mapStream r
          (Claims.holding ⟨.gang a, s.now, s.place r, some (c.stream r.st).s⟩)) ∧ gangState t g = 1 ∧
        (gangLiftable (gangStart (Claims.accessState s r c) g ⟨r, false, (c.stream r.st).pc⟩) g = false →
          (gangGet t g).hold = some ⟨r, false, (c.stream r.st).pc⟩ ∧ (gangGet t g).lifted = false ∧
          t.ctxs = (Claims.accessState s r c).ctxs.map (fun x => if inGang (Claims.accessState s r c) g x then freeze x else x) ∧
          (∀ y ∈ t.graphs, y.state = 2 → gangOf (Claims.accessState s r c) (ancestors (Claims.accessState s r c) y.region) ≠ g)) ∧
        (gangLiftable (gangStart (Claims.accessState s r c) g ⟨r, false, (c.stream r.st).pc⟩) g = true → (gangGet t g).lifted = true ∧
          t = gangLift (gangStart (Claims.accessState s r c) g ⟨r, false, (c.stream r.st).pc⟩) g)) ∧
    (∀ k d e, (gangGet s g).hold ≠ some ⟨r, false, (c.stream r.st).pc⟩ →
      gangCheck (Claims.accessState s r c) g (fun t v => ggState v == 0 && gangHere t g) = .fail k d e →
      exec (.gang a) s = .next (trapWord (s.putCtx (s.placed r c)) r ⟨k, d, 7, e⟩)) ∧
    ((gangGet s g).hold ≠ some ⟨r, true, (c.stream r.st).pc⟩ → gangCheck (Claims.accessState s r c) g (fun _ v => ggState v == 2) = .ok () →
      ∃ t : State, exec (.gres a) s = .next ((takenUp t r).mapStream r
          (Claims.holding ⟨.gres a, s.now, s.place r, some (c.stream r.st).s⟩)) ∧
        gangState t g = 3 ∧ (gangGet t g).hold = some ⟨r, true, (c.stream r.st).pc⟩ ∧ (gangGet t g).back = false) ∧
    (∀ k d e, (gangGet s g).hold ≠ some ⟨r, true, (c.stream r.st).pc⟩ →
      gangCheck (Claims.accessState s r c) g (fun _ v => ggState v == 2) = .fail k d e →
      exec (.gres a) s = .next (trapWord (s.putCtx (s.placed r c)) r ⟨k, d, 7, e⟩)) ∧
    (g ≠ 0 →
      ((gangGet s g).hold = some ⟨r, false, (c.stream r.st).pc⟩ → (gangGet s g).state ≠ 1 →
        ∃ t : State, exec (.gang a) s = .next (t.completed r) ∧ (gangGet t g).hold = none) ∧
      ((gangGet s g).hold = some ⟨r, true, (c.stream r.st).pc⟩ → (gangGet s g).state ≠ 3 →
        ∃ t : State, exec (.gres a) s = .next (t.completed r) ∧ (gangGet t g).hold = none))) ∧
  (∀ (s : State) (g : Fin 4096), (gangGet s g.val).state = 1 → (gangGet s g.val).lifted = true → gangClosed s g.val = true →
    ∃ t : State, exec (.gangSweepClose g) s = .next t ∧ gangState t g.val = (if (gangGet s g.val).spilled then 4 else 2) ∧
      t.hub.mseq = (s.hub.mseq + 1) % 2 ^ 64) ∧
  (∀ (s : State) (g : Fin 4096), (gangGet s g.val).state = 3 → (gangGet s g.val).back = true → gresHeard s g.val = true →
    ∃ t : State, exec (.gresResume g) s = .next t ∧ gangState t g.val = 0 ∧
      ((∀ k ∈ s.router.later, k.gang ≠ g) → t.hub.mseq = (s.hub.mseq + 1) % 2 ^ 64) ∧
      ∀ x ∈ t.ctxs, (∃ y ∈ s.ctxs, y.id = x.id ∧ inGang s g.val y = true) → (∀ y ∈ s.ctxs, ∀ z ∈ s.ctxs, y.id = z.id → y = z) →
        x.frozen = false)

/-! ## Commands and the array (spec/08_array_engine.md, spec/10_jobs_and_streams.md) -/

namespace Sys2Proof.Claims

/-- The layer macro of the current context is ready for its next micro-op. -/
def macroAt (s : State) (c : Ctx) (d : Cmd) (m : MacroSt) : Prop :=
  (∃ r : StreamRef, s.cur = some r ∧ s.ctx r.ctx = some c) ∧ macroOf c = some (d, m) ∧ macroRuns s c m = true

/-- The macro register `r` of a macro set to `v`, at the micro-op `a`. -/
def macroSet (m : MacroSt) (r : KReg) (v : Word) (a : Nat) : MacroSt :=
  { m with k := m.k.set r.val v r.isLt, addr := a, since := m.since + 1, rows := 0, elems := 0, olds := [], flags := 0, stat := [], trapped := false }

end Sys2Proof.Claims

/-- Table 8.8, R183-R185: the micro-ops of a layer macro change its registers and its place; `ARR` runs an A command; a 65th micro-op
without a safe point is a microcode fault, whichever it is but `SAFE` and `END`; `SAFE` starts the count afresh, `END` ends the macro. -/
def Obligations.MicroOpsDriveTheMacro : Prop :=
  ∀ (s : State) (c : Ctx) (d : Cmd) (m : MacroSt), Claims.macroAt s c d m →
    (m.since < 64 →
      (∀ k v, exec (.uopSet k v) s = .next (s.putCmd c.id { d with prog := .layer (Claims.macroSet m k (v.signExtend 64) (m.addr + 1)) })) ∧
      (∀ k j v, exec (.uopAdd k j v) s =
        .next (s.putCmd c.id { d with prog := .layer (Claims.macroSet m k (m.k.get j + v.signExtend 64) (m.addr + 1)) })) ∧
      (∀ k (t : BitVec 14), exec (.uopLoop k t) s = .next (s.putCmd c.id { d with
        prog := .layer (Claims.macroSet m k (m.k.get k - 1) (if m.k.get k = 1 then m.addr + 1 else t.toNat)) })) ∧
      (∀ op fn ka kb i q, (∀ g h x f, i ≠ .drainm g h x f) → (∀ g x, i = .dtt g x → (m.k.get kb).toNat < 2 ^ 13) →
        arrWord op fn (m.k.get ka).toNat = .ok i →
        runArray s c (whoCmd s c d) (c.stream d.src).satfp i (m.k.get kb).toNat = .ok q →
        exec (.uopArr op fn ka kb) s = .next (Uop.ran ⟨c, d, m⟩ q.1 (isArrayCmd i) q.2.1 q.2.2)) ∧
      (∀ op fn ka kb g h x f t fl st, arrWord op fn (m.k.get ka).toNat = .ok (.drainm g h x f) →
        Uop.drainWaits ⟨c, d, m⟩ s h (m.k.get kb).toNat = false →
        runDrainm s c d h f (m.k.get kb).toNat m.rows m.elems m.olds = .ok t fl st →
        exec (.uopArr op fn ka kb) s = .next (Uop.ran ⟨c, d, m⟩ t true (m.flags ||| fl) (m.stat ++ st)))) ∧
    (64 ≤ m.since → ∀ i, ((∃ k v, i = .uopSet k v) ∨ (∃ k j v, i = .uopAdd k j v) ∨ (∃ k t, i = .uopLoop k t) ∨
        ∃ op fn ka kb, i = .uopArr op fn ka kb) → exec i s = .next (macroTrap s c d m ⟨17, m.addr % 2 ^ 16, 2, 0⟩)) ∧
    exec .uopSafe s = .next (s.putCmd c.id { d with
      prog := .layer { m with addr := m.addr + 1, since := 0, rows := 0, elems := 0, olds := [], flags := 0, stat := [], trapped := false } }) ∧
    exec .uopEnd s = .next (s.putCmd c.id { d with prog := .done })

/-- R28, R162, R212: a held word whose condition has come true goes on: one that has not issued is ready to issue again; any other completes or
traps as its own meaning says, with its stream the current one, at the place in the issue order and with the operands that it issued with. That a
word which has not issued is ready in the cycle after, and not before, is the model's reading (log 47). -/
def Obligations.HeldWordsGoOn : Prop :=
  ∀ (s : State) (x : StreamRef) (c : Ctx) (h : Hold), s.ctx x.ctx = some c → (c.stream x.st).run = .held h →
    (∀ v, h.regs = some v → ({ s with cur := some x } : State).at = some (⟨x, c, c.stream x.st, h.seq, v⟩, { s with cur := some x })) ∧
    ((c.stream x.st).stopped = false → jobRuns c = true →
      (h.regs = none → ((Instr.queue h.word).isSome = true ∨ isVxc h.word = true) → placeTaken c x.st h.word = false →
        ∃ u : Stream, exec (.waitSatisfied x) s = .next (s.putCtx (c.putStream x.st u)) ∧ u.run = .run ∧ u.pc = (c.stream x.st).pc ∧
          u.s = (c.stream x.st).s ∧ s.now < u.firstAt) ∧
      (∀ f u, h.regs.isSome = true → cellMoves c h.word = false → heldMeaning h.word = some f → f { s with cur := some x } = .next u →
        stillHeld u x = false → exec (.waitSatisfied x) s = .next (released u x h.word)))

namespace Sys2Proof.Claims

/-- The A command at the head of a job's queue runs now: its guard lets it, neither the range checker nor an error in the rows that it reads holds
it back, and its job has the lease if it needs one. -/
def runsNow (s : State) (x : CtxId) (c : Ctx) (d : Cmd) : Prop :=
  s.ctx x = some c ∧ cmdsRun c = true ∧ cmdHead c .A = some d ∧ d.prog = .queued ∧ guardSays c s.now (Instr.guard d.word) = some true ∧
  rangeHeld c d = false ∧ cmdStruck c d = false ∧ (isArrayCmd d.word = true → leaseOpen s x = true)

/-- The command has run, in the context as given, with its flags and the status bits that it sets when it completes; an array command counts. -/
def hasRun (s : State) (x : CtxId) (e : Ctx) (d : Cmd) (fl : FFlags) (st : List (Fin 32 × BitVec 4)) : State :=
  let u := (s.putCtx e).putCmd x { d with prog := .done, flags := d.flags ||| fl, status := d.status ++ st }
  if isArrayCmd d.word then countArray u x else u

/-- The command has trapped, for a reason of Table 8.1. -/
def hasTrapped (s : State) (x : CtxId) (d : Cmd) (sub : Nat) (h : HId) : State :=
  if isArrayCmd d.word then countArray (cmdTrap s x d ⟨5, sub * 256 + h.val, 2, 0⟩) x else cmdTrap s x d ⟨5, sub * 256 + h.val, 2, 0⟩

/-- A tile handle in a format, and a row value that R163 accepts for it. -/
def operand (s : State) (c : Ctx) (d : Cmd) (h : HId) (y : Handle) (f : Fin 16) : Prop :=
  c.handle h = some y ∧ y.kind = .tile ∧ f = handleFmt s c y ∧ svRow d.sval.toNat < y.rows ∧ (isBx f = true → svCol d.sval.toNat % 32 = 0)

/-- The products of a row of A and a column of B over 32 elements from `k` on, summed exactly (R47). -/
def exactSum (as : List Machine.Num) (rows : List (List Machine.Num)) (n k len : Nat) : Machine.Num :=
  (List.range len).foldl (fun t i => (Machine.Num.add .rne t (Machine.Num.mul (as.getD (k + i) .zero) ((rows.getD (k + i) []).getD n .zero)).1).1) .zero

/-- An element of a float A-step: the sums of eight groups of K, each rounded, are added in order, and each sum is rounded (R47). -/
def stepFloat (x : Machine.Num) (as : List Machine.Num) (rows : List (List Machine.Num)) (n : Nat) : BitVec 32 :=
  BitVec.ofNat 32 (f32.result .rne false ((List.range 8).foldl (fun acc g =>
    (f32.rn (Machine.Num.add .rne acc (f32.rn (exactSum as rows n (32 * g) 32)).1).1).1) x)).1

/-- An element of an `i8` A-step: an exact sum, modulo 2^32. -/
def stepInt (x : BitVec 32) (as : List Machine.Num) (rows : List (List Machine.Num)) (n : Nat) : BitVec 32 :=
  x + BitVec.ofInt 32 (match (exactSum as rows n 0 256).toInt .rne with
    | some v => v.1
    | none => 0)

/-- A B-slot of 256 rows of `n` columns. -/
def slotOf (b : BSlot) (n : Nat) : Prop := b.vals.length = 256 ∧ ∀ l ∈ b.vals, l.length = n

/-- What a drain gives for its row `i` (R174): the bytes, the flags, the status bits. -/
def drained (s : State) (c : Ctx) (d : Cmd) (fn : BitVec 4) (y : Handle) (f : Fin 16) (k : Int) (i : Nat) : List Byte × FFlags × BitVec 4 :=
  drainRow c fn (svRow d.sval.toNat % 256 + i) 0 (min 256 (y.cols - svCol d.sval.toNat)) f (handleSplit s c y).val k (c.stream d.src).satfp
    (y.values f (svRow d.sval.toNat + i) (svCol d.sval.toNat) (min 256 (y.cols - svCol d.sval.toNat)))

end Sys2Proof.Claims

/-- R63, R141, R146, R148, R216-R218, R327: the command at the head of a queue starts when its guard lets it and the range checker does not
hold it, and stands still before; one whose guard resolves against it is discarded; one whose access set has rows to read that an
uncorrectable error has struck traps (that its start meets the error is the model's reading: log 85; so is `satfp` as it stands when the
command runs: log 51); a copy begins at its record; a `RETN` whose source overlaps the destination of an earlier `OFFL` waits; a data record
that has run to its end completes, and the command goes to the next one or ends. R26, R227, R178: a command whose effect is made completes
while its job runs: its flags reach the stream that issued it, its status bits the status file, and its entry is free; an `OFFL` without
`keep` frees its source; a status read into a guard slot resolves it. R47, R49, R163, R164, R169-R175: what the array commands and the
setting words leave when they run. `BLOAD` fills its slot, or both from `f32` data; `MMA` adds one A-step to the columns of its slot in
eight accumulator rows, from +0 with `z`, which clears the status entry (that `MMA3` clears it too is the model's choice: log 93); `MMA3`
takes three steps over a pair; `DRAIN` writes eight rows of a handle through the chain and leaves the accumulator; the setting words copy
their operand. A row value, a format or a slot that does not fit traps: that an empty slot is found before the format is the model's choice
(log 61), and so is that `DTT`'s scale is read for BX formats alone (log 63). R179-R182: what the words of an X-core leave when they run.
`PLAN` reads a descriptor into its slot, or leaves the slot empty and traps (that it empties the slot before it checks is the model's: log
61); a transform of a batch replaces its points, each read before any is written (that the whole batch is read first is the model's: log
66), and nothing else of its handle; a spherical transform writes its output handle alone. -/
def Obligations.CommandsStartAndComplete : Prop :=
  ((∀ (s : State) (x : CtxId) (c : Ctx) (q : Queue) (d : Cmd), s.ctx x = some c → cmdsRun c = true → cmdHead c q = some d → d.prog = .queued →
    (guardSays c s.now (Instr.guard d.word) = some false →
      exec (.commandStart x q) s = .next (discard s x d) ∧
      ∃ e, (discard s x d).ctx x = some e ∧ (e.cmds.map fun y => y.seq) = (c.cmds.filter fun y => decide (y.seq ≠ d.seq)).map (fun y => y.seq) ∧
        ((∀ g h n k, d.word ≠ .plan g h n k) → e.cmds = c.cmds.filter fun y => decide (y.seq ≠ d.seq))) ∧
    ((guardSays c s.now (Instr.guard d.word) = none ∨ (guardSays c s.now (Instr.guard d.word) = some true ∧ rangeHeld c d = true)) →
      exec (.commandStart x q) s = .refused (.notEnabled "COMMAND_START")) ∧
    (guardSays c s.now (Instr.guard d.word) = some true → rangeHeld c d = false → cmdStruck c d = true →
      exec (.commandStart x q) s = .next (cmdTrap s x d ⟨14, 0, queueEng d.q, 0⟩)) ∧
    (guardSays c s.now (Instr.guard d.word) = some true → rangeHeld c d = false → cmdStruck c d = false →
      (∀ t, startHead s c d = some t → exec (.commandStart x q) s = .next t) ∧
      (∀ g h n, d.q ≠ .A → d.q ≠ .N →
        (d.word = .copy g h n ∨ d.word = .chain g h n ∨ d.word = .copyo g h n ∨ d.word = .chaino g h n ∨ d.word = .copya g h n ∨
          d.word = .chaina g h n ∨ (∃ k, d.word = .offl g h n k) ∨ (d.word = .retn g h n ∧ retnHeld s c d = false) →
          exec (.commandStart x q) s = .next (s.putCmd x { d with prog := .walk (walkStart d.sval.toNat) })) ∧
        (d.word = .retn g h n → retnHeld s c d = true → exec (.commandStart x q) s = .refused (.notEnabled "COMMAND_START"))))) ∧
  (∀ (s : State) (x : CmdRef) (c : Ctx) (d : Cmd) (k : WalkSt) (h : HId) (y : Handle) (e : Xfer) (r : DataRec), s.ctx x.ctx = some c →
    cmdsRun c = true → c.cmd x.seq = some d → d.prog = .walk k → chainOf d.word = some h → c.handle h = some y →
    dataRec c.card false (recordAt y k.row) = some r → k.cur = some e →
    (k.rowsDone < e.rows → exec (.dataRecordComplete x) s = .refused (.notEnabled "DATA_RECORD_COMPLETE")) ∧
    (e.rows ≤ k.rowsDone → (∀ t, completeRecord s c d h k = some t → exec (.dataRecordComplete x) s = .next t) ∧
      (e.cap = none → r.arv = false → (∀ g n, d.word ≠ .offl g h n true) → ∃ z : Ctx, exec (.dataRecordComplete x) s = .next (s.putCtx z) ∧
        z = c.putCmd { d with prog := (if r.last = true ∨ isWalk d.word = false then .done else
          .walk { k with row := k.row + 1, rowsDone := 0, elemsDone := 0, amax := .zero, cur := none }) })))) ∧
  (∀ (s : State) (x : CmdRef) (c : Ctx) (d : Cmd), s.ctx x.ctx = some c → cmdsRun c = true → c.cmd x.seq = some d →
    (d.prog = .done → offlHandle c d = none →
      ∃ (t : State) (e : Ctx), exec (.commandComplete x) s = .next t ∧ t.ctx x.ctx = some e ∧ t.mem = s.mem ∧ t.hub = s.hub ∧
        e.cmds = c.cmds.filter (fun y => decide (y.seq ≠ d.seq)) ∧ (e.stream d.src).fflags = (c.stream d.src).fflags ||| d.flags ∧
        (∀ i, i ≠ d.src → e.stream i = c.stream i) ∧ e.status = (c.setStatus d.status).status ∧ e.handles = c.handles ∧ e.v = c.v) ∧
    (∀ g, d.prog = .done → offlHandle c d = some g → handleInUse c d.seq g = false →
      ∃ (t : State) (e : Ctx), exec (.commandComplete x) s = .next t ∧ t.ctx x.ctx = some e ∧ e.handle g = none ∧
        e.cmds = c.cmds.filter (fun y => decide (y.seq ≠ d.seq))) ∧
    (∀ due n v, d.prog = .statg due n v → due ≤ s.now → c.g.get n = none →
      ∃ (t : State) (e : Ctx), exec (.commandComplete x) s = .next t ∧ t.ctx x.ctx = some e ∧ e.g.get n = some v ∧
        e.cmds = c.cmds.filter (fun y => decide (y.seq ≠ d.seq)))) ∧
  (∀ (s : State) (x : CtxId) (c : Ctx) (d : Cmd) (y : Handle) (f : Fin 16) (h : HId) (r c0 : Nat), Claims.runsNow s x c d →
    r = svRow d.sval.toNat → c0 = svCol d.sval.toNat →
    (∀ g q k, d.word = .bload g h q k → c.handle h = some y → y.kind = .tile → y.rows ≤ r →
      exec (.commandStart x .A) s = .next (Claims.hasTrapped s x d 10 h)) ∧
    (∀ g q k, d.word = .bload g h q k → Claims.operand s c d h y f →
      ((f = 1 ∨ f = 9 ∨ f = 14 ∨ f = 15) → ∃ (e : Ctx) (b : BSlot), exec (.commandStart x .A) s = .next (Claims.hasRun s x e d 0 []) ∧
        { e with slot0 := c.slot0, slot1 := c.slot1 } = c ∧ b.fmt = f ∧ b.pair = false ∧
        b.vals = ((List.range 256).map fun i => y.values f (r + i) c0 (if f = 9 then 128 else 256)) ∧
        (k = false → e.slot0 = some b ∧ e.slot1 = c.slot1.filter fun o => !o.pair) ∧
        (k = true → e.slot1 = some b ∧ e.slot0 = c.slot0.filter fun o => !o.pair)) ∧
      (f = 10 → k = false → exec (.commandStart x .A) s = .next (Claims.hasRun s x { c with
        slot0 := some ⟨9, true, (List.range 256).map fun i => (y.values f (r + i) c0 128).map fun v => (bf16.rn v).1⟩
        slot1 := some ⟨9, true, (List.range 256).map fun i => (y.values f (r + i) c0 128).map splitLo⟩ } d 0 [])) ∧
      (((f = 10 ∧ k = true) ∨ (f ≠ 1 ∧ f ≠ 9 ∧ f ≠ 10 ∧ f ≠ 14 ∧ f ≠ 15)) →
        exec (.commandStart x .A) s = .next (Claims.hasTrapped s x d 11 h))) ∧
    (∀ g q z k, d.word = .mma g h q z k → Claims.operand s c d h y f → r % 8 = 0 →
      ((if k then c.slot1 else c.slot0) = none → exec (.commandStart x .A) s = .next (Claims.hasTrapped s x d 12 h)) ∧
      (∀ (b : BSlot) (nc b0 : Nat), (if k then c.slot1 else c.slot0) = some b → nc = (if b.fmt = 9 then 128 else 256) →
        b0 = (if b.fmt = 9 ∧ k = true then 128 else 0) →
        (slotAccepts b.fmt f = false → exec (.commandStart x .A) s = .next (Claims.hasTrapped s x d 11 h)) ∧
        (slotAccepts b.fmt f = true → Claims.slotOf b nc → (∀ i < 8, (c.accRow (r % 256 + i)).length = 256) →
          ∃ e : Ctx, exec (.commandStart x .A) s = .next (Claims.hasRun s x e d 0 []) ∧ { e with acc := c.acc, status := c.status } = c ∧
            e.status = (if z then c.clearStatus (r % 256) else c).status ∧ (∀ a, a < r % 256 ∨ r % 256 + 8 ≤ a → e.accRow a = c.accRow a) ∧
            ∀ i < 8, ∀ n < 256, ∀ o w, o = (c.accRow (r % 256 + i)).getD n (.f 0) → w = (e.accRow (r % 256 + i)).getD n (.f 0) →
              ((n < b0 ∨ b0 + nc ≤ n) → w = o) ∧
              (b0 ≤ n → n < b0 + nc → f ≠ 1 →
                (z = true → w = .f (Claims.stepFloat .zero (y.values f (r + i) c0 256) b.vals (n - b0))) ∧
                (∀ v, z = false → o = .f v → w = .f (Claims.stepFloat (f32.decode v.toNat) (y.values f (r + i) c0 256) b.vals (n - b0)))) ∧
              (b0 ≤ n → n < b0 + nc → f = 1 →
                (z = true → w = .i (Claims.stepInt 0 (y.values f (r + i) c0 256) b.vals (n - b0))) ∧
                (∀ v, z = false → o = .i v → w = .i (Claims.stepInt v (y.values f (r + i) c0 256) b.vals (n - b0))))))) ∧
    (∀ g q z, d.word = .mma3 g h q z → Claims.operand s c d h y f → r % 8 = 0 →
      ((f ≠ 10 ∨ c.slot0 = none ∨ c.slot1 = none ∨ (∃ b, (c.slot0 = some b ∨ c.slot1 = some b) ∧ b.pair = false)) →
        exec (.commandStart x .A) s = .next (Claims.hasTrapped s x d 11 h)) ∧
      (∀ hi lo : BSlot, f = 10 → c.slot0 = some hi → c.slot1 = some lo → hi.pair = true → lo.pair = true → Claims.slotOf hi 128 →
        Claims.slotOf lo 128 → (∀ i < 8, (c.accRow (r % 256 + i)).length = 256) →
        ∃ e : Ctx, exec (.commandStart x .A) s = .next (Claims.hasRun s x e d 0 []) ∧ { e with acc := c.acc, status := c.status } = c ∧
          e.status = (if z then c.clearStatus (r % 256) else c).status ∧ (∀ a, a < r % 256 ∨ r % 256 + 8 ≤ a → e.accRow a = c.accRow a) ∧
          ∀ i < 8, ∀ n < 128, ∀ (v : BitVec 32) (as bs : List Machine.Num) (u w : BitVec 32),
            (z = true ∨ (c.accRow (r % 256 + i)).getD n (.f 0) = .f v) → as = (y.values f (r + i) c0 256).map splitHi →
            bs = (y.values f (r + i) c0 256).map splitLo →
            u = Claims.stepFloat (if z then .zero else f32.decode v.toNat) bs hi.vals n → w = Claims.stepFloat (f32.decode u.toNat) as lo.vals n →
            (e.accRow (r % 256 + i)).getD n (.f 0) = .f (Claims.stepFloat (f32.decode w.toNat) as hi.vals n))) ∧
    (∀ g q fn, d.word = .drain g h q fn → Claims.operand s c d h y f → r % 8 = 0 →
      (f ≠ 10 → (fn.getLsbD 3 = true ∨ fn.getLsbD 2 = false) → exec (.commandStart x .A) s = .next (Claims.hasTrapped s x d 11 h)) ∧
      ((f = 10 ∨ (fn.getLsbD 3 = false ∧ fn.getLsbD 2 = true)) → ∀ (k : Int) (u : State),
        (match c.drain.tt with
          | some e => if fn.getLsbD 2 && isBx f then tableExp s c (whoCmd s c d) h.val e.val else .ok (0, s)
          | none => .ok (0, s)) = .ok (k, u) →
        Memory.wf y.data = true → rowBytes f y.cols ≤ y.pitch →
        (∀ i < 8, r + i < y.rows → colBytes f c0 + (Claims.drained s c d fn y f k i).1.length ≤ y.pitch) →
        ∃ z : Handle, exec (.commandStart x .A) s = .next (Claims.hasRun u x (c.putHandle z) d
            ((List.range 8).foldl (fun g i => g ||| (Claims.drained s c d fn y f k i).2.1) 0)
            [(statusEntry (r % 256), (List.range 8).foldl (fun g i => g ||| (Claims.drained s c d fn y f k i).2.2) 0)]) ∧
          z.id = y.id ∧ z.rows = y.rows ∧ z.cols = y.cols ∧ z.pitch = y.pitch ∧ z.banks = y.banks ∧
          (∀ i < 8, r + i < y.rows → z.bytes (r + i) (colBytes f c0) (Claims.drained s c d fn y f k i).1.length = (Claims.drained s c d fn y f k i).1) ∧
          ∀ o, (∀ i < 8, r + i < y.rows → o < (r + i) * y.pitch + colBytes f c0 ∨
              (r + i) * y.pitch + colBytes f c0 + (Claims.drained s c d fn y f k i).1.length ≤ o) →
            Memory.get z.data o = Memory.get y.data o)) ∧
    (∀ g q, d.word = .dbias g h q → Claims.operand s c d h y f → f = 10 → 256 ≤ y.cols → exec (.commandStart x .A) s = .next
      (Claims.hasRun s x { c with drain := { c.drain with bias := (List.range 256).map fun i => y.f32At r i } } d 0 [])) ∧
    (∀ g q, d.word = .dact g h q → Claims.operand s c d h y f → f = 10 → y.cols % 3 = 0 → 3 ≤ y.cols → y.cols ≤ 192 →
      exec (.commandStart x .A) s = .next (Claims.hasRun s x { c with drain := { c.drain with
        act := (List.range (y.cols / 3)).map fun j => (y.f32At r (3 * j), y.f32At r (3 * j + 1), y.f32At r (3 * j + 2)) } } d 0 [])) ∧
    (∀ g q, d.word = .dclamp g h q → Claims.operand s c d h y f → f = 10 → (f32.decode (y.f32At r 0).toNat).isNan = false →
      (f32.decode (y.f32At r 1).toNat).isNan = false → (f32.decode (y.f32At r 1).toNat).lt (f32.decode (y.f32At r 0).toNat) = false →
      exec (.commandStart x .A) s = .next (Claims.hasRun s x { c with drain := { c.drain with clo := y.f32At r 0, chi := y.f32At r 1 } } d 0 [])) ∧
    (∀ g q, d.word = .dtt g q → exec (.commandStart x .A) s = .next (Claims.hasRun s x { c with drain := { c.drain with
      tt := if d.sval.toNat / 2 ^ 12 % 2 = 1 then none else some ⟨d.sval.toNat % 4096, Nat.mod_lt _ (by decide)⟩ } } d 0 []))) ∧
  (∀ (s : State) (x : CtxId) (c : Ctx) (d : Cmd) (y : Handle) (f : Fin 16) (h : HId) (k : Fin 16) (r : Nat), Claims.runsNow s x c d →
    r = svRow d.sval.toNat → Claims.operand s c d h y f →
    (∀ (g : Guard) (q : SReg) (bs : List Byte) (e : Ctx), d.word = .plan g h q k → e = { c with plans := c.plans.set k.val none k.isLt } →
      32 ≤ rowBytes f y.cols → bs = y.bytes r 0 32 →
      (planOf (leValue bs) = none → exec (.commandStart x .A) s = .next (Claims.hasTrapped (s.putCtx e) x d 13 h)) ∧
      (∀ p, planOf (leValue bs) = some p →
        (65536 < twiddlesUsed e + p.twiddles → exec (.commandStart x .A) s = .next (Claims.hasTrapped (s.putCtx e) x d 14 h)) ∧
        (twiddlesUsed e + p.twiddles ≤ 65536 → exec (.commandStart x .A) s = .next ((Claims.hasRun s x
          { c with plans := c.plans.set k.val (some ⟨bs, p.twiddles⟩) k.isLt } d 0 []).mapCtx x refreshSets)))) ∧
    (∀ (g : Guard) (q : SReg) (inverse : Bool), d.word = (if inverse then .ifft g h q k else .fft g h q k) →
      ((c.plan k = none ∨ ∃ l m j w nh nr oh orow, c.plan k = some (.sht l m j w nh nr oh orow)) →
        exec (.commandStart x .A) s = .next (Claims.hasTrapped s x d 12 h)) ∧
      (∀ (n : Nat) (rs : List Nat) (wide : Bool) (scale : Option Machine.Num) (batch es bs : Nat),
        c.plan k = some (.fft n rs wide scale batch es bs) →
        (f ≠ precFmt wide → exec (.commandStart x .A) s = .next (Claims.hasTrapped s x d 11 h)) ∧
        (f = precFmt wide → (y.rows - r) * y.cols < 2 * ((batch - 1) * bs + (n - 1) * es) + 2 →
          exec (.commandStart x .A) s = .next (Claims.hasTrapped s x d 10 h)) ∧
        (f = precFmt wide → 2 * ((batch - 1) * bs + (n - 1) * es) + 2 ≤ (y.rows - r) * y.cols →
          ∀ out : Nat → List Cx × FFlags,
          (∀ b, out b = fftOf (precOf wide) inverse n rs scale ((List.range n).map fun i => pointFrom y f r (b * bs + i * es))) →
          ∃ z : Handle, exec (.commandStart x .A) s = .next (Claims.hasRun s x (c.putHandle z) d
              ((List.range batch).foldl (fun a b => a ||| (out b).2) 0) []) ∧
            z.id = y.id ∧ z.rows = y.rows ∧ z.cols = y.cols ∧ z.pitch = y.pitch ∧ z.banks = y.banks ∧
            (Memory.wf y.data = true → rowBytes f y.cols ≤ y.pitch →
              (∀ a < batch, ∀ b < batch, ∀ i < n, ∀ j < n, a * bs + i * es = b * bs + j * es → a = b ∧ i = j) →
              (∀ b < batch, ∀ i < n, ∀ p : Cx, (out b).1[i]? = some p →
                pointFrom z f r (b * bs + i * es) = ((precOf wide).decode ((precOf wide).result .rne false p.1).1,
                  (precOf wide).decode ((precOf wide).result .rne false p.2).1)) ∧
              ∀ e, e < (y.rows - r) * y.cols → (∀ b < batch, ∀ i < n, e / 2 ≠ b * bs + i * es) → elemFrom z f r e = elemFrom y f r e)))) ∧
    (∀ (g : Guard) (q : SReg) (inverse : Bool), d.word = (if inverse then .shti g h q k else .shtf g h q k) →
      ∀ (e : Ctx) (fl : FFlags), runSht s c y f d.sval.toNat k inverse = .ok (e, fl) →
        exec (.commandStart x .A) s = .next (Claims.hasRun s x e d fl []) ∧ { e with handles := c.handles } = c ∧
        ∀ l m j w nh nr oh orow, c.plan k = some (.sht l m j w nh nr oh orow) → ∀ o, o ≠ oh → e.handle o = c.handle o))

/-- R165-R168, R222: an array command does not start without the lease, which it requests when it comes to the front, whatever its guard
says; a free array that has been idle long enough is granted to the winner of the pick; at its bound a lease ends if another core waits,
else it counts afresh; a macro past its time traps with cause 11. That a head whose guard is not resolved requests it too is the model's
reading (log 60). R220, R221: a core that has been quiescent for 64 cycles grants 16 entries of its pool to the neediest full queue; with
none to grant it, or no full queue, a deadlock trap is raised. The engine that the trap names is the one that the stream is held for (log
47). -/
def Obligations.LeasesAndQuiescentCores : Prop :=
  ((∀ (s : State) (x : CtxId) (c : Ctx) (d : Cmd), s.ctx x = some c → cmdHead c .A = some d → d.q = .A → isArrayCmd d.word = true →
    holdsLease s c.id = false → guardSays c s.now (Instr.guard d.word) ≠ some false →
    exec (.commandStart x .A) s = .refused (.notEnabled "COMMAND_START")) ∧
  (∀ (s : State) (x : CtxId) (c : Ctx) (d : Cmd) (a : ArraySt), s.ctx x = some c → cmdsRun c = true → cmdHead c .A = some d →
    isArrayCmd d.word = true → d.prog ≠ .done → arrayAt s x.core = some a →
    ∃ b, arrayAt (tickLeases s) x.core = some b ∧ (b.holder = some x ∨ ∃ q ∈ b.requests, q.1 = x)) ∧
  (∀ (s : State) (cl : Fin 64) (a : ArraySt) (k : Fin 4) (y : CtxId), arrayOf s cl = some a → a.holder = none → (leasePick s a).2 = some k →
    pendingAt s a k = some y → (a.idleUntil ≤ s.now ∨ k.val = a.lastWin) →
    ∃ b : ArraySt, exec (.leaseGrant cl) s = .next (putArray s b) ∧ b.cluster = a.cluster ∧ b.holder = some y ∧
      b.requests = a.requests.filter (fun q => decide (q.1 ≠ y)) ∧ b.started = 0 ∧ b.since = s.now ∧ b.lastWin = k.val) ∧
  (∀ (s : State) (cl : Fin 64) (a : ArraySt) (y : CtxId) (c : Ctx), arrayOf s cl = some a → a.holder = some y → s.ctx y = some c →
    leaseOver s a = true → c.cmds.any arrayBusy = false →
    (leaseWanted a = true → exec (.leaseBound cl) s = .next (releaseLease s c.id)) ∧
    (leaseWanted a = false → exec (.leaseBound cl) s = .next (putArray s { a with started := 0, since := s.now, timeout := none }))) ∧
  (∀ (s : State) (cl : Fin 64) (a : ArraySt) (y : CtxId) (c : Ctx) (d : Cmd) (m : MacroSt) (t : Nat), arrayOf s cl = some a →
    a.holder = some y → s.ctx y = some c → a.timeout = some t → t ≤ s.now → macroOf c = some (d, m) →
    exec (.leaseTimeout cl) s = .next (macroTrap (putArray s { a with timeout := none }) c d m ⟨11, 0, 2, 0⟩))) ∧
  (∀ (s : State) (k : CoreId) (y : CoreSt), s.core k = some y → 64 ≤ y.quiet →
    (∀ n q r c, neediest (fullWaits s k) = some (n, q, r) → s.ctx r.ctx = some c →
      (16 ≤ y.pool → ∃ d : Ctx, exec (.quiescenceTimeout k) s = .next ((s.putCtx d).putCore { y with pool := y.pool - 16, quiet := 0 }) ∧
        d.id = c.id ∧ queueDepth d q = queueDepth c q + 16 ∧ (∀ p, p ≠ q → queueDepth d p = queueDepth c p) ∧ d.cmds = c.cmds ∧ d.st = c.st) ∧
      (y.pool < 16 → exec (.quiescenceTimeout k) s = .next (takeTrap (s.putCore { y with quiet := 0 }) r
        ⟨9, queueEng q + 8 * r.ctx.ctx.val, heldEng (c.stream r.st), 0⟩ (c.stream r.st).pc false))) ∧
    (neediest (fullWaits s k) = none → exec (.quiescenceTimeout k) s = .next (deadlocked (s.putCore { y with quiet := 0 }) k)))

/-- R16, R20, R22, R254, R255, R309, R323: Cairn makes at most one dispatch in a cycle (the end of a job counts as one: log 17), and none before its
ready bit is set and its tables can be read; an error in the region table stops the module (that a dispatch meets it is the model's reading: log 85).
The first entry of the pool, in dispatch order, that fits a context is dispatched to the first one it
fits: a new instance starts in its C stream at the entry with the launch arguments, and its entry leaves the pool and runs; a saved one is restored
there, on any core of its kind (the model's reading: log 87). A job lifted off goes back to its place, where that core takes jobs. A
pre-empted job is saved, frozen, and gives its place back. -/
def Obligations.CairnDispatchesAndPreempts : Prop :=
  (∀ s : State, (s.dispatched = some s.now ∨ s.hub.rdyHub.getLsbD 3 = false ∨ tableReady s = false) →
    exec .cairnDispatch s = .refused (.notEnabled "CAIRN_DISPATCH")) ∧
  (∀ s : State, s.dispatched ≠ some s.now → s.hub.rdyHub.getLsbD 3 = true → tableReady s = true → tableStruck s = true →
    ∃ t, exec .cairnDispatch s = .next t ∧ t.hub.rasFatal = true) ∧
  (∀ (s u : State) (l m : List (Graph × Nat × Nat)) (g : Graph) (st i : Nat) (x : CtxId),
    s.dispatched ≠ some s.now → s.hub.rdyHub.getLsbD 3 = true → tableReady s = true → tableStruck s = false → liftedReady s = none →
    u = fillPool s →
    poolOrder u = l ++ (g, st, i) :: m →
    (∀ e ∈ l, regionOk u e.1.region = true ∧ ∀ y ∈ allPlaces, fits u e.1 e.2.1 e.2.2 y = false) → regionOk u g.region = true →
    allPlaces.find? (fits u g st i) = some x →
    (∀ c, savedOf u g st i = some c → exec .cairnDispatch s = .next (thaw (restore (toRunning u g st i) c x) x)) ∧
    (∀ v, savedOf u g st i = none →
      allocDecls { u with ctxs := u.ctxs ++ [newCtx u g st i x] } x (g.decls.getD i []) = .ok v →
      ∃ (t : State) (c : Ctx), exec .cairnDispatch s = .next t ∧ t.dispatched = some s.now ∧ t.ctx x = some c ∧ c.card.graph = g.addr ∧
        c.card.node = i ∧ c.card.step = BitVec.ofNat 32 st ∧ (c.stream .C).run = .run ∧
        (c.stream .C).pc = BitVec.ofNat 64 (c.card.entry.toNat % 2 ^ 52 / 4 * 4) ∧
        (∀ j : Fin 15, (c.stream .C).sreg ⟨j.val + 1, by omega⟩ = c.card.args.get j) ∧
        (∀ n : SReg, 15 < n.val → (c.stream .C).sreg n = 0) ∧ (∀ j, j ≠ .C → (c.stream j).run = .off) ∧
        ∀ h ∈ t.graphs, h.addr = g.addr → h.running = (st, i) :: g.running ∧ (st, i) ∉ h.pool)) ∧
  (∀ (s : State) (c : Ctx), s.dispatched ≠ some s.now → s.hub.rdyHub.getLsbD 3 = true → tableReady s = true → tableStruck s = false →
    liftedReady s = some c → exec .cairnDispatch s = .next { restore s c c.id with dispatched := some s.now }) ∧
  (∀ (s : State) (x : CtxId) (c : Ctx), s.ctx x = some c → x.core.isSup = false → c.frozen = false → liftable c = true →
    ∃ t : State, exec (.preEmption x) s = .next t ∧ t.ctx x = none ∧
      ∃ y ∈ t.saved, y.id = x ∧ y.job = c.job ∧ y.frozen = true ∧ y.v = c.v ∧ y.p = c.p ∧ y.acc = c.acc ∧
        (∀ i, (c.stream i).run.live = true → (c.stream i).stopped = false → (y.stream i).epc = (c.stream i).pc))

/-! ## Fabric (spec/09_fabric_adjoint_system.md, spec/16_fabric_and_traverse.md) -/

namespace Sys2Proof.Claims

/-- A command of a job that runs. -/
def running (s : State) (x : CmdRef) (c : Ctx) (d : Cmd) : Prop := s.ctx x.ctx = some c ∧ cmdsRun c = true ∧ c.cmd x.seq = some d

/-- One lane goes to a state, and every other lane stays as it is; jobs and packets are untouched. -/
def laneGoes (s t : State) (p : Port) (l : Lane) (st : Fin 6) : Prop :=
  (laneOf t p l).state = st ∧ (∀ q m, (q ≠ p ∨ m ≠ l) → laneOf t q m = laneOf s q m) ∧ t.ctxs = s.ctxs ∧ t.router = s.router

/-- The lanes of a port that become lit enter TRAIN; its other lanes keep their state (R324). -/
def lightsUp (s t : State) (p : Port) : Prop :=
  ∀ l, (laneOf t p l).state = if t.hub.lit p l = true ∧ s.hub.lit p l = false then 1 else (laneOf s p l).state

/-- What a module that is not lost gets when a job hands it a packet: the next number of its channel, and a place behind the packets that wait
(a packet of a gang that is swept off, or whose `GRES` runs, gets its number when the switch is over: R319). -/
def handedOver (s t : State) (c : Ctx) (dst : Fid) (vc : Fin 8) (b : PacketBody) : Prop :=
  ∃ k : Packet, k = ⟨ownFid, dst, vc, assocGet 0 s.router.txSeq (dst, vc), gangTag s c, c.card.region, b⟩ ∧
    assocGet 0 t.router.txSeq (dst, vc) = k.seq + 1 ∧
    (if dst = ownFid then t.router.locals = s.router.locals ++ [k] ∧ t.router.out = s.router.out
      else t.router.out = s.router.out ++ [k] ∧ t.router.locals = s.router.locals)

/-- The packet of a `ZPUSH`: 256 bytes of its row for a register at the peer's core. -/
def entryOf (d : Cmd) (x : ZState) (y : Handle) : PacketBody :=
  .entry ⟨match x.peerCtx with | some p => .core p.1 p.2 | none => .sup, 0⟩ x.peerZ
    (y.bytes (svRow d.sval.toNat) (svCol d.sval.toNat) 256)

/-- Entries of a register that hold a packet, or that a sender of this module or of another has a credit for (R190). -/
def entriesTaken (z : ZState) : Nat := z.buf.length + z.granted + z.lent.length

/-- May a packet from a module take an entry of a register: one that its sender has a credit for, or one that nobody has (log 76)? -/
def entryOpen (z : ZState) (src : Fid) : Prop :=
  z.buf.length < 8 ∧ ((if src = ownFid then 0 < z.granted else src ∈ z.lent) ∨ entriesTaken z < 8)

/-- Has a waiting `ZPUSH` an open register of its peer core with room to take a credit from, its request being the first? -/
def mayCredit (s : State) (x : CmdRef) (z : ZState) (t : Nat) (j : Ctx) : Prop :=
  z.peer = ownFid ∧ ∃ p : Die × Fin 96, z.peerCtx = some p ∧
    (openAt s.ctxs (.core p.1 p.2) z.peerZ).find? (fun j => decide (entriesTaken (j.z.get z.peerZ) < 8)) = some j ∧
    firstRequest (creditWaiters s j.id.core z.peerZ) x.ctx x.seq t = true ∧
    ∀ q ∈ s.router.zreqs, q.core = j.id.core → q.z = z.peerZ → t ≤ q.since

end Sys2Proof.Claims

/-- R189-R191: a waiting `ZPUSH` gets its credit, and its packet goes to the router: 256 bytes of its row, for its register at the peer's
core, on its channel. The first request for a register, from this module or another, gets a free entry of an open one (a credit that another
module gives comes from outside: log 76). One that has waited `wdog` cycles and has no free entry to take traps with cause 12, and so does a `ZPOP` that finds
no entry. A lost module gives no credit. -/
def Obligations.StreamRegisterCreditsAndWatchdogs : Prop :=
  (∀ (s : State) (x : CmdRef) (c : Ctx) (d : Cmd) (g : Guard) (h : HId) (q : SReg) (z : ZReg) (t : Nat) (y : Handle), Claims.running s x c d →
    d.word = .zpush g h q z → d.prog = .waiting t → c.handle h = some y →
    (∀ u : Ctx, (c.z.get z).peer ∉ s.router.lost → gangReadable s = true → gangMuted s (gangTag s c).val = false →
      (c.z.get z).peer ≠ ownFid ∨ (Claims.mayCredit s x (c.z.get z) t u ∧ (u.id = c.id → u = c)) →
      ∃ (v : State) (e : Ctx), exec (.creditGrant x) s = .next v ∧ Claims.handedOver s v c (c.z.get z).peer (c.z.get z).vc
        (Claims.entryOf d (c.z.get z) y) ∧ v.ctx x.ctx = some e ∧ e.cmd x.seq = some { d with prog := .done } ∧
        ((c.z.get z).peer = ownFid → ∃ w : Ctx, v.ctx u.id = some w ∧
          (w.z.get (c.z.get z).peerZ).granted = (u.z.get (c.z.get z).peerZ).granted + 1)) ∧
    ((c.z.get z).peer ∈ s.router.lost → exec (.creditGrant x) s = .refused (.notEnabled "CREDIT_GRANT")) ∧
    ((c.stream d.src).wdog ≤ s.now - t → ((c.z.get z).peer ∈ s.router.lost ∨ ∀ u, ¬Claims.mayCredit s x (c.z.get z) t u) →
      exec (.zpushWatchdog x) s = .next (cmdTrap (s.putCmd c.id { d with prog := .queued }) c.id
        { d with prog := .queued } ⟨12, 16 + z.val, 5, 0⟩))) ∧
  (∀ (s : State) (q : ZReq) (j : Ctx), q ∈ s.router.zreqs → (∀ p ∈ s.router.zreqs, p.core = q.core → p.z = q.z → q.since ≤ p.since) →
    (∀ w ∈ creditWaiters s q.core q.z, q.since ≤ w.2.2) →
    (openAt s.ctxs q.core q.z).find? (fun j => decide (Claims.entriesTaken (j.z.get q.z) < 8)) = some j →
    ∃ (t : State) (e : Ctx), lendCredit s q = some t ∧ t.ctx j.id = some e ∧ (e.z.get q.z).lent = q.src :: (j.z.get q.z).lent ∧
      t.router.zreqs = s.router.zreqs.erase q) ∧
  (∀ (s : State) (x : CmdRef) (c : Ctx) (d : Cmd) (g : Guard) (h : HId) (q : SReg) (z : ZReg) (t : Nat), Claims.running s x c d →
    d.word = .zpop g h q z → d.prog = .waiting t → (c.stream d.src).wdog ≤ s.now - t →
    ((c.z.get z).buf = [] → exec (.zpopWatchdog x) s = .next (cmdTrap (s.putCmd c.id { d with prog := .queued }) c.id
      { d with prog := .queued } ⟨12, z.val, 5, 0⟩)) ∧
    ((c.z.get z).buf ≠ [] → exec (.zpopWatchdog x) s = .refused (.notEnabled "ZPOP_WATCHDOG")))

/-- R281-R283, R324, Table 16.2: the states of a lane: it trains when it is lit, carries data when trained or is DOWN when a NAK says that
its training has failed (log 58), goes dark when its receive fibre loses light and leaves that state through TRAIN or to DOWN only, replays
after a NAK, in the dark too, and is DOWN after 16 failed replays in a row, and is OFF when it is lit no more. Loss of supply light is
logged whatever the lanes do. R279, R324, Table 16.1: writes to `lt.req`, `lt.grant` and `pt.cfg` store the bits of the register, and the
lanes that become lit enter TRAIN. -/
def Obligations.LanesFollowTheirLight : Prop :=
  (∀ (s : State) (p : Port) (l : Lane) (y : LaneSt), y = laneOf s p l →
    (y.state = 1 → s.hub.lit p l = true → (∃ t, exec (.laneTrained p l) s = .next t ∧ Claims.laneGoes s t p l 2) ∧
      ∃ t, exec (.nakReceived p l false) s = .next t ∧ Claims.laneGoes s t p l 5) ∧
    ((y.state = 1 ∨ y.state = 2 ∨ y.state = 3) → s.hub.lit p l = true →
      ∃ t, exec (.rxLightLoss p l) s = .next t ∧ Claims.laneGoes s t p l 4) ∧
    (y.state = 4 → (∃ t, exec (.rxLightReturn p l) s = .next t ∧ Claims.laneGoes s t p l 1) ∧
      (y.fails < 16 → ∃ t, exec (.nakReceived p l false) s = .next t ∧ Claims.laneGoes s t p l 4 ∧ (laneOf t p l).fails = y.fails + 1 ∧
        (t.hub.port p).retries = (s.hub.port p).retries + 1) ∧
      (16 ≤ y.fails → ∃ t, exec (.nakReceived p l false) s = .next t ∧ Claims.laneGoes s t p l 5) ∧
      (y.fails = 0 → exec (.nakReceived p l true) s = .refused (.notEnabled "NAK_RECEIVED")) ∧
      (y.fails ≠ 0 → ∃ t, exec (.nakReceived p l true) s = .next t ∧ Claims.laneGoes s t p l 4 ∧ (laneOf t p l).fails = 0)) ∧
    (y.state ≠ 0 → s.hub.lit p l = false → ∃ t, exec (.laneUnlit p l) s = .next t ∧ Claims.laneGoes s t p l 0) ∧
    (y.state = 2 → ∃ t, exec (.nakReceived p l false) s = .next t ∧ Claims.laneGoes s t p l 3 ∧
      (t.hub.port p).retries = (s.hub.port p).retries + 1) ∧
    (y.state = 3 → (∃ t, exec (.nakReceived p l true) s = .next t ∧ Claims.laneGoes s t p l 2) ∧
      (15 ≤ y.fails → ∃ t, exec (.nakReceived p l false) s = .next t ∧ Claims.laneGoes s t p l 5) ∧
      (y.fails < 15 → ∃ t, exec (.nakReceived p l false) s = .next t ∧ Claims.laneGoes s t p l 3 ∧ (laneOf t p l).fails = y.fails + 1)) ∧
    ((y.state = 2 ∨ y.state = 3) → ∀ ok, ∃ t, exec (.flitReceived p l ok) s = .next t ∧ Claims.laneGoes s t p l y.state ∧
      (laneOf t p l).holding = !ok) ∧
    ((s.hub.port p).supply = true → ∃ t, exec (.supplyLightLoss p) s = .next t ∧ (t.hub.port p).supply = false ∧
      (∀ m, (laneOf t p m).state = 0) ∧
      ((∀ m, (laneOf s p m).state = 0) → t.hub.mseq = (s.hub.mseq + 1) % 2 ^ 64)) ∧
    ((s.hub.port p).supply = false → ∃ t, exec (.supplyLightReturn p) s = .next t ∧ (t.hub.port p).supply = true ∧ Claims.lightsUp s t p)) ∧
  (∀ (s : State) (p : Port) (v : Word),
    (∃ t, exec (.lightRequestWrite p v) s = .next t ∧ (t.hub.port p).req = v.setWidth 8 ∧ (t.hub.port p).grant = (s.hub.port p).grant ∧
      (t.hub.port p).cfg = (s.hub.port p).cfg ∧ Claims.lightsUp s t p) ∧
    (∃ t, exec (.lightGrantWrite p v) s = .next t ∧ (t.hub.port p).grant = v.setWidth 8 ∧ (t.hub.port p).req = (s.hub.port p).req ∧
      (t.hub.port p).cfg = (s.hub.port p).cfg ∧ Claims.lightsUp s t p) ∧
    (∃ t, exec (.portConfigWrite p v) s = .next t ∧ (t.hub.port p).cfg = BitVec.ofNat 64 (v.toNat % 16) ∧
      (t.hub.port p).req = (s.hub.port p).req ∧ (t.hub.port p).grant = (s.hub.port p).grant ∧ Claims.lightsUp s t p))

/-- R192, R280, R288: an announcement is remembered with its colour, and its sender has been heard now, and with it those that it relays for
and passes on (which of them is free: log 73); the router retunes slot 0 of every receive fibre to the colour that has announced traffic
longest and that no slot 0 passes; a retuned slot passes
nothing for 400 cycles, and its new colour from then on, which ends the `TUNE`s that wait for it. This module announces each module for
which it holds packets at a port, and the colours that its slots there pass (log 97). -/
def Obligations.FiltersRetuneAndSettle : Prop :=
  (∀ (s : State) (p : Port) (l : Lane) (col : Fin 8) (pending : Bool) (passes : BitVec 8),
    ((laneOf s p l).state = 2 ∨ (laneOf s p l).state = 3) →
    ∃ (t : State) (h : Heard), exec (.announcementReceived p l col pending passes) s = .next t ∧ h ∈ (t.hub.port p).heard ∧
      h.colour = col ∧ h.at_ = s.now ∧ h.pending = pending ∧ h.passes = passes ∧
      (∀ k, k.colour ≠ col → (k ∈ (t.hub.port p).heard ↔ k ∈ (s.hub.port p).heard)) ∧
      (∀ m f, memberOn (s.hub.port p) col = some m → (f = m ∨ f ∈ passedOn s m) → assocFind t.router.lastHeard f = some s.now) ∧
      ∀ f, (∀ m, memberOn (s.hub.port p) col = some m → f ≠ m ∧ f ∉ passedOn s m) →
        assocFind t.router.lastHeard f = assocFind s.router.lastHeard f) ∧
  (∀ (s : State) (m f : Fid), f ∈ passedOn s m ↔ (bitN (assocGet 0 s.hub.routes f).toNat 19 = true ∧
    fidOf (bitsN (assocGet 0 s.hub.routes f).toNat 18 7) = m ∧ Config.relayed s.free f = true)) ∧
  (∀ (s : State) (p : Port), (∀ l, ((laneOf s p l).slot0).settle = none) →
    (∃ k ∈ (s.hub.port p).heard, k.pending = true ∧ ∀ l, (laneOf s p l).slot0.colour ≠ some k.colour) →
    ∃ (t : State) (h : Heard), exec (.slot0Retune p) s = .next t ∧ h ∈ (s.hub.port p).heard ∧ h.pending = true ∧
      (∀ l, (laneOf s p l).slot0.colour ≠ some h.colour) ∧
      (∀ k ∈ (s.hub.port p).heard, k.pending = true → (∀ l, (laneOf s p l).slot0.colour ≠ some k.colour) → h.since ≤ k.since) ∧
      ∀ l, (laneOf t p l).slot0 = ⟨none, some (s.now + 400, some h.colour)⟩ ∧ (laneOf t p l).slot1 = (laneOf s p l).slot1) ∧
  (∀ (s : State) (p : Port) (slot : Bool), (∃ l, slotDue s p slot l = true) →
    ∃ t, exec (.filterSettled p slot) s = .next t ∧
      (∀ l, (laneOf t p l).slot slot = match ((laneOf s p l).slot slot).settle with
        | some q => if q.1 ≤ s.now then ⟨q.2, none⟩ else (laneOf s p l).slot slot
        | none => (laneOf s p l).slot slot) ∧
      (∀ c ∈ s.ctxs, ∀ d ∈ c.cmds, ∀ u, d.prog = .tune p slot u → u ≤ s.now →
        ∃ e ∈ t.ctxs, e.id = c.id ∧ { d with prog := .done } ∈ e.cmds) ∧
      ∀ c ∈ s.saved, ∀ d ∈ c.cmds, ∀ u, d.prog = .tune p slot u → u ≤ s.now →
        ∃ e ∈ t.saved, e.id = c.id ∧ { d with prog := .done } ∈ e.cmds) ∧
  (∀ (s : State) (p : Port), (∀ f, f ∈ announces s p ↔ ∃ k ∈ s.router.out, k.dst = f ∧ ∃ q, routeOf s f = some q ∧ q.1 = p) ∧
    ∀ c, passesColour s p c = true ↔ ∃ l, (laneOf s p l).slot0.colour = some c ∨ (laneOf s p l).slot1.colour = some c)

/-- R284-R286, R15, R323: a port sends the first packet of a channel, of the flow with the most credit (R167), which then pays the weights of all
(that the flows that can send a packet now take part, and no others, is the model's reading: log 79); copies of one multicast behind it leave with it
(in one grant: log 77); nothing else leaves, and nothing is lost. A packet for another module is passed on, or dropped
and logged where that module is lost; one for this module that has come before is dropped; one that comes too early is kept; one in its
turn is delivered: an entry joins the buffer of its register when it may take a place there, and waits before, behind any that came earlier for that
register and may be delivered (R318); a request for an entry is noted. A full input buffer takes nothing (its size is free: log 95), and nor does a router
whose bit is not set, or a module no port of which is ready. That a module goes on forwarding after a fatal error (log 15), that a waiting packet
starts the count of a module never heard of (log 73), and which entries a packet for a register may take (log 76) are the model's. -/
def Obligations.PacketsAreSentAndReceived : Prop :=
  (∀ (s : State) (p : Port), (∃ k, (flowQueue s p (flowOf k) k.vc.val).head? = some k ∧ sendable s p k = true) →
    ∃ (t : State) (k : Packet), exec (.portGrant p) s = .next t ∧ (flowQueue s p (flowOf k) k.vc.val).head? = some k ∧
      sendable s p k = true ∧ (p, k) ∈ t.router.sent ∧ k ∉ t.router.out ∧
      (∀ j ∈ s.router.out, j ∈ t.router.out ∨ ((p, j) ∈ t.router.sent ∧ sendable s p j = true ∧ sameCast k j = true)) ∧
      (∀ j ∈ t.router.out, j ∈ s.router.out) ∧ (t.hub.port p).lastWin = some (flowOf k) ∧
      (∀ f ∈ flowsOf s p, assocGet 0 (s.hub.port p).credit f + flowWeight s f ≤
        assocGet 0 (s.hub.port p).credit (flowOf k) + flowWeight s (flowOf k)) ∧
      assocGet 0 (t.hub.port p).credit (flowOf k) = assocGet 0 (s.hub.port p).credit (flowOf k) + flowWeight s (flowOf k) -
        ((flowsOf s p).map (flowWeight s)).sum ∧
      t.ctxs = s.ctxs ∧ t.mem = s.mem) ∧
  (∀ (s : State) (k : Packet), (if k.dst = ownFid then s.hub.routerOn else s.hub.forwards) = false →
    exec (.packetArrival k) s = .refused (.notEnabled "PACKET_ARRIVAL")) ∧
  (∀ h : HubSt, (h.routerOn = true ↔ h.powered = true ∧ h.rdyHub.getLsbD 4 = true) ∧
    (h.forwards = true ↔ h.powered = true ∧ (h.rdyHub.getLsbD 4 = true ∨ h.fatalPorts ≠ 0)) ∧
    (h.portsOn = true ↔ ∃ n < 64, h.rdyPort.getLsbD n = true ∨ h.fatalPorts.getLsbD n = true)) ∧
  (∀ (s : State) (k : Packet), k ∉ s.router.waitq → k ∉ s.router.locals → s.hub.portsOn = false →
    exec (.packetArrival k) s = .refused (.notEnabled "PACKET_ARRIVAL")) ∧
  (∀ (s : State) (k : Packet), k ∉ s.router.waitq → k ∉ s.router.locals → k.src ≠ ownFid →
    (if k.dst = ownFid then s.hub.routerOn else s.hub.forwards) = true → s.hub.portsOn = true →
    (k.dst = ownFid → ∀ dst z, k.body = .request dst z → k.src ∉ s.router.lost → exec (.packetArrival k) s =
      .next (s.setRouter { s.router with zreqs := s.router.zreqs ++ [⟨dst.core, z, k.src, s.now⟩] })) ∧
    (inputRoom s k = false → (k.dst = ownFid → isRequest k.body = false) →
      exec (.packetArrival k) s = .refused (.notEnabled "PACKET_ARRIVAL")) ∧
    (inputRoom s k = true → k.dst ≠ ownFid → k.dst ∉ s.router.lost →
      exec (.packetArrival k) s = .next (s.setRouter { s.router with
        out := s.router.out ++ [k], lastHeard := awaitHearing s.router.lastHeard k.dst s.now })) ∧
    (inputRoom s k = true → k.dst ≠ ownFid → k.dst ∈ s.router.lost → exec (.packetArrival k) s = .next (logPacket s 5 k)) ∧
    (inputRoom s k = true → k.dst = ownFid → isRequest k.body = false → ∀ n, n = assocGet 0 s.router.rxSeq (k.src, k.vc) →
      (k.seq = n → exec (.packetArrival k) s = .next (deliverFrom s k (s.router.held.length + 1)) ∧
        ∀ (c : Ctx) (dst : CtxId) (z : ZReg) (bs : List Byte), k.gang = 0 → k.body = .entry dst z bs →
          (∀ j ∈ s.router.waitq ++ s.router.held, j.src = k.src → j.vc ≠ k.vc) → openAt s.ctxs dst.core z = [c] →
          (Claims.entryOpen (c.z.get z) k.src → (∀ j ∈ s.router.waitq, sameTarget j.body k.body = false) →
            ∃ (t : State) (e : Ctx), exec (.packetArrival k) s = .next t ∧ t.ctx c.id = some e ∧
            (e.z.get z).buf = (c.z.get z).buf ++ [(k.src, k.vc.val, k.seq.toNat, bs)] ∧
            assocGet 0 t.router.rxSeq (k.src, k.vc) = k.seq + 1) ∧
          (¬Claims.entryOpen (c.z.get z) k.src → ∃ t : State, exec (.packetArrival k) s = .next t ∧ k ∈ t.router.waitq ∧ t.ctxs = s.ctxs)) ∧
      (k.seq ≠ n → 2 ^ 31 ≤ (k.seq - n).toNat → exec (.packetArrival k) s = .next s) ∧
      (k.seq ≠ n → (k.seq - n).toNat < 2 ^ 31 → (∀ j ∈ s.router.held, ¬(j.src = k.src ∧ j.vc = k.vc ∧ j.seq = k.seq)) →
        exec (.packetArrival k) s = .next (s.setRouter { s.router with held := s.router.held ++ [k] })))) ∧
  (∀ (s : State) (k : Packet), k ∈ s.router.waitq → k.gang = 0 → firstWaiting s k = true →
    (if k.dst = ownFid then s.hub.routerOn else s.hub.forwards) = true →
    ∀ (c : Ctx) (dst : CtxId) (z : ZReg) (bs : List Byte), k.body = .entry dst z bs → openAt s.ctxs dst.core z = [c] →
      ((¬Claims.entryOpen (c.z.get z) k.src ∨ passedOver s k = true) → exec (.packetArrival k) s = .refused (.notEnabled "PACKET_ARRIVAL")) ∧
      (Claims.entryOpen (c.z.get z) k.src → passedOver s k = false → ∃ (t : State) (e : Ctx), exec (.packetArrival k) s = .next t ∧ t.ctx c.id = some e ∧
        (e.z.get z).buf = (c.z.get z).buf ++ [(k.src, k.vc.val, k.seq.toNat, bs)] ∧ t.router.waitq.length + 1 = s.router.waitq.length))

/-- R193-R196, R293-R298, R300: a collective goes on and ends when its condition holds. A Traverse checks its destination, writes its own
piece and announces itself to every supplier, and ends when every piece is written, or its path is lost; a push ends with its result; a
combine sums the rows of its token in the order of expert and slot, one token at a time, and ends after the last. The end joins its flags to
those of its stream, writes the status word, and after that arrives at the cell; an arrival that fails traps, with the status written (log
93). A closed key opens again at its time. (A second contribution of a rank is held back: log 40.) R287, R288, R296, R297: a module that is
declared lost, or not heard of for 131,072 cycles, is lost; nothing waits for it any more, and nothing is sent to it; a push whose home it
is ends with code 3, a Traverse that still needs a piece of it with code 3, and one that does not names its rank with code 2; a group that
lacks a contribution ends, whichever module is lost (the model's reading: log 78), and its key is closed for 262,144 cycles. A module never
heard of counts from the first packet that waits for it (log 73). -/
def Obligations.CollectivesEndAndModulesAreLost : Prop :=
  ((∀ (s u v w : State) (x : CmdRef) (c : Ctx) (d : Cmd) (t : TravSt) (q : TravDesc), Claims.running s x c d → d.prog = .trav t →
    q = travDesc t.block →
    (t.announced = false → gangReadable s = true → elemsCheck s c (whoCmd s c d) q (t.ents.getD t.rank 0) t.rank (travElems q t) = .ok u →
      (if t.own = [] then v = u else elemsWrite u c (whoCmd s c d) q (t.ents.getD t.rank 0) t.rank t.own (q.piece t.rank t.rank) = .ok v) →
      exec (.travAnnounce x) s = .next (((if q.mode = 0 then t.need.map fun n => n.1 else t.need.flatMap fun n => q.addends n.1).foldl
        (fun y a => sendJob y c (entPos (t.ents.getD a 0)).1 q.vc (.announce (entPos (t.ents.getD a 0)).2 c.id q.id t.inst a t.rank)) v).putCmd c.id
          { d with prog := .trav { t with announced := true, own := [] } })) ∧
    ((t.code = 3 ∨ (t.announced = true ∧ ∀ n ∈ t.need, n.2 = 0)) →
      endCollective s c.id d (if t.code = 0 then 1 else t.code) t.lostRank t.flags q.cell = some w → exec (.travComplete x) s = .next w)) ∧
  (∀ (s : State) (c : Ctx) (dst : Fid) (vc : Fin 8) (b : PacketBody), dst ∉ s.router.lost →
    gangMuted s (gangTag s c).val = false → Claims.handedOver s (sendJob s c dst vc b) c dst vc b) ∧
  (∀ (s u v : State) (x : CmdRef) (c : Ctx) (d f : Cmd) (p : PushSt) (q : PushDesc), Claims.running s x c d → d.prog = .push p → p.code ≠ 0 →
    q = pushDesc p.desc →
    (match q.dst with
      | some e => if p.code = 3 ∨ p.nparts = 0 then v = s else endStore s c.id (whoCmd s c d) e (joinParts p.parts p.nparts) = .ok v
      | none => v = s) →
    f = { ((v.ctx c.id).bind fun y => y.cmd d.seq).getD d with prog := .push { p with parts := [], nparts := 0 } } →
    endCollective (v.putCmd c.id f) c.id f p.code p.lostRank (if p.code = 3 then 0 else p.flags) (if q.arv then some q.cell else none) = some u →
    exec (.pushrComplete x) s = .next u) ∧
  (∀ (s u : State) (x : CmdRef) (c : Ctx) (d : Cmd) (bs : List Byte) (n token : Nat) (fl : FFlags), Claims.running s x c d →
    d.prog = .ncomb bs n token fl →
    ((combDesc bs).t ≤ token → endCollective s c.id d 1 0 fl (combDesc bs).cell = some u → exec (.ncombComplete x) s = .next u) ∧
    (token < (combDesc bs).t → exec (.ncombComplete x) s = .refused (.notEnabled "NCOMB_COMPLETE") ∧
      (combWaits s c.id n = false → ∀ (i g y o : Handle) (r : List (Machine.Num × FFlags)), c.handle (combDesc bs).inp.1 = some i →
        c.handle (combDesc bs).gate.1 = some g → c.handle (combDesc bs).idx.1 = some y → c.handle (combDesc bs).out.1 = some o →
        r = combToken (combDesc bs) i g y token →
        combStep s c d bs n token fl = some ((nPut s c.id (combDesc bs).out.1 ((combDesc bs).out.2 + token) 0
          (numsRow (handleFmt s c o) (handleSplit s c o).val (c.stream d.src).satfp false (r.map fun a => a.1)).1).putCmd c.id
            { d with prog := .ncomb bs n (token + 1) (fl ||| r.foldl (fun f a => f ||| a.2)
              (numsRow (handleFmt s c o) (handleSplit s c o).val (c.stream d.src).satfp false (r.map fun a => a.1)).2) })))) ∧
  (∀ (q : CombDesc) (i g y : Handle) (t : Nat), ∃ l : List Nat, l.Perm (List.range q.k) ∧
    l.Pairwise (fun a b => y.runOn 2 q.idx.2 (t * q.k + a) < y.runOn 2 q.idx.2 (t * q.k + b) ∨
      (y.runOn 2 q.idx.2 (t * q.k + a) = y.runOn 2 q.idx.2 (t * q.k + b) ∧ a < b)) ∧
    combToken q i g y t = (List.range q.h).map fun col => combSum (l.map fun a =>
      (f32.decode (g.runOn 10 q.gate.2 (t * q.k + a)), f32.decode (i.raw 10 (q.inp.2 + t * q.k + a) col)))) ∧
  combSum [] = (.zero, fNone) ∧
  (∀ (l : List (Machine.Num × Machine.Num)) (a b : Machine.Num),
    (combSum (l ++ [(a, b)])).1 = (rne32 (Machine.Num.add .rne (combSum l).1 (rne32 (Machine.Num.mul a b)).1)).1) ∧
  (∀ (s : State) (x : CtxId) (c : Ctx) (d : Cmd) (code rank : Nat) (fl : FFlags), s.ctx x = some c → c.cmd d.seq = some d →
    (∃ (t : State) (e : Ctx) (f : Cmd), endCollective s x d code rank fl none = some t ∧ t.ctx x = some e ∧ e.cmd d.seq = some f ∧
      f.prog = .done ∧ f.flags = d.flags ∧ (e.stream d.src).fflags = (c.stream d.src).fflags ||| fl ∧
      ∀ (h : HId) (o : Nat) (y : Handle), statusPlace d.word = some (h, o) → c.handle h = some y → Memory.wf y.data = true →
        code < 256 → rank < 4096 → ∃ z : Handle, e.handle h = some z ∧
          z.bytes (svRow d.sval.toNat) o 4 = leBytes 4 (code + if code = 2 then rank * 256 else 0)) ∧
    (∀ (q : HId × Nat) (u : State), u = putStatus (s.mapCtx x fun y => y.putStream d.src ((y.stream d.src).orFlags fl)) x d code rank →
      (∀ (t : State) (f : Cmd), cmdArrive u x d q = .ok (t, f) →
        endCollective s x d code rank fl (some q) = some (t.putCmd x { f with prog := .done })) ∧
      (∀ k a b, cmdArrive u x d q = .fail k a b → endCollective s x d code rank fl (some q) = some (cmdTrap u x d ⟨k, a, queueEng d.q, b⟩)))) ∧
  (∀ (s : State) (k : GroupKey) (n : Nat), assocFind s.router.closed k = some n → n ≤ s.now →
    ∃ t, exec (.pushKeyReopen k) s = .next t ∧ keyClosed t k = false)) ∧
  ((∀ (s : State) (v : Word) (f : Fid), f.val = v.toNat % 4096 → f ≠ ownFid →
    ∃ t, exec (.hubLostWrite v) s = .next t ∧ t = loseModule s f ∧ f ∈ t.router.lost) ∧
  (∀ (s : State) (f : Fid) (n : Nat), assocFind s.router.lastHeard f = some n → f ∉ s.router.lost → f ≠ ownFid →
    (131072 ≤ s.now - n → ∃ t, exec (.moduleLostTimeout f) s = .next t ∧ t = loseModule s f ∧ f ∈ t.router.lost) ∧
    (s.now - n < 131072 → exec (.moduleLostTimeout f) s = .refused (.notEnabled "MODULE_LOST_TIMEOUT"))) ∧
  (∀ (s t : State) (f : Fid), f ∉ s.router.lost → f ≠ ownFid → t = loseModule s f →
    (∀ g, g ∈ t.router.lost ↔ g = f ∨ g ∈ s.router.lost) ∧ (∀ k ∈ t.router.out, k.dst ≠ f) ∧
    (∀ g ∈ s.router.groups, g.full = false → (∀ k ∈ s.router.groups, k.key = g.key → k = g) → assocFind t.router.closed g.key = some (s.now + 262144) ∧
      ∀ k ∈ t.router.groups, k.key ≠ g.key) ∧
    (∀ (x : CtxId) (c : Ctx) (d : Cmd), s.ctx x = some c → d ∈ c.cmds →
      (∀ p : PushSt, d.prog = .push p → p.code = 0 → (pushDesc p.desc).home = f →
        ∃ e, t.ctx x = some e ∧ { d with prog := .push { p with code := 3 } } ∈ e.cmds) ∧
      (∀ (p : TravSt) (q : TravDesc) (a : Nat), d.prog = .trav p → q = travDesc p.block → q.mode = 0 → q.ring = none → p.code = 0 →
        a < q.count → a ≠ p.rank → (entPos (p.ents.getD a 0)).1 = f →
        ((∃ n ∈ p.need, n.1 < q.count ∧ n.1 ≠ p.rank ∧ (entPos (p.ents.getD n.1 0)).1 = f ∧ piecesHere s q p n.1 < n.2) →
          ∃ e, t.ctx x = some e ∧ { d with prog := .trav { p with code := 3, lostRank := 0 } } ∈ e.cmds) ∧
        ((∀ n ∈ p.need, n.2 = 0) →
          ∃ e r, t.ctx x = some e ∧ r ≤ a ∧ { d with prog := .trav { p with code := 2, lostRank := r } } ∈ e.cmds)))) ∧
  (∀ (s : State) (dst : Fid) (vc : Fin 8) (g : Fin 4096) (r : Nat) (b : PacketBody), dst ∈ s.router.lost →
    sendPacket s dst vc g r b = s))

/-- R288: a module that is lost stays lost while the module has power: nothing that the spec describes takes the declaration back (log 73). -/
def Obligations.LostModulesStayLost : Prop :=
  ∀ (s t : State) (f : Fid), s.hub.powered = true → f ∈ s.router.lost → step s = .next t → f ∈ t.router.lost

/-! ## Hub die and host (spec/11_memory_model.md, spec/13_graphs_and_regions.md, spec/20_hours_faults_repairs.md) -/

/-- R239, R246, R248: an eviction merges a die's copy of a line into HBM by its dirty mask, if the stack takes it (R323); a doorbell with a length of 1
to 4,096 marks its mailbox new, while the host link is ready (R15, R323; that the buffer is written where the doorbell is ignored, and that a doorbell
with no link is refused, is the model's: log 86); a frame is registered as checked, or the status says why not (2 also for one that overlaps a page
of another size: log 102; 4 also for a reserved page size code: log 109). -/
def Obligations.HostAndCacheEvents : Prop :=
  (∀ (s : State) (d : Die) (n : Nat) (x : DieLine), dieFind s.mem d n = some x →
    ((x.dirty ≠ 0 → stackReady s.hub (n * 128) = true) →
      ∃ t, exec (.lineEviction d n) s = .next t ∧ t = s.setMem (dropLine (writeBack s.mem d n) d n) ∧ dieFind t.mem d n = none) ∧
    (x.dirty ≠ 0 → stackReady s.hub (n * 128) = false → exec (.lineEviction d n) s = .refused (.notEnabled "LINE_EVICTION"))) ∧
  (∀ (s : State) (m : Fin 64) (v : Word) (b : List Byte) (n : Nat), n = v.toNat / 2 ^ 32 % 2 ^ 16 →
    (¬(s.hub.powered = true ∧ s.hub.rdyHub.getLsbD 0 = true ∧ s.hub.rdyHub.getLsbD 5 = true) →
      exec (.hostDoorbell m v b) s = .refused (.notEnabled "HOST_DOORBELL")) ∧
    (s.hub.powered = true → s.hub.rdyHub.getLsbD 0 = true → s.hub.rdyHub.getLsbD 5 = true → ∃ t, exec (.hostDoorbell m v b) s = .next t ∧ (∀ k, k ≠ m → t.hub.mail.get k = s.hub.mail.get k) ∧
      (t.hub.mail.get m).buf = b.take 4096 ∧
      (if 1 ≤ n ∧ n ≤ 4096 then (t.hub.mail.get m).new = true ∧ (t.hub.mail.get m).len.toNat = n ∧ (t.hub.mail.get m).seq = v.setWidth 32
        else (t.hub.mail.get m).new = (s.hub.mail.get m).new ∧ (t.hub.mail.get m).len = (s.hub.mail.get m).len ∧
          (t.hub.mail.get m).seq = (s.hub.mail.get m).seq))) ∧
  (∀ (s : State) (v : Word) (pa size : Nat), pa = v.toNat / 2 ^ 12 % 2 ^ 34 * 4096 → size = pageSize (v.toNat % 8) → pa < hbmSize →
    (∃ t, exec (.chkmapWrite v) s = .next t ∧
      (if size = 0 ∨ pa % size ≠ 0 then t.hub.chkstat.toNat % 2 ^ 32 = 4 ∧ t.mem = s.mem
        else if s.mem.chk.any (fun r => decide (r.1 < pa + size) && decide (pa < r.1 + r.2)) then
          t.hub.chkstat.toNat % 2 ^ 32 = 2 ∧ t.mem = s.mem
        else if 48 * 2 ^ 20 < chkUsed s.mem (frameDie pa) + size then t.hub.chkstat.toNat % 2 ^ 32 = 1 ∧ t.mem = s.mem
        else t.hub.chkstat.toNat % 2 ^ 32 = 0 ∧ t.mem.chk = (pa, size) :: s.mem.chk ∧ t.mem.hbm = s.mem.hbm)) ∧
    (∃ t, exec (.chkunmapWrite v) s = .next t ∧
      (if size = 0 ∨ pa % size ≠ 0 then t.hub.chkstat.toNat % 2 ^ 32 = 4 ∧ t.mem = s.mem
        else if (pa, size) ∈ s.mem.chk then t.hub.chkstat.toNat % 2 ^ 32 = 0 ∧ (pa, size) ∉ t.mem.chk ∧ t.mem.hbm = s.mem.hbm
        else t.hub.chkstat.toNat % 2 ^ 32 = 3 ∧ t.mem = s.mem)))

/-- R325, R326, R328, R332: module time is stepped, and stamped for the precision-time messages (the lock that the servo then finds is free:
log 100); a write to the ring's length keeps a power of two from 64 to 2^20 slots, and one to its base or length empties it; a nonce starts
a quote, which becomes ready: the report of the registers as they stand then. R322, Table 13.1: a register write of 8 bytes goes on at every
offset (at one that no register stands at, it does nothing: log 27): a base register keeps the bits of its field, a register of the manager
ignores the supervisor, and a read-only register ignores every write. -/
def Obligations.HubRegisterWrites : Prop :=
  (∀ (s : State) (v : Word),
    (∃ t, exec (.timeStepWrite v) s = .next t ∧ t.hub.tmNow = s.hub.tmNow + BitVec.ofNat 64 (v.toNat % 2 ^ 32) ∧ t.ctxs = s.ctxs ∧
      t.mem = s.mem) ∧
    (∃ t, exec .ptpEventRx s = .next t ∧ t.hub.tmRx = s.hub.tmNow ∧ t.hub.tmTx = s.hub.tmTx ∧ t.hub.tmNow = s.hub.tmNow ∧
      t.hub.tmStat.toNat < 2 ∧ t.ctxs = s.ctxs ∧ t.mem = s.mem) ∧
    exec .ptpEventTx s = .next (s.setHub { s.hub with tmTx := s.hub.tmNow }) ∧
    (∃ t, exec (.rasLenWrite v) s = .next t ∧ t.hub.rasHead = 0 ∧ t.hub.rasTail = 0 ∧
      (v = 0 → t.hub.rasLen = 0) ∧ (v ≠ 0 → (∃ k, t.hub.rasLen = 2 ^ k) ∧ 64 ≤ t.hub.rasLen ∧ t.hub.rasLen ≤ 2 ^ 20) ∧
      (∀ k, 6 ≤ k → k ≤ 20 → v.toNat = 2 ^ k → t.hub.rasLen = 2 ^ k)) ∧
    (∃ t, exec (.rasBaseWrite v) s = .next t ∧ t.hub.rasBase.toNat = v.toNat % 2 ^ 46 / 32 * 32 ∧ t.hub.rasHead = 0 ∧ t.hub.rasTail = 0) ∧
    (∃ t, exec (.rasTailWrite v) s = .next t ∧ t.hub.rasTail = (if s.hub.rasLen = 0 then 0 else v.toNat % s.hub.rasLen) ∧
      t.hub.rasHead = s.hub.rasHead) ∧
    (∀ n, ∃ t, exec (.nonceWrite n) s = .next t ∧ t.hub.nonce = n ∧ t.hub.quoting = true ∧ t.hub.atReady = false) ∧
    (s.hub.quoting = true → ∃ u, exec .quoteReady s = .next u ∧ u.hub.atReady = true ∧ u.hub.quoting = false ∧ u.hub.quote.length = 5496 ∧
      u.hub.quote.take 32 = leBytes 32 s.hub.nonce.toNat ∧ u = s.setHub { s.hub with quote := u.hub.quote, quoting := false, atReady := true }) ∧
    (s.hub.quoting = false → exec .quoteReady s = .refused (.notEnabled "QUOTE_READY"))) ∧
  (∀ (s : State) (v : Word) (m : Bool),
    (∀ off, off % 8 = 0 → off < 65536 → ∃ t, exec (.registerWrite off v m) s = .next t) ∧
    (∃ t, exec (.registerWrite 0x0000 v m) s = .next t ∧ t.hub.rcbase.toNat = v.toNat % 2 ^ 46 / 4096 * 4096) ∧
    (∃ t, exec (.registerWrite 0x0040 v m) s = .next t ∧ t.hub.sproot.toNat = v.toNat % 2 ^ 46 / 4096 * 4096) ∧
    (∃ t, exec (.registerWrite 0x0048 v m) s = .next t ∧ t.hub.strap.toNat = v.toNat % 2 ^ 52 / 4 * 4) ∧
    (∃ t, exec (.registerWrite 0x2600 v true) s = .next t ∧ t.hub.pwCap = min (v.toNat % 2 ^ 16) 3200) ∧
    exec (.registerWrite 0x2600 v false) s = .next s ∧ exec (.registerWrite 0x2208 v false) s = .next s ∧
    exec (.registerWrite 0x2000 v m) s = .next s)

/-- R329: while no repair command is in progress, a core, bank or lane is retired, its core's ready bit clears once no job is on it, and the row
of a stack with a spare row starts its repair, the stack not ready until it is done (how many spare rows a stack has is free: log 22), and one
without answers that no spare is left; another command meanwhile is ignored. The stack's bit sets again if it was set before. -/
def Obligations.RepairCommandsRetireParts : Prop :=
  (∀ (s : State) (d : Die) (k b : Fin 96) (p : Port) (l : Lane) (j : Fin 8) (row : BitVec 32), s.hub.rpStat.getLsbD 8 = false →
    (∃ t, exec (.retireCore d k) s = .next t ∧ (d, k) ∈ t.hub.retiredCores ∧ t.hub.rpStat = 0 ∧ t.ctxs = s.ctxs ∧
      ((∀ c ∈ s.ctxs, c.id.core ≠ .core d k) → (t.hub.rdyCore.get d).getLsbD k.val = false)) ∧
    (∃ t, exec (.retireBank d k b) s = .next t ∧ (d, k, b) ∈ t.hub.retiredBanks ∧ t.hub.rpStat = 0 ∧ t.ctxs = s.ctxs) ∧
    (∃ t, exec (.retireLane p l) s = .next t ∧ (laneOf t p l).state = 0 ∧ (laneOf t p l).retired = true ∧ t.hub.rpStat = 0) ∧
    (∃ t, exec (.repairHbmRow j row) s = .next t ∧
      (if (s.hub.repairedRows.filter fun r => decide (r.stack = j)).length < Config.spareRows then
        t.hub.rpStat.getLsbD 8 = true ∧ t.hub.rdyHub.getLsbD (12 + j.val) = false ∧
        ((⟨j, row⟩ : Repair), s.hub.rdyHub.getLsbD (12 + j.val)) ∈ t.hub.rpBusy
      else t.hub.rpStat = 1 ∧ t.hub.rdyHub = s.hub.rdyHub ∧ t.hub.rpBusy = s.hub.rpBusy))) ∧
  (∀ (s : State) (d : Die) (k b : Fin 96) (p : Port) (l : Lane) (j : Fin 8) (row : BitVec 32), s.hub.rpStat.getLsbD 8 = true →
    exec (.retireCore d k) s = .next s ∧ exec (.retireBank d k b) s = .next s ∧ exec (.retireLane p l) s = .next s ∧
    exec (.repairHbmRow j row) s = .next s) ∧
  (∀ (s : State) (j : Fin 8), (∃ r ∈ s.hub.rpBusy, r.1.stack = j) →
    ∃ t, exec (.hbmRepairDone j) s = .next t ∧ t.hub.rpStat = 0 ∧ (∀ r ∈ t.hub.rpBusy, r.1.stack ≠ j) ∧
      (∀ n < 64, n ≠ 12 + j.val → t.hub.rdyHub.getLsbD n = s.hub.rdyHub.getLsbD n) ∧
      (t.hub.rdyHub.getLsbD (12 + j.val) = true ↔ s.hub.rdyHub.getLsbD (12 + j.val) = true ∨
        (s.hub.fatal = false ∧ s.hub.rdyHub.getLsbD 0 = true ∧ ∃ r ∈ s.hub.rpBusy, r.1.stack = j ∧ r.2 = true)))

/-- R14, R322, R323, R331, R333: power-up leaves the reset state, but for what the nonvolatile store keeps, and measures the firmware (`at.m0` also
where its signature fails: log 84); a function sets its ready bit; the boot doorbell judges the image, its header before its length (log 45); the
supervisor starts at its entry in supervisor mode, or, where an error has struck its image, the module stops (log 85). The host reads the window's
contents while it is open and zero once it is closed (and before it opens: log 106), and the boot status. -/
def Obligations.PowerUpAndBoot : Prop :=
  (∀ (s : State) (fw : List Byte), s.hub.powered = false →
    ∃ t, exec (.powerUp fw) s = .next t ∧ t.ctxs = [] ∧ t.graphs = [] ∧ t.mem = State.reset.mem ∧ t.hub.powered = true ∧
      t.hub.m0 = extend 0 (shake256 fw) ∧ t.hub.m1 = 0 ∧ t.hub.rdyHub = (if Config.firmwareOk fw then 1 else 0) ∧
      t.hub.retiredCores = s.hub.retiredCores ∧ t.hub.retiredBanks = s.hub.retiredBanks ∧ t.hub.repairedRows = s.hub.repairedRows) ∧
  (∀ (s : State) (b : Fin 24), mayReady s.hub (.hub b) = true →
    ∃ t, exec (.functionReady (.hub b)) s = .next t ∧ ∀ n < 64, t.hub.rdyHub.getLsbD n = (s.hub.rdyHub.getLsbD n || decide (n = b.val))) ∧
  (∀ (s : State) (d : Die) (k : Fin 96), mayReady s.hub (.core d k) = true →
    ∃ t, exec (.functionReady (.core d k)) s = .next t ∧
      ∀ n < 96, (t.hub.rdyCore.get d).getLsbD n = ((s.hub.rdyCore.get d).getLsbD n || decide (n = k.val))) ∧
  (∀ (s : State) (b : Fin 64), mayReady s.hub (.cluster b) = true → ∃ t, exec (.functionReady (.cluster b)) s = .next t ∧
    ∀ n < 64, t.hub.rdyClus.getLsbD n = (s.hub.rdyClus.getLsbD n || decide (n = b.val))) ∧
  (∀ (s : State) (p : Port), mayReady s.hub (.port p) = true → ∃ t, exec (.functionReady (.port p)) s = .next t ∧
    ∀ n < 64, t.hub.rdyPort.getLsbD n = (s.hub.rdyPort.getLsbD n || decide (n = p.val))) ∧
  (∀ (s : State) (f : ReadyFn), mayReady s.hub f = false → exec (.functionReady f) s = .refused (.notEnabled "FUNCTION_READY")) ∧
  (∀ (s : State) (off n : Nat), hostWindowRead s off n = if windowOpen s.hub = true then physLoad s off n else List.replicate n 0) ∧
  (∀ s : State, (bootStatusRead s).toNat = s.hub.bootStat.val) ∧
  (∀ s : State, windowOpen s.hub = true → s.hub.bootStat = 1 → (∃ l ∈ s.mem.poison, l * 128 < max s.hub.bootLen 64) →
    ∃ t, exec .supervisorStart s = .next t ∧ t.hub.rasFatal = true ∧ t.hub.rdyHub.getLsbD 2 = false ∧ t.hub.bootStat = 1) ∧
  (∀ (s : State) (v : Word) (image : List Byte), windowOpen s.hub = true → s.hub.bootStat ≠ 1 → s.hub.bootStat ≠ 2 →
    ∃ t u, exec (.bootDoorbell v image) s = .next t ∧ u = physStore s 0 (image.take (2 ^ 28)) ∧ t.mem = u.mem ∧
      t.hub.bootStat = (if headerOk (bootHeader u) = false then 3 else if 4096 ≤ v.toNat ∧ v.toNat ≤ 0x0FFFFFFF then 1 else 4)) ∧
  (∀ (s : State), s.hub.bootStat = 1 → windowOpen s.hub = true → (∀ l ∈ s.mem.poison, max s.hub.bootLen 64 ≤ l * 128) →
    bootVerdict s s.hub.bootLen = 1 →
    ∃ t c, exec .supervisorStart s = .next t ∧ t.ctx ⟨.sup, 0⟩ = some c ∧ (c.stream .C).pc.toNat = bootHeader s % 2 ^ 64 ∧
      (c.stream .C).mode = true ∧ (c.stream .C).run = .run ∧ (∀ i, i ≠ .C → (c.stream i).run = .off) ∧
      t.hub.sproot.toNat = bootHeader s / 2 ^ 64 % 2 ^ 64 ∧ t.hub.strap.toNat = bootHeader s / 2 ^ 128 % 2 ^ 64 ∧
      t.hub.bootStat = 2 ∧ t.hub.rdyHub.getLsbD 2 = true)

/-- R327, R328: an error that is corrected, in HBM, a core's banks or a die's L2, costs a record of the log and nothing else; one that is
not poisons its line, in HBM with every copy of it, and traps the access that meets it with cause 14 (that it poisons without a trap until
an access meets it: log 85); one in Cairn (its region table, and a line of the trap entry that nothing has read, too: log 85), the router's
tables or the supervisor's trap entry stops every core and clears the ready bits but two. R330, R327: above the power cap, or at 95 °C, the
module throttles and logs it, until both are back within their limits; at 105 °C (also where the throttle event brings it, which is the
model's choice: log 101), or out of its voltage range, it stops for good and its power goes. -/
def Obligations.ErrorsAndLimits : Prop :=
  ((∀ (s : State) (w : EccWord), ∃ t, exec (.correctedEcc w) s = .next t ∧ t.ctxs = s.ctxs ∧ t.router = s.router ∧ t.graphs = s.graphs ∧
    t.hub.mseq = (s.hub.mseq + 1) % 2 ^ 64 ∧ t.hub.rdyHub = s.hub.rdyHub ∧ t.mem.poison = s.mem.poison ∧ t.mem.tlb = s.mem.tlb) ∧
  (∀ (s : State) (pa : Nat), (pa / 128 < s.hub.rcbase.toNat / 128 ∨ (s.hub.rcbase.toNat + 262143) / 128 < pa / 128) →
    trapEntry s pa = false → ∃ t, exec (.uncorrectableEcc (.line pa)) s = .next t ∧ pa / 128 ∈ t.mem.poison ∧ t.ctxs = s.ctxs ∧
      ∀ d y, dieFind t.mem d (pa / 128) = some y → y.bad = true) ∧
  (∀ (s : State) (pa : Nat), ((s.hub.rcbase.toNat / 128 ≤ pa / 128 ∧ pa / 128 ≤ (s.hub.rcbase.toNat + 262143) / 128) ∨
      trapEntry s pa = true) →
    ∃ t, exec (.uncorrectableEcc (.line pa)) s = .next t ∧ t.hub.rasFatal = true ∧ ∀ c ∈ t.ctxs, ∀ i, (c.stream i).run = .halted) ∧
  (∀ (s : State) (x : CtxId) (c : Ctx) (h : HId) (y : Handle) (row off : Nat), s.ctx x = some c → c.handle h = some y → row < y.rows →
    off < y.pitch → ∃ (t : State) (e : Ctx) (z : Handle), exec (.uncorrectableEcc (.handle x h row off)) s = .next t ∧ t.ctx x = some e ∧
      e.handle h = some z ∧ { z with bad := y.bad } = y ∧ (∀ n, 0 < n → z.meets row off n = true) ∧
      ∀ r o n, y.meets r o n = true → z.meets r o n = true) ∧
  (∀ (s : State) (x : StreamRef) (va pa : Nat), streamLive s x = true →
    (pa / 128 < s.hub.rcbase.toNat / 128 ∨ (s.hub.rcbase.toNat + 262143) / 128 < pa / 128) → trapEntry s pa = false →
    ∃ t, exec (.uncorrectableEcc (.access x va pa)) s = .next (trapWord t x ⟨14, 0, 0, va⟩) ∧ pa / 128 ∈ t.mem.poison ∧ t.ctxs = s.ctxs) ∧
  (∀ (s : State), ∃ t, exec (.uncorrectableEcc .vital) s = .next t ∧ t.hub.rasFatal = true ∧ t.hub.rdyHub = s.hub.rdyHub &&& 0x81 ∧
    t.hub.rdyClus = 0 ∧ t.hub.rdyPort = 0 ∧ (∀ d, t.hub.rdyCore.get d = 0) ∧ ∀ c ∈ t.ctxs, ∀ i, (c.stream i).run = .halted)) ∧
  ((∀ (s : State) (w : BitVec 16), s.hub.pwCap < w.toNat →
    ∃ t, exec (.powerCapExceeded w) s = .next t ∧ t.hub.pwNow = w ∧ t.hub.throttled = true ∧ t.ctxs = s.ctxs ∧
      t.hub.mseq = (s.hub.mseq + 1) % 2 ^ 64) ∧
  (∀ (s : State) (c : BitVec 16), 210 ≤ c.toNat → exec (.thermalThrottle c) s = exec (.thermalTrip c) s) ∧
  (∀ (s : State) (c : BitVec 16), 190 ≤ c.toNat → c.toNat < 210 →
    ∃ t, exec (.thermalThrottle c) s = .next t ∧ t.hub.pwTemp = c ∧ t.hub.throttled = true ∧ t.ctxs = s.ctxs ∧
      t.hub.mseq = (s.hub.mseq + 1) % 2 ^ 64) ∧
  (∀ (s : State) (w c : BitVec 16), s.hub.throttled = true → w.toNat ≤ s.hub.pwCap → c.toNat < 190 →
    ∃ t, exec (.throttlingEnds w c) s = .next t ∧ t.hub.throttled = false ∧ t.hub.pwNow = w ∧ t.hub.pwTemp = c ∧ t.ctxs = s.ctxs) ∧
  (∀ (s : State) (c : BitVec 16), 210 ≤ c.toNat →
    ∃ t, exec (.thermalTrip c) s = .next t ∧ t.hub.rasFatal = true ∧ t.hub.powered = false ∧ t.hub.pwTemp = c ∧
      (∀ x ∈ t.ctxs, ∀ i, (x.stream i).run = .halted) ∧ ∀ p l, (laneOf t p l).state = 0) ∧
  (∀ (s : State), ∃ t, exec .supplyVoltageOut s = .next t ∧ t.hub.rasFatal = true ∧ t.hub.powered = false ∧
    (∀ x ∈ t.ctxs, ∀ i, (x.stream i).run = .halted) ∧ ∀ p l, (laneOf t p l).state = 0))

/-- R58, R59, R89, R247, Table 4.1: a word that fails decode, and one that cannot be fetched, traps precisely at its own address, with its cause, its
detail, and its engine. -/
def Obligations.BadWordsTrapAtTheirAddress : Prop :=
  (∀ (s : State) (r : StreamRef) (c : Ctx) (m : MemSt) (ps : List Piece) (w : Nat), s.issuer r c →
    checkAccess s.mem s.hub s.free (Claims.accessWho s r c) .fetch false (c.stream r.st).pc.toNat 4 = .ok (m, ps) →
    w = leValue (readPieces m (Claims.accessWho s r c) .fetch ps).1 →
    (∀ (reason : Fin 8) (op : Fin 64), exec (.illegalWord (.illegal reason op)) s = .next (takeTrap (s.putCtx (s.placed r c)) r
      ⟨1, reason.val * 64 + op.val, w / 2 ^ 29 % 8, 0⟩ (c.stream r.st).pc false)) ∧
    (∀ h : HId, exec (.illegalWord (.handle h)) s = .next (takeTrap (s.putCtx (s.placed r c)) r ⟨5, h.val, w / 2 ^ 29 % 8, 0⟩
      (c.stream r.st).pc false)) ∧
    exec (.illegalWord .privilege) s = .next (takeTrap (s.putCtx (s.placed r c)) r ⟨2, 0, 7, 0⟩ (c.stream r.st).pc false)) ∧
  (∀ (s : State) (r : StreamRef) (c : Ctx) (k : FetchCause), s.issuer r c →
    exec (.fetchFault k) s = .next (takeTrap (s.putCtx (s.placed r c)) r
      ⟨match k with | .translation => 4 | .protection => 5 | .key => 15 | .ecc => 14 | .alignment => 3, 0, 0, (c.stream r.st).pc.toNat⟩
      (c.stream r.st).pc false))

/-! ## The step, the encoding and the memory -/

/-- R14, R16, R22, Tables 2.1, 2.3, 2.7, 7.2, 8.4, R167, R219, Table 20.1: what the spec says of the machine at power-up and of a job at its start.
Memory is in canonical form. -/
def Obligations.ResetLeavesTheSpecsValues : Prop :=
  State.reset.ctxs = [] ∧ State.reset.graphs = [] ∧ State.reset.hub.mseq = 0 ∧ State.reset.hub.rdyHub = 0 ∧ State.reset.hub.rdyClus = 0 ∧
  State.reset.hub.rdyPort = 0 ∧ State.reset.hub.rasFatal = false ∧ State.reset.hub.m0 = 0 ∧ State.reset.hub.m1 = 0 ∧ State.reset.hub.m2 = 0 ∧
  State.reset.hub.pwCap = 3200 ∧ State.reset.hub.fwdw = 64 ∧
  (∀ a ∈ State.reset.arrays, a.holder = none ∧ a.lastWin = 3 ∧ ∀ k : Fin 4, a.credit.get k = 0) ∧
  (∀ k ∈ State.reset.cores, k.pool = 512 ∧ ∀ b : Fin 96, (k.banks.get b).owner = none ∧ (k.banks.get b).split = 3 ∧ (k.banks.get b).fmt = 0) ∧
  (∀ (x : CtxId) (n : Nat) (k : Card) (i : StreamId), ((Ctx.reset x n k).stream i).role = defaultRole i ∧
    ((Ctx.reset x n k).stream i).round = 0 ∧ ((Ctx.reset x n k).stream i).fflags = 0 ∧ ((Ctx.reset x n k).stream i).satfp = false ∧
    ((Ctx.reset x n k).stream i).agebound = 512 ∧ ((Ctx.reset x n k).stream i).wdog = 2000000 ∧
    ((Ctx.reset x n k).stream i).mode = false ∧ (Ctx.reset x n k).leaseCmds = 32 ∧ (Ctx.reset x n k).leaseCycles = 4096 ∧
    (Ctx.reset x n k).dmode = 0 ∧ (Ctx.reset x n k).g = Vector.replicate 15 none ∧ (Ctx.reset x n k).slot0 = none ∧
    (Ctx.reset x n k).slot1 = none) ∧
  Memory.wf State.reset.mem.hbm = true

/-- Table 4.2, Tables 4.4 and 4.5, Table 8.8: words written out from their fields decode to the instructions they stand for: `ADD` is opcode 0x02
and `SUB` 0x03, both with fn 0, `MULH` is 0x0E with fn 1, `LI` 0x1A, `BPTR` 0x24, `VADD` in f32 engine 1, opcode 0x01; another fn of `ADD`, a bit
of `NOP`'s operands and unassigned opcodes are refused. -/
def Obligations.WrittenWordsDecode : Prop :=
  decode (0 * 2 ^ 29 + 0x02 * 2 ^ 23 + 3 * 2 ^ 17 + 1 * 2 ^ 11 + 2 * 2 ^ 5) = .ok (.add 3 1 2) ∧
  decode (0 * 2 ^ 29 + 0x03 * 2 ^ 23 + 3 * 2 ^ 17 + 1 * 2 ^ 11 + 2 * 2 ^ 5) = .ok (.sub 3 1 2) ∧
  decode (0 * 2 ^ 29 + 0x0E * 2 ^ 23 + 3 * 2 ^ 17 + 1 * 2 ^ 11 + 2 * 2 ^ 5 + 1) = .ok (.mulh 3 1 2) ∧
  decode (0 * 2 ^ 29 + 0x1A * 2 ^ 23 + 7 * 2 ^ 17 + 0x1FFFF) = .ok (.li 7 (-1)) ∧
  decode (0 * 2 ^ 29 + 0x24 * 2 ^ 23 + 2 * 2 ^ 17 + 9 * 2 ^ 11 + 0x7FF) = .ok (.bptr 2 9 (-1)) ∧
  decode 0x208C2200 = .ok (.vadd 3 1 2 .F 0 false) ∧
  decode (0 * 2 ^ 29 + 0x02 * 2 ^ 23 + 3 * 2 ^ 17 + 1 * 2 ^ 11 + 2 * 2 ^ 5 + 1) = .error .reserved ∧
  decode (0 * 2 ^ 29 + 0x01 * 2 ^ 23) = .ok .nop ∧ decode (0 * 2 ^ 29 + 0x01 * 2 ^ 23 + 1) = .error .reserved ∧
  decode 0 = .error .unassigned ∧
  decodeUop (1 * 2 ^ 60 + 5 * 2 ^ 56 + 0xFFFFFFFF) = some (.uopSet 5 (-1)) ∧
  decodeUop (4 * 2 ^ 60) = some .uopSafe ∧ decodeUop (15 * 2 ^ 60) = none

/-- R56, R58, R89, R126, R211-R214: a stream's word is fetched at its pc and decoded; the word that a core picks is the word that the step
executes, with the picking stream the current one; its registers and its place are those it had. When nothing is due and nothing else may
go on, the step is that word's meaning; otherwise one of the moves is chosen (log 4), and where it is a word the step is its meaning too,
unless it raises a trap of its job, which gives way to that of an earlier command (R223). -/
def Obligations.StepRunsTheDecodedWord : Prop :=
  (∀ (s t u : State) (i : Instr), t = { (if s.router.lostReq = [] then s else actLost s) with fresh := s.fresh + 1 } →
    nextInput t = none → lateMove t = none → firstMove (dueTries t) = none → heldMoves t = [] → rivals t = [] →
    issues t = [(.word i, u)] → step s = exec i u) ∧
  (∀ (s t v u : State) (i : Instr), t = { (if s.router.lostReq = [] then s else actLost s) with fresh := s.fresh + 1 } →
    nextInput t = none → lateMove t = none → firstMove (dueTries t) = none → heldMoves t = [] →
    v = (if (moves t).length < 2 then t else { t with turns := t.turns.drop 1 }) →
    chooseMove (turnOf t) (moves v) = some (.word (.word i) u) →
    (∀ w r, exec i u = .next w → u.cur = some r → trapsJob v w r.ctx = false) → step s = exec i u) ∧
  (∀ (s t : State) (i : Instr), t = { (if s.router.lostReq = [] then s else actLost s) with fresh := s.fresh + 1 } →
    ∀ u, nextInput t = some (i, u) → step s = exec i u) ∧
  (∀ (s : State) (c : Ctx) (x : StreamId) (m : MemSt) (ps : List Piece) (i : Instr) (w : Nat),
    checkAccess s.mem s.hub s.free (whoStream s c x) .fetch false (c.stream x).pc.toNat 4 = .ok (m, ps) →
    w = leValue (readPieces m (whoStream s c x) .fetch ps).1 → decode w = .ok i →
    (x = .C ∨ (vectorWord w = false ∧ w / 2 ^ 29 % 8 ≠ 7)) → (w / 2 ^ 29 % 8 = 7 → (c.stream x).mode = true) →
    fetchWord s c x = (.word (vxcRow (c.stream x) i), s.setMem (readPieces m (whoStream s c x) .fetch ps).2)) ∧
  (∀ (s : State) (k : CoreSt) (c : Ctx) (x : StreamId) (p : Ready) (i : Instr), k.used = false → s.ctx c.id = some c → ready s c x = some p →
    p.got = .word i → readyOf s k.id = [p] →
    ∃ (u : State) (d : Ctx), issueOf s k = some (.word i, u) ∧ u.cur = some ⟨c.id, x⟩ ∧ u.ctx c.id = some d ∧
      (d.stream x).s = (c.stream x).s ∧ (d.stream x).b = (c.stream x).b ∧ (d.stream x).c = (c.stream x).c ∧
      (d.stream x).pc = (c.stream x).pc ∧ (d.stream x).slots = (c.stream x).slots ∧ d.v = c.v ∧ d.p = c.p ∧ d.handles = c.handles ∧
      d.cmds = c.cmds)

/-- R56-R69, Table 8.8: every well-formed word, and every micro-op, decodes to what was encoded (the five rows of `VXC` are one word, R126),
with every operand. -/
def Obligations.DecodingInvertsEncoding : Prop :=
  (∀ (i : Instr) (w : Nat), i.wf = true → encode i = some w → w < 2 ^ 32 ∧ decode w = .ok i.decoded) ∧
  (∀ (i : Instr) (u : Nat), encodeUop i = some u → u < 2 ^ 64 ∧ decodeUop u = some i)

/-- R58, Table 4.1: a word that decodes is well formed and is the only word of its instruction: no bit of a word is ignored. -/
def Obligations.EveryWordHasOneMeaning : Prop :=
  (∀ (w : Nat) (i : Instr), w < 2 ^ 32 → decode w = .ok i → i.wf = true ∧ encode i = some w) ∧
  (∀ (u : Nat) (i : Instr), u < 2 ^ 64 → decodeUop u = some i → encodeUop i = some u)

/-- Every step keeps HBM in the canonical form of the model (log 1): addresses rising, no byte listed that reads as an unlisted one. -/
def Obligations.StepsKeepMemoryCanonical : Prop :=
  ∀ s t : State, Memory.wf s.mem.hbm = true → step s = .next t → Memory.wf t.mem.hbm = true
end

