-- ==== Sys2Proof/Laws/State.lean ====
section
/-! SUPPORT. The small lemmas of the state's updates: one per field and update, and what looking up a context, a core, a stream or a
handle finds after one. -/

namespace Sys2Proof.Machine

/-! ## Updates of one part of the state -/

@[simp] theorem State.setMem_ctxs (s : State) (m : MemSt) : (s.setMem m).ctxs = s.ctxs := rfl
@[simp] theorem State.setMem_saved (s : State) (m : MemSt) : (s.setMem m).saved = s.saved := rfl
@[simp] theorem State.setMem_cores (s : State) (m : MemSt) : (s.setMem m).cores = s.cores := rfl
@[simp] theorem State.setMem_arrays (s : State) (m : MemSt) : (s.setMem m).arrays = s.arrays := rfl
@[simp] theorem State.setMem_tags (s : State) (m : MemSt) : (s.setMem m).tags = s.tags := rfl
@[simp] theorem State.setMem_mem (s : State) (m : MemSt) : (s.setMem m).mem = m := rfl
@[simp] theorem State.setMem_hub (s : State) (m : MemSt) : (s.setMem m).hub = s.hub := rfl
@[simp] theorem State.setMem_graphs (s : State) (m : MemSt) : (s.setMem m).graphs = s.graphs := rfl
@[simp] theorem State.setMem_dispatched (s : State) (m : MemSt) : (s.setMem m).dispatched = s.dispatched := rfl
@[simp] theorem State.setMem_router (s : State) (m : MemSt) : (s.setMem m).router = s.router := rfl
@[simp] theorem State.setMem_lateFaults (s : State) (m : MemSt) : (s.setMem m).lateFaults = s.lateFaults := rfl
@[simp] theorem State.setMem_waitStores (s : State) (m : MemSt) : (s.setMem m).waitStores = s.waitStores := rfl
@[simp] theorem State.setMem_timeStep (s : State) (m : MemSt) : (s.setMem m).timeStep = s.timeStep := rfl
@[simp] theorem State.setMem_now (s : State) (m : MemSt) : (s.setMem m).now = s.now := rfl
@[simp] theorem State.setMem_script (s : State) (m : MemSt) : (s.setMem m).script = s.script := rfl
@[simp] theorem State.setMem_turns (s : State) (m : MemSt) : (s.setMem m).turns = s.turns := rfl
@[simp] theorem State.setMem_fresh (s : State) (m : MemSt) : (s.setMem m).fresh = s.fresh := rfl
@[simp] theorem State.setMem_cur (s : State) (m : MemSt) : (s.setMem m).cur = s.cur := rfl

@[simp] theorem State.setHub_ctxs (s : State) (h : HubSt) : (s.setHub h).ctxs = s.ctxs := rfl
@[simp] theorem State.setHub_saved (s : State) (h : HubSt) : (s.setHub h).saved = s.saved := rfl
@[simp] theorem State.setHub_cores (s : State) (h : HubSt) : (s.setHub h).cores = s.cores := rfl
@[simp] theorem State.setHub_arrays (s : State) (h : HubSt) : (s.setHub h).arrays = s.arrays := rfl
@[simp] theorem State.setHub_tags (s : State) (h : HubSt) : (s.setHub h).tags = s.tags := rfl
@[simp] theorem State.setHub_mem (s : State) (h : HubSt) : (s.setHub h).mem = s.mem := rfl
@[simp] theorem State.setHub_hub (s : State) (h : HubSt) : (s.setHub h).hub = h := rfl
@[simp] theorem State.setHub_graphs (s : State) (h : HubSt) : (s.setHub h).graphs = s.graphs := rfl
@[simp] theorem State.setHub_dispatched (s : State) (h : HubSt) : (s.setHub h).dispatched = s.dispatched := rfl
@[simp] theorem State.setHub_router (s : State) (h : HubSt) : (s.setHub h).router = s.router := rfl
@[simp] theorem State.setHub_lateFaults (s : State) (h : HubSt) : (s.setHub h).lateFaults = s.lateFaults := rfl
@[simp] theorem State.setHub_waitStores (s : State) (h : HubSt) : (s.setHub h).waitStores = s.waitStores := rfl
@[simp] theorem State.setHub_timeStep (s : State) (h : HubSt) : (s.setHub h).timeStep = s.timeStep := rfl
@[simp] theorem State.setHub_now (s : State) (h : HubSt) : (s.setHub h).now = s.now := rfl
@[simp] theorem State.setHub_script (s : State) (h : HubSt) : (s.setHub h).script = s.script := rfl
@[simp] theorem State.setHub_turns (s : State) (h : HubSt) : (s.setHub h).turns = s.turns := rfl
@[simp] theorem State.setHub_fresh (s : State) (h : HubSt) : (s.setHub h).fresh = s.fresh := rfl
@[simp] theorem State.setHub_cur (s : State) (h : HubSt) : (s.setHub h).cur = s.cur := rfl

@[simp] theorem State.setRouter_ctxs (s : State) (r : RouterSt) : (s.setRouter r).ctxs = s.ctxs := rfl
@[simp] theorem State.setRouter_saved (s : State) (r : RouterSt) : (s.setRouter r).saved = s.saved := rfl
@[simp] theorem State.setRouter_cores (s : State) (r : RouterSt) : (s.setRouter r).cores = s.cores := rfl
@[simp] theorem State.setRouter_arrays (s : State) (r : RouterSt) : (s.setRouter r).arrays = s.arrays := rfl
@[simp] theorem State.setRouter_tags (s : State) (r : RouterSt) : (s.setRouter r).tags = s.tags := rfl
@[simp] theorem State.setRouter_mem (s : State) (r : RouterSt) : (s.setRouter r).mem = s.mem := rfl
@[simp] theorem State.setRouter_hub (s : State) (r : RouterSt) : (s.setRouter r).hub = s.hub := rfl
@[simp] theorem State.setRouter_graphs (s : State) (r : RouterSt) : (s.setRouter r).graphs = s.graphs := rfl
@[simp] theorem State.setRouter_dispatched (s : State) (r : RouterSt) : (s.setRouter r).dispatched = s.dispatched := rfl
@[simp] theorem State.setRouter_router (s : State) (r : RouterSt) : (s.setRouter r).router = r := rfl
@[simp] theorem State.setRouter_lateFaults (s : State) (r : RouterSt) : (s.setRouter r).lateFaults = s.lateFaults := rfl
@[simp] theorem State.setRouter_waitStores (s : State) (r : RouterSt) : (s.setRouter r).waitStores = s.waitStores := rfl
@[simp] theorem State.setRouter_timeStep (s : State) (r : RouterSt) : (s.setRouter r).timeStep = s.timeStep := rfl
@[simp] theorem State.setRouter_now (s : State) (r : RouterSt) : (s.setRouter r).now = s.now := rfl
@[simp] theorem State.setRouter_script (s : State) (r : RouterSt) : (s.setRouter r).script = s.script := rfl
@[simp] theorem State.setRouter_turns (s : State) (r : RouterSt) : (s.setRouter r).turns = s.turns := rfl
@[simp] theorem State.setRouter_fresh (s : State) (r : RouterSt) : (s.setRouter r).fresh = s.fresh := rfl
@[simp] theorem State.setRouter_cur (s : State) (r : RouterSt) : (s.setRouter r).cur = s.cur := rfl

@[simp] theorem State.putCtx_saved (s : State) (c : Ctx) : (s.putCtx c).saved = s.saved := rfl
@[simp] theorem State.putCtx_cores (s : State) (c : Ctx) : (s.putCtx c).cores = s.cores := rfl
@[simp] theorem State.putCtx_arrays (s : State) (c : Ctx) : (s.putCtx c).arrays = s.arrays := rfl
@[simp] theorem State.putCtx_tags (s : State) (c : Ctx) : (s.putCtx c).tags = s.tags := rfl
@[simp] theorem State.putCtx_mem (s : State) (c : Ctx) : (s.putCtx c).mem = s.mem := rfl
@[simp] theorem State.putCtx_hub (s : State) (c : Ctx) : (s.putCtx c).hub = s.hub := rfl
@[simp] theorem State.putCtx_graphs (s : State) (c : Ctx) : (s.putCtx c).graphs = s.graphs := rfl
@[simp] theorem State.putCtx_dispatched (s : State) (c : Ctx) : (s.putCtx c).dispatched = s.dispatched := rfl
@[simp] theorem State.putCtx_router (s : State) (c : Ctx) : (s.putCtx c).router = s.router := rfl
@[simp] theorem State.putCtx_lateFaults (s : State) (c : Ctx) : (s.putCtx c).lateFaults = s.lateFaults := rfl
@[simp] theorem State.putCtx_waitStores (s : State) (c : Ctx) : (s.putCtx c).waitStores = s.waitStores := rfl
@[simp] theorem State.putCtx_timeStep (s : State) (c : Ctx) : (s.putCtx c).timeStep = s.timeStep := rfl
@[simp] theorem State.putCtx_now (s : State) (c : Ctx) : (s.putCtx c).now = s.now := rfl
@[simp] theorem State.putCtx_script (s : State) (c : Ctx) : (s.putCtx c).script = s.script := rfl
@[simp] theorem State.putCtx_turns (s : State) (c : Ctx) : (s.putCtx c).turns = s.turns := rfl
@[simp] theorem State.putCtx_fresh (s : State) (c : Ctx) : (s.putCtx c).fresh = s.fresh := rfl
@[simp] theorem State.putCtx_cur (s : State) (c : Ctx) : (s.putCtx c).cur = s.cur := rfl

@[simp] theorem State.putCore_ctxs (s : State) (c : CoreSt) : (s.putCore c).ctxs = s.ctxs := rfl
@[simp] theorem State.putCore_saved (s : State) (c : CoreSt) : (s.putCore c).saved = s.saved := rfl
@[simp] theorem State.putCore_arrays (s : State) (c : CoreSt) : (s.putCore c).arrays = s.arrays := rfl
@[simp] theorem State.putCore_tags (s : State) (c : CoreSt) : (s.putCore c).tags = s.tags := rfl
@[simp] theorem State.putCore_mem (s : State) (c : CoreSt) : (s.putCore c).mem = s.mem := rfl
@[simp] theorem State.putCore_hub (s : State) (c : CoreSt) : (s.putCore c).hub = s.hub := rfl
@[simp] theorem State.putCore_graphs (s : State) (c : CoreSt) : (s.putCore c).graphs = s.graphs := rfl
@[simp] theorem State.putCore_dispatched (s : State) (c : CoreSt) : (s.putCore c).dispatched = s.dispatched := rfl
@[simp] theorem State.putCore_router (s : State) (c : CoreSt) : (s.putCore c).router = s.router := rfl
@[simp] theorem State.putCore_lateFaults (s : State) (c : CoreSt) : (s.putCore c).lateFaults = s.lateFaults := rfl
@[simp] theorem State.putCore_waitStores (s : State) (c : CoreSt) : (s.putCore c).waitStores = s.waitStores := rfl
@[simp] theorem State.putCore_timeStep (s : State) (c : CoreSt) : (s.putCore c).timeStep = s.timeStep := rfl
@[simp] theorem State.putCore_now (s : State) (c : CoreSt) : (s.putCore c).now = s.now := rfl
@[simp] theorem State.putCore_script (s : State) (c : CoreSt) : (s.putCore c).script = s.script := rfl
@[simp] theorem State.putCore_turns (s : State) (c : CoreSt) : (s.putCore c).turns = s.turns := rfl
@[simp] theorem State.putCore_fresh (s : State) (c : CoreSt) : (s.putCore c).fresh = s.fresh := rfl
@[simp] theorem State.putCore_cur (s : State) (c : CoreSt) : (s.putCore c).cur = s.cur := rfl

@[simp] theorem Ctx.putStream_id (c : Ctx) (i : StreamId) (t : Stream) : (c.putStream i t).id = c.id := rfl
@[simp] theorem Ctx.putStream_job (c : Ctx) (i : StreamId) (t : Stream) : (c.putStream i t).job = c.job := rfl
@[simp] theorem Ctx.putStream_card (c : Ctx) (i : StreamId) (t : Stream) : (c.putStream i t).card = c.card := rfl
@[simp] theorem Ctx.putStream_v (c : Ctx) (i : StreamId) (t : Stream) : (c.putStream i t).v = c.v := rfl
@[simp] theorem Ctx.putStream_p (c : Ctx) (i : StreamId) (t : Stream) : (c.putStream i t).p = c.p := rfl
@[simp] theorem Ctx.putStream_z (c : Ctx) (i : StreamId) (t : Stream) : (c.putStream i t).z = c.z := rfl
@[simp] theorem Ctx.putStream_handles (c : Ctx) (i : StreamId) (t : Stream) : (c.putStream i t).handles = c.handles := rfl
@[simp] theorem Ctx.putStream_g (c : Ctx) (i : StreamId) (t : Stream) : (c.putStream i t).g = c.g := rfl
@[simp] theorem Ctx.putStream_gAt (c : Ctx) (i : StreamId) (t : Stream) : (c.putStream i t).gAt = c.gAt := rfl
@[simp] theorem Ctx.putStream_dregs (c : Ctx) (i : StreamId) (t : Stream) : (c.putStream i t).dregs = c.dregs := rfl
@[simp] theorem Ctx.putStream_status (c : Ctx) (i : StreamId) (t : Stream) : (c.putStream i t).status = c.status := rfl
@[simp] theorem Ctx.putStream_acc (c : Ctx) (i : StreamId) (t : Stream) : (c.putStream i t).acc = c.acc := rfl
@[simp] theorem Ctx.putStream_slot0 (c : Ctx) (i : StreamId) (t : Stream) : (c.putStream i t).slot0 = c.slot0 := rfl
@[simp] theorem Ctx.putStream_slot1 (c : Ctx) (i : StreamId) (t : Stream) : (c.putStream i t).slot1 = c.slot1 := rfl
@[simp] theorem Ctx.putStream_drain (c : Ctx) (i : StreamId) (t : Stream) : (c.putStream i t).drain = c.drain := rfl
@[simp] theorem Ctx.putStream_plans (c : Ctx) (i : StreamId) (t : Stream) : (c.putStream i t).plans = c.plans := rfl
@[simp] theorem Ctx.putStream_cmds (c : Ctx) (i : StreamId) (t : Stream) : (c.putStream i t).cmds = c.cmds := rfl
@[simp] theorem Ctx.putStream_grants (c : Ctx) (i : StreamId) (t : Stream) : (c.putStream i t).grants = c.grants := rfl
@[simp] theorem Ctx.putStream_vxc (c : Ctx) (i : StreamId) (t : Stream) : (c.putStream i t).vxc = c.vxc := rfl
@[simp] theorem Ctx.putStream_leaseCmds (c : Ctx) (i : StreamId) (t : Stream) : (c.putStream i t).leaseCmds = c.leaseCmds := rfl
@[simp] theorem Ctx.putStream_leaseCycles (c : Ctx) (i : StreamId) (t : Stream) : (c.putStream i t).leaseCycles = c.leaseCycles := rfl
@[simp] theorem Ctx.putStream_dmode (c : Ctx) (i : StreamId) (t : Stream) : (c.putStream i t).dmode = c.dmode := rfl
@[simp] theorem Ctx.putStream_tinfo (c : Ctx) (i : StreamId) (t : Stream) : (c.putStream i t).tinfo = c.tinfo := rfl
@[simp] theorem Ctx.putStream_tapeBase (c : Ctx) (i : StreamId) (t : Stream) : (c.putStream i t).tapeBase = c.tapeBase := rfl
@[simp] theorem Ctx.putStream_tapePos (c : Ctx) (i : StreamId) (t : Stream) : (c.putStream i t).tapePos = c.tapePos := rfl
@[simp] theorem Ctx.putStream_tapeLim (c : Ctx) (i : StreamId) (t : Stream) : (c.putStream i t).tapeLim = c.tapeLim := rfl
@[simp] theorem Ctx.putStream_tagView (c : Ctx) (i : StreamId) (t : Stream) : (c.putStream i t).tagView = c.tagView := rfl
@[simp] theorem Ctx.putStream_order (c : Ctx) (i : StreamId) (t : Stream) : (c.putStream i t).order = c.order := rfl
@[simp] theorem Ctx.putStream_atSup (c : Ctx) (i : StreamId) (t : Stream) : (c.putStream i t).atSup = c.atSup := rfl
@[simp] theorem Ctx.putStream_frozen (c : Ctx) (i : StreamId) (t : Stream) : (c.putStream i t).frozen = c.frozen := rfl
@[simp] theorem Ctx.putStream_untaken (c : Ctx) (i : StreamId) (t : Stream) : (c.putStream i t).untaken = c.untaken := rfl
@[simp] theorem Ctx.putStream_pendingTrap (c : Ctx) (i : StreamId) (t : Stream) : (c.putStream i t).pendingTrap = c.pendingTrap := rfl
@[simp] theorem Ctx.putStream_cellNow (c : Ctx) (i : StreamId) (t : Stream) : (c.putStream i t).cellNow = c.cellNow := rfl
@[simp] theorem Ctx.putStream_cellClk (c : Ctx) (i : StreamId) (t : Stream) : (c.putStream i t).cellClk = c.cellClk := rfl
@[simp] theorem Ctx.putStream_vxcClk (c : Ctx) (i : StreamId) (t : Stream) : (c.putStream i t).vxcClk = c.vxcClk := rfl
@[simp] theorem Ctx.putStream_waitClk (c : Ctx) (i : StreamId) (t : Stream) : (c.putStream i t).waitClk = c.waitClk := rfl
@[simp] theorem Ctx.putStream_doneClk (c : Ctx) (i : StreamId) (t : Stream) : (c.putStream i t).doneClk = c.doneClk := rfl
@[simp] theorem Ctx.putStream_baseClk (c : Ctx) (i : StreamId) (t : Stream) : (c.putStream i t).baseClk = c.baseClk := rfl

@[simp] theorem Ctx.putHandle_id (c : Ctx) (h : Handle) : (c.putHandle h).id = c.id := rfl
@[simp] theorem Ctx.putHandle_job (c : Ctx) (h : Handle) : (c.putHandle h).job = c.job := rfl
@[simp] theorem Ctx.putHandle_card (c : Ctx) (h : Handle) : (c.putHandle h).card = c.card := rfl
@[simp] theorem Ctx.putHandle_st (c : Ctx) (h : Handle) : (c.putHandle h).st = c.st := rfl
@[simp] theorem Ctx.putHandle_v (c : Ctx) (h : Handle) : (c.putHandle h).v = c.v := rfl
@[simp] theorem Ctx.putHandle_p (c : Ctx) (h : Handle) : (c.putHandle h).p = c.p := rfl
@[simp] theorem Ctx.putHandle_z (c : Ctx) (h : Handle) : (c.putHandle h).z = c.z := rfl
@[simp] theorem Ctx.putHandle_g (c : Ctx) (h : Handle) : (c.putHandle h).g = c.g := rfl
@[simp] theorem Ctx.putHandle_gAt (c : Ctx) (h : Handle) : (c.putHandle h).gAt = c.gAt := rfl
@[simp] theorem Ctx.putHandle_dregs (c : Ctx) (h : Handle) : (c.putHandle h).dregs = c.dregs := rfl
@[simp] theorem Ctx.putHandle_status (c : Ctx) (h : Handle) : (c.putHandle h).status = c.status := rfl
@[simp] theorem Ctx.putHandle_acc (c : Ctx) (h : Handle) : (c.putHandle h).acc = c.acc := rfl
@[simp] theorem Ctx.putHandle_slot0 (c : Ctx) (h : Handle) : (c.putHandle h).slot0 = c.slot0 := rfl
@[simp] theorem Ctx.putHandle_slot1 (c : Ctx) (h : Handle) : (c.putHandle h).slot1 = c.slot1 := rfl
@[simp] theorem Ctx.putHandle_drain (c : Ctx) (h : Handle) : (c.putHandle h).drain = c.drain := rfl
@[simp] theorem Ctx.putHandle_plans (c : Ctx) (h : Handle) : (c.putHandle h).plans = c.plans := rfl
@[simp] theorem Ctx.putHandle_cmds (c : Ctx) (h : Handle) : (c.putHandle h).cmds = c.cmds := rfl
@[simp] theorem Ctx.putHandle_grants (c : Ctx) (h : Handle) : (c.putHandle h).grants = c.grants := rfl
@[simp] theorem Ctx.putHandle_vxc (c : Ctx) (h : Handle) : (c.putHandle h).vxc = c.vxc := rfl
@[simp] theorem Ctx.putHandle_leaseCmds (c : Ctx) (h : Handle) : (c.putHandle h).leaseCmds = c.leaseCmds := rfl
@[simp] theorem Ctx.putHandle_leaseCycles (c : Ctx) (h : Handle) : (c.putHandle h).leaseCycles = c.leaseCycles := rfl
@[simp] theorem Ctx.putHandle_dmode (c : Ctx) (h : Handle) : (c.putHandle h).dmode = c.dmode := rfl
@[simp] theorem Ctx.putHandle_tinfo (c : Ctx) (h : Handle) : (c.putHandle h).tinfo = c.tinfo := rfl
@[simp] theorem Ctx.putHandle_tapeBase (c : Ctx) (h : Handle) : (c.putHandle h).tapeBase = c.tapeBase := rfl
@[simp] theorem Ctx.putHandle_tapePos (c : Ctx) (h : Handle) : (c.putHandle h).tapePos = c.tapePos := rfl
@[simp] theorem Ctx.putHandle_tapeLim (c : Ctx) (h : Handle) : (c.putHandle h).tapeLim = c.tapeLim := rfl
@[simp] theorem Ctx.putHandle_tagView (c : Ctx) (h : Handle) : (c.putHandle h).tagView = c.tagView := rfl
@[simp] theorem Ctx.putHandle_order (c : Ctx) (h : Handle) : (c.putHandle h).order = c.order := rfl
@[simp] theorem Ctx.putHandle_atSup (c : Ctx) (h : Handle) : (c.putHandle h).atSup = c.atSup := rfl
@[simp] theorem Ctx.putHandle_frozen (c : Ctx) (h : Handle) : (c.putHandle h).frozen = c.frozen := rfl
@[simp] theorem Ctx.putHandle_untaken (c : Ctx) (h : Handle) : (c.putHandle h).untaken = c.untaken := rfl
@[simp] theorem Ctx.putHandle_pendingTrap (c : Ctx) (h : Handle) : (c.putHandle h).pendingTrap = c.pendingTrap := rfl
@[simp] theorem Ctx.putHandle_cellNow (c : Ctx) (h : Handle) : (c.putHandle h).cellNow = c.cellNow := rfl
@[simp] theorem Ctx.putHandle_cellClk (c : Ctx) (h : Handle) : (c.putHandle h).cellClk = c.cellClk := rfl
@[simp] theorem Ctx.putHandle_vxcClk (c : Ctx) (h : Handle) : (c.putHandle h).vxcClk = c.vxcClk := rfl
@[simp] theorem Ctx.putHandle_waitClk (c : Ctx) (h : Handle) : (c.putHandle h).waitClk = c.waitClk := rfl
@[simp] theorem Ctx.putHandle_doneClk (c : Ctx) (h : Handle) : (c.putHandle h).doneClk = c.doneClk := rfl
@[simp] theorem Ctx.putHandle_baseClk (c : Ctx) (h : Handle) : (c.putHandle h).baseClk = c.baseClk := rfl

/-! ## Looking up after an update -/

/-- Reading a vector at an index. -/
theorem get_getElem {α : Type} {n : Nat} (v : Vector α n) (i : Fin n) : v.get i = v[i.val] := rfl

/-- A lookup by key in a list whose entries of that key have all been replaced. -/
theorem find_replaced {α β : Type} [DecidableEq β] (key : α → β) (a : α) (l : List α) :
    (l.map fun d => if key d = key a then a else d).find? (fun d => decide (key d = key a)) =
      (l.find? fun d => decide (key d = key a)).map fun _ => a := by
  induction l with
  | nil => rfl
  | cons d l ih =>
    by_cases h : key d = key a
    · simp [h]
    · simp [h, ih]

/-- A lookup by another key does not see the replacement. -/
theorem find_other {α β : Type} [DecidableEq β] (key : α → β) (a : α) (x : β) (hx : x ≠ key a) (l : List α) :
    (l.map fun d => if key d = key a then a else d).find? (fun d => decide (key d = x)) =
      l.find? fun d => decide (key d = x) := by
  induction l with
  | nil => rfl
  | cons d l ih =>
    by_cases h : key d = key a
    · simp [h, hx.symm, ih]
    · have hd : (if key d = key a then a else d) = d := if_neg h
      simp only [List.map_cons, hd, List.find?_cons, ih]

/-- What a lookup of a context finds has that place. -/
theorem State.ctx_id {s : State} {x : CtxId} {c : Ctx} (h : s.ctx x = some c) : c.id = x := by
  simpa using List.find?_some h

theorem State.core_id {s : State} {k : CoreId} {c : CoreSt} (h : s.core k = some c) : c.id = k := by
  simpa using List.find?_some h

/-- The context just put is found, where there was one. -/
theorem State.ctx_putCtx (s : State) (c : Ctx) : (s.putCtx c).ctx c.id = (s.ctx c.id).map fun _ => c :=
  find_replaced Ctx.id c s.ctxs

/-- The context just put is found. -/
theorem State.ctx_putCtx_self {s : State} {x : CtxId} {c d : Ctx} (h : s.ctx x = some c) (hd : d.id = x) :
    (s.putCtx d).ctx x = some d := by
  subst hd; simp [State.ctx_putCtx, h]

/-- Another context is as it was. -/
theorem State.ctx_putCtx_other (s : State) (c : Ctx) {x : CtxId} (h : x ≠ c.id) : (s.putCtx c).ctx x = s.ctx x :=
  find_other Ctx.id c x h s.ctxs

/-- Of two contexts put at one place, the second stays. -/
theorem State.putCtx_putCtx (s : State) {c d : Ctx} (h : c.id = d.id) : (s.putCtx c).putCtx d = s.putCtx d := by
  simp only [State.putCtx, List.map_map]
  congr 1
  apply List.map_congr_left
  intro e _
  by_cases he : e.id = d.id <;> simp [he, h]

theorem State.core_putCore (s : State) (c : CoreSt) : (s.putCore c).core c.id = (s.core c.id).map fun _ => c :=
  find_replaced CoreSt.id c s.cores

theorem State.core_putCore_other (s : State) (c : CoreSt) {k : CoreId} (h : k ≠ c.id) : (s.putCore c).core k = s.core k :=
  find_other CoreSt.id c k h s.cores

@[simp] theorem State.ctx_setMem (s : State) (m : MemSt) (x : CtxId) : (s.setMem m).ctx x = s.ctx x := rfl
@[simp] theorem State.ctx_setHub (s : State) (h : HubSt) (x : CtxId) : (s.setHub h).ctx x = s.ctx x := rfl
@[simp] theorem State.ctx_setRouter (s : State) (r : RouterSt) (x : CtxId) : (s.setRouter r).ctx x = s.ctx x := rfl
@[simp] theorem State.ctx_putCore (s : State) (c : CoreSt) (x : CtxId) : (s.putCore c).ctx x = s.ctx x := rfl

theorem streamIdx_injective {i j : StreamId} (h : streamIdx i = streamIdx j) : i = j := by
  cases i <;> cases j <;> first | rfl | exact absurd h (by decide)

/-- The stream just put is found. -/
@[simp] theorem Ctx.stream_putStream (c : Ctx) (i : StreamId) (t : Stream) : (c.putStream i t).stream i = t := by
  simp [Ctx.stream, Ctx.putStream, get_getElem]

/-- Another stream is as it was. -/
theorem Ctx.stream_putStream_other (c : Ctx) {i j : StreamId} (t : Stream) (h : j ≠ i) : (c.putStream i t).stream j = c.stream j := by
  have hn : (streamIdx i).val ≠ (streamIdx j).val := fun e => h (streamIdx_injective (Fin.ext e.symm))
  simp [Ctx.stream, Ctx.putStream, get_getElem, hn]

/-- Of two streams put at one place, the second stays. -/
@[simp] theorem Ctx.putStream_putStream (c : Ctx) (i : StreamId) (t u : Stream) :
    (c.putStream i t).putStream i u = c.putStream i u := by
  simp [Ctx.putStream]

/-- The handle just put is found, where there was one. -/
theorem Ctx.handle_putHandle (c : Ctx) (h : Handle) : (c.putHandle h).handle h.id = (c.handle h.id).map fun _ => h :=
  find_replaced Handle.id h c.handles

/-- Another handle is as it was. -/
theorem Ctx.handle_putHandle_other (c : Ctx) (h : Handle) {x : HId} (hx : x ≠ h.id) : (c.putHandle h).handle x = c.handle x :=
  find_other Handle.id h x hx c.handles

/-! ## Registers -/

/-- `s0` reads 0. -/
@[simp] theorem Stream.sreg_zero (t : Stream) : t.sreg 0 = 0 := rfl

/-- A register just written reads as written, but for `s0`, which a write leaves at 0. -/
theorem Stream.sreg_setS (t : Stream) (r : SReg) (v : Word) : (t.setS r v).sreg r = if r = 0 then 0 else v := by
  by_cases h : r = 0 <;> simp [Stream.sreg, Stream.setS, h, get_getElem]

/-- Another register is as it was. -/
theorem Stream.sreg_setS_other (t : Stream) {r q : SReg} (v : Word) (h : q ≠ r) : (t.setS r v).sreg q = t.sreg q := by
  have hn : r.val ≠ q.val := fun e => h (Fin.ext e.symm)
  by_cases h0 : r = 0 <;> by_cases hq : q = 0 <;> simp [Stream.sreg, Stream.setS, h0, hq, get_getElem, hn]

end Sys2Proof.Machine
end

