-- ==== Sys2Proof/Laws/Issue.lean ====
section
/-! SUPPORT. What issuing a word does: its place, its checks, and the state that its end leaves. -/

namespace Sys2Proof.Machine

@[simp] theorem placed_stream (s : State) (r : StreamRef) (c : Ctx) (x : StreamId) : (s.placed r c).stream x = c.stream x := rfl
@[simp] theorem placed_id (s : State) (r : StreamRef) (c : Ctx) : (s.placed r c).id = c.id := rfl
@[simp] theorem placed_handle (s : State) (r : StreamRef) (c : Ctx) (h : HId) : (s.placed r c).handle h = c.handle h := rfl

/-! ## The checks of each engine's words (Table 4.1, R205) -/

theorem precheck_c {a : At} {w : Instr} (he : w.engine = 0) (hv : w.isVote = false) (ht : w.isTransfer = false) : precheck a w = none := by
  simp [precheck, he, hv, ht, wrongCore]

theorem precheck_transfer {a : At} {w : Instr} (he : w.engine = 0) (hv : w.isVote = false) (hs : a.st.slots = 0) : precheck a w = none := by
  simp [precheck, he, hv, hs, wrongCore]

theorem precheck_vote {a : At} {w : Instr} (he : w.engine = 0) (hs : a.ref.st = .C) (ht : w.isTransfer = false) : precheck a w = none := by
  simp [precheck, he, hs, ht, wrongCore]

theorem precheck_v {a : At} {w : Instr} (he : w.engine = 1) (hs : a.ref.st = .C) (ht : w.isTransfer = false) : precheck a w = none := by
  simp [precheck, he, hs, ht, wrongCore]

theorem precheck_a {a : At} {w : Instr} (he : w.engine = 2) (hc : wrongCore a.ref.ctx.core w = false) (hv : w.isVote = false)
    (ht : w.isTransfer = false) : precheck a w = none := by
  simp [precheck, he, hc, hv, ht]

theorem precheck_q {a : At} {w : Instr} {n : Nat} (he : w.engine = n) (hn : 3 ≤ n ∧ n ≤ 6) (hv : w.isVote = false)
    (ht : w.isTransfer = false) : precheck a w = none := by
  have h1 : n ≠ 1 := by omega
  have h2 : n ≠ 2 := by omega
  have h7 : n ≠ 7 := by omega
  simp [precheck, he, h1, h2, h7, hv, ht, wrongCore]

theorem precheck_k {a : At} {w : Instr} (he : w.engine = 7) (hs : a.ref.st = .C) (hm : a.st.mode = true)
    (hk : a.ref.ctx.core.isSup = true ∨ w.handlerWord = true) (hv : w.isVote = false) (ht : w.isTransfer = false) : precheck a w = none := by
  cases hk <;> simp_all [precheck, wrongCore]

/-- The stream and context that a word finds itself in. -/
theorem at_eq {s : State} {r : StreamRef} {c : Ctx} (h : s.issuer r c) :
    s.at = some (s.here r c, s.putCtx (s.placed r c)) := by
  simp only [State.at, h.1, h.2.1, h.2.2]; rfl

/-- A word that holds its stream finds it as it issued. -/
theorem at_held {s : State} {r : StreamRef} {c : Ctx} {n : Nat} {v : Vector Word 64} (h : s.holder r c n v) :
    s.at = some (⟨r, c, c.stream r.st, n, v⟩, s) := by
  simp only [State.at, h.1, h.2.1, h.2.2]

/-- A word that passes the checks runs its body. -/
theorem issue_eq {s : State} {r : StreamRef} {c : Ctx} {w : Instr} {body : At → State → Res} (h : s.issuer r c)
    (hp : precheck (s.here r c) w = none) :
    issue s w body = .next (finish (s.putCtx (s.placed r c)) (s.here r c) w (body (s.here r c) (s.putCtx (s.placed r c)))) := by
  simp [issue, at_eq h, hp]

/-- A word whose body completes. -/
theorem issue_done {s t : State} {r : StreamRef} {c : Ctx} {w : Instr} {body : At → State → Res} (h : s.issuer r c)
    (hp : precheck (s.here r c) w = none)
    (hb : body (s.here r c) (s.putCtx (s.placed r c)) = .done t) :
    issue s w body = .next (t.completed r) := by
  rw [issue_eq h hp, hb]; rfl

/-- A word whose body moves the pc itself. -/
theorem issue_moved {s t : State} {r : StreamRef} {c : Ctx} {w : Instr} {body : At → State → Res} (h : s.issuer r c)
    (hp : precheck (s.here r c) w = none)
    (hb : body (s.here r c) (s.putCtx (s.placed r c)) = .moved t) :
    issue s w body = .next (t.ended r) := by
  rw [issue_eq h hp, hb]; rfl

/-- A word whose body traps. -/
theorem issue_trap {s t : State} {r : StreamRef} {c : Ctx} {w : Instr} {body : At → State → Res} {e : Cause} (h : s.issuer r c)
    (hp : precheck (s.here r c) w = none)
    (hb : body (s.here r c) (s.putCtx (s.placed r c)) = .trap t e) :
    issue s w body = .next (trapWord t r e) := by
  rw [issue_eq h hp, hb]; rfl

/-- A word that a check refuses. -/
theorem issue_refused {s : State} {r : StreamRef} {c : Ctx} {w : Instr} {body : At → State → Res} {e : Cause} (h : s.issuer r c)
    (hp : precheck (s.here r c) w = some e) :
    issue s w body = .next (trapWord (s.putCtx (s.placed r c)) r e) := by
  simp [issue, at_eq h, hp]; rfl

/-- The context of the issuing stream, after its word has taken its place. -/
theorem ctx_placed {s : State} {r : StreamRef} {c : Ctx} (h : s.issuer r c) :
    (s.putCtx (s.placed r c)).ctx r.ctx = some (s.placed r c) := by
  exact State.ctx_putCtx_self h.2.1 ((placed_id s r c).trans (State.ctx_id h.2.1))

/-- Replacing the issuing stream. -/
theorem putStream_placed {s : State} {r : StreamRef} {c : Ctx} (h : s.issuer r c) (t : Stream) :
    (s.putCtx (s.placed r c)).putStream r t = s.withStream r c t := by
  rw [State.putStream, ctx_placed h]
  exact State.putCtx_putCtx s rfl

/-- Replacing the issuing context. -/
theorem putCtx_placed (s : State) (r : StreamRef) (c d : Ctx) (h : d.id = c.id) :
    (s.putCtx (s.placed r c)).putCtx d = s.putCtx d := State.putCtx_putCtx s h.symm

end Sys2Proof.Machine
end

