-- ==== Sys2Proof/Laws/Memory.lean ====
section
/-! SUPPORT. Laws of memory: a byte just written reads as written and leaves every other address alone; every operation keeps the
canonical form of HBM. -/

namespace Sys2Proof.Machine

/-! ## Sparse bytes -/

@[simp] theorem Memory.get_nil (x : Nat) : Memory.get [] x = unlistedByte := rfl

/-- A canonical store above `lo` lists nothing below `lo`. -/
theorem Memory.get_below {m : List Host.Cell} {lo x : Nat} (h : Memory.wfFrom lo m = true) (hx : x < lo) :
    Memory.get m x = unlistedByte := by
  induction m generalizing lo with
  | nil => rfl
  | cons e m ih =>
    obtain ⟨a, b⟩ := e
    simp only [Memory.wfFrom, Bool.and_eq_true, decide_eq_true_eq] at h
    have ha : x ≠ a := by omega
    simp only [Memory.get, if_neg ha]
    exact ih h.2 (by omega)

/-- The canonical form above a bound is the canonical form above a lower one. -/
theorem Memory.wfFrom_mono {m : List Host.Cell} {lo lo' : Nat} (h : Memory.wfFrom lo m = true) (hl : lo' ≤ lo) :
    Memory.wfFrom lo' m = true := by
  cases m with
  | nil => rfl
  | cons e m =>
    obtain ⟨a, b⟩ := e
    simp only [Memory.wfFrom, Bool.and_eq_true, decide_eq_true_eq] at h ⊢
    exact ⟨⟨by omega, h.1.2⟩, h.2⟩

/-- A write keeps the canonical form. -/
theorem Memory.wfFrom_set {m : List Host.Cell} {lo x : Nat} (v : Byte) (h : Memory.wfFrom lo m = true) (hx : lo ≤ x) :
    Memory.wfFrom lo (Memory.set m x v) = true := by
  induction m generalizing lo with
  | nil => by_cases hv : v = unlistedByte <;> simp [Memory.set, Memory.wfFrom, hv, hx]
  | cons e m ih =>
    obtain ⟨a, b⟩ := e
    simp only [Memory.wfFrom, Bool.and_eq_true, decide_eq_true_eq, bne_iff_ne] at h
    obtain ⟨⟨hlo, hb⟩, ht⟩ := h
    simp only [Memory.set]
    split
    · split
      · simp [Memory.wfFrom, hlo, hb, ht]
      · have hxa : x + 1 ≤ a := by omega
        simp [Memory.wfFrom, *]
    · split
      · split
        · exact Memory.wfFrom_mono ht (by omega)
        · simp [Memory.wfFrom, *]
      · simp only [Memory.wfFrom, Bool.and_eq_true, decide_eq_true_eq, bne_iff_ne]
        exact ⟨⟨hlo, hb⟩, ih ht (by omega)⟩

/-- A write keeps the canonical form. -/
theorem Memory.wf_set {m : List Host.Cell} (x : Nat) (v : Byte) (h : Memory.wf m = true) : Memory.wf (Memory.set m x v) = true :=
  Memory.wfFrom_set v h (Nat.zero_le x)

/-- Writes keep the canonical form. -/
theorem Memory.wf_sets {m : List Host.Cell} (x : Nat) (bs : List Byte) (h : Memory.wf m = true) : Memory.wf (Memory.sets m x bs) = true := by
  induction bs generalizing m x with
  | nil => exact h
  | cons b bs ih => exact ih (x + 1) (Memory.wf_set x b h)

/-- In a canonical store, a byte just written reads as written. -/
theorem Memory.get_set_self {m : List Host.Cell} {lo x : Nat} (v : Byte) (h : Memory.wfFrom lo m = true) :
    Memory.get (Memory.set m x v) x = v := by
  induction m generalizing lo with
  | nil => by_cases hv : v = unlistedByte <;> simp [Memory.set, Memory.get, hv]
  | cons e m ih =>
    obtain ⟨a, b⟩ := e
    simp only [Memory.wfFrom, Bool.and_eq_true, decide_eq_true_eq] at h
    simp only [Memory.set]
    split
    · have hx : x ≠ a := by omega
      split
      · subst v; simp only [Memory.get, if_neg hx]; exact Memory.get_below h.2 (by omega)
      · simp [Memory.get]
    · split
      · split
        · subst v; exact Memory.get_below h.2 (by omega)
        · simp [Memory.get, *]
      · simp only [Memory.get, if_neg ‹¬x = a›]; exact ih h.2

/-- A write leaves every other address alone. -/
theorem Memory.get_set_other (m : List Host.Cell) {x y : Nat} (v : Byte) (h : y ≠ x) : Memory.get (Memory.set m x v) y = Memory.get m y := by
  induction m with
  | nil => by_cases hv : v = unlistedByte <;> simp [Memory.set, Memory.get, hv, h]
  | cons e m ih =>
    obtain ⟨a, b⟩ := e
    simp only [Memory.set]
    split
    · split <;> simp [Memory.get, h]
    · split
      · split
        · have : y ≠ a := by omega
          simp [Memory.get, this]
        · have : y ≠ a := by omega
          simp [Memory.get, this]
      · simp [Memory.get, ih]

/-- Writes leave every address outside them alone. -/
theorem Memory.get_sets_other (m : List Host.Cell) {x y : Nat} (bs : List Byte) (h : y < x ∨ x + bs.length ≤ y) :
    Memory.get (Memory.sets m x bs) y = Memory.get m y := by
  induction bs generalizing m x with
  | nil => rfl
  | cons b bs ih =>
    simp only [List.length_cons] at h
    simp only [Memory.sets]
    rw [ih (Memory.set m x b) (by omega), Memory.get_set_other m b (by omega)]

/-- In a canonical store, bytes just written read as written. -/
theorem Memory.gets_sets_self {m : List Host.Cell} (x : Nat) (bs : List Byte) (h : Memory.wf m = true) :
    Memory.gets (Memory.sets m x bs) x bs.length = bs := by
  induction bs generalizing m x with
  | nil => rfl
  | cons b bs ih =>
    simp only [List.length_cons, Memory.gets, Memory.sets]
    rw [Memory.get_sets_other _ bs (by omega), Memory.get_set_self b h, ih (x + 1) (Memory.wf_set x b h)]

@[simp] theorem Memory.length_gets (m : List Host.Cell) (a n : Nat) : (Memory.gets m a n).length = n := by
  induction n generalizing a with
  | zero => rfl
  | succ n ih => simp [Memory.gets, ih]

/-! ## HBM keeps its canonical form -/

/-- HBM is in canonical form. -/
def MemSt.canonical (m : MemSt) : Prop := Memory.wf m.hbm = true

theorem canonical_of_hbm {m n : MemSt} (h : m.canonical) (e : n.hbm = m.hbm) : n.canonical := by
  simp only [MemSt.canonical, e]; exact h

theorem canonical_rekey {m : MemSt} (k : KeyPair) (line : Nat) (h : m.canonical) : (rekey m k line).canonical := by
  unfold rekey
  split
  · exact h
  · split
    · exact h
    · unfold MemSt.canonical at h ⊢
      dsimp only
      generalize recryptFrom _ _ _ _ _ _ = bs
      exact Memory.wf_sets (line * 128) bs h

theorem canonical_hbmSetByte {m : MemSt} (k : KeyPair) (pa : Nat) (b : Byte) (h : m.canonical) : (hbmSetByte m k pa b).canonical := by
  have hr := canonical_rekey k (pa / 128) h
  unfold MemSt.canonical at hr
  unfold MemSt.canonical hbmSetByte
  exact Memory.wf_set pa b hr

theorem canonical_hbmSets {m : MemSt} (k : KeyPair) (pa : Nat) (bs : List Byte) (h : m.canonical) : (hbmSets m k pa bs).canonical := by
  induction bs generalizing m pa with
  | nil => exact h
  | cons b bs ih => exact ih (pa + 1) (canonical_hbmSetByte k pa b h)

theorem hbm_unpoison (m : MemSt) (pa n : Nat) : (unpoison m pa n).hbm = m.hbm := by unfold unpoison; split <;> rfl

theorem hbm_dieFill (m : MemSt) (d : Die) (line idx : Nat) (k : KeyPair) : (dieFill m d line idx k).1.hbm = m.hbm := by
  unfold dieFill; split <;> rfl

theorem hbm_dieSetByte (m : MemSt) (d : Die) (idx : Nat) (k : KeyPair) (pa : Nat) (b : Byte) : (dieSetByte m d idx k pa b).hbm = m.hbm :=
  hbm_dieFill m d _ idx k

/-- A store to a die's copies leaves HBM alone (R239). -/
theorem hbm_dieSets (m : MemSt) (d : Die) (idx : Nat) (k : KeyPair) (pa : Nat) (bs : List Byte) : (dieSets m d idx k pa bs).hbm = m.hbm := by
  induction bs generalizing m pa with
  | nil => rfl
  | cons b bs ih => rw [dieSets, ih, hbm_dieSetByte]

theorem hbm_dieFills (m : MemSt) (d : Die) (idx : Nat) (k : KeyPair) (line n : Nat) : (dieFills m d idx k line n).hbm = m.hbm := by
  induction n generalizing m line with
  | zero => rfl
  | succ n ih => rw [dieFills, ih, hbm_dieFill]

theorem canonical_mergeDirty {m : MemSt} (k : KeyPair) (x : DieLine) (i : Nat) (bs : List Byte) (h : m.canonical) :
    (mergeDirty m k x i bs).canonical := by
  induction bs generalizing m i with
  | nil => exact h
  | cons b bs ih =>
    apply ih
    split
    · exact canonical_hbmSetByte _ _ _ h
    · exact h

theorem canonical_writeBack {m : MemSt} (d : Die) (line : Nat) (h : m.canonical) : (writeBack m d line).canonical := by
  unfold writeBack
  split
  · exact h
  · split
    · exact h
    · rename_i x _ _ k _
      have hn := canonical_mergeDirty k x 0 x.bytes h
      dsimp only
      split
      · exact canonical_of_hbm hn (hbm_unpoison _ _ _)
      · exact canonical_of_hbm hn rfl

/-- Writing lines through to HBM keeps its canonical form (Table 13.10). -/
theorem canonical_throughLines {m : MemSt} (d : Die) (line n : Nat) (h : m.canonical) : (throughLines m d line n).canonical := by
  induction n generalizing m line with
  | zero => exact h
  | succ n ih => exact ih _ (canonical_writeBack d line h)

theorem canonical_dropLine {m : MemSt} (d : Die) (line : Nat) (h : m.canonical) : (dropLine m d line).canonical := h

theorem hbm_raceNote (m : MemSt) (w : Who) (k : Kind) (g n : Nat) : (raceNote m w k g n).hbm = m.hbm := by
  induction n generalizing m g with
  | zero => rfl
  | succ n ih => rw [raceNote, ih]

theorem hbm_cureCopies (m : MemSt) (d : Die) (pa n : Nat) : (cureCopies m d pa n).hbm = m.hbm := by unfold cureCopies; split <;> rfl

theorem hbm_poisonCopies (m : MemSt) (line : Nat) : (poisonCopies m line).hbm = m.hbm := rfl

theorem hbm_dropAtom (m : MemSt) (w : Who) (p : Piece) : (dropAtom m w p).hbm = m.hbm := by unfold dropAtom; split <;> rfl

theorem hbm_atomRelease (m : MemSt) (w : Who) (p : Piece) (c : Clock) (g n : Nat) : (atomRelease m w p c g n).hbm = m.hbm := by
  induction n generalizing m g with
  | zero => rfl
  | succ n ih => rw [atomRelease, ih]

theorem hbm_noteRead (m : MemSt) (w : Who) (k : Kind) (p : Piece) : (noteRead m w k p).hbm = m.hbm := by
  unfold noteRead
  dsimp only
  cases w.copyOf p.leaf <;> split <;> simp only [hbm_raceNote, hbm_dieFills]

theorem canonical_writePiece {m : MemSt} (w : Who) (k : Kind) (p : Piece) (bs : List Byte) (h : m.canonical) :
    (writePiece m w k p bs).canonical := by
  have h0 : (if k = Kind.atomic then m else dropAtom m w p).canonical := by
    split
    · exact h
    · exact canonical_of_hbm h (hbm_dropAtom m w p)
  have hr : ∀ n : MemSt, n.canonical → (if p.leaf.chk && w.races then raceNote n w k (p.pa / 4) (granules p.pa p.len) else n).canonical := by
    intro n hn
    split
    · exact canonical_of_hbm hn (hbm_raceNote _ _ _ _ _)
    · exact hn
  unfold writePiece
  apply hr
  cases w.copyOf p.leaf with
  | none => exact canonical_of_hbm (canonical_hbmSets _ _ _ h0) (hbm_unpoison _ _ _)
  | some d =>
    have hd := canonical_of_hbm (canonical_of_hbm h0 (hbm_dieSets _ d p.idx p.key p.pa bs)) (hbm_cureCopies _ d p.pa p.len)
    dsimp only
    split
    · exact canonical_throughLines d _ _ hd
    · exact hd

/-- Writing the pieces of an access keeps the canonical form. -/
theorem canonical_writePieces {m : MemSt} (w : Who) (k : Kind) (ps : List Piece) (bs : List Byte) (h : m.canonical) :
    (writePieces m w k ps bs).canonical := by
  induction ps generalizing m bs with
  | nil => exact h
  | cons p ps ih => exact ih _ (canonical_writePiece w k p _ h)

/-- Reading the pieces of an access leaves HBM alone. -/
theorem hbm_readPieces (m : MemSt) (w : Who) (k : Kind) (ps : List Piece) : (readPieces m w k ps).2.hbm = m.hbm := by
  induction ps generalizing m with
  | nil => rfl
  | cons p ps ih => simp only [readPieces]; rw [ih, hbm_noteRead]

/-- What an answer that goes on says. -/
theorem Got.bind_ok {α β : Type} {x : Got α} {f : α → Got β} {b : β} (h : x.bind f = .ok b) : ∃ a, x = .ok a ∧ f a = .ok b := by
  cases x with
  | ok a => exact ⟨a, rfl, h⟩
  | fail c d e => cases h
  | stall => cases h

/-- A check that lets go on. -/
theorem Got.guard_ok {α : Type} {p : Prop} [Decidable p] {c d e : Nat} {x : Got α} {r : α}
    (h : (if p then Got.fail c d e else x) = .ok r) : x = .ok r := by
  by_cases hp : p
  · rw [if_pos hp] at h; cases h
  · rwa [if_neg hp] at h

/-- A translation leaves HBM alone. -/
theorem hbm_translate {m : MemSt} {h : HubSt} {free : Nat} {w : Who} {va : Nat} {r : MemSt × Option Leaf}
    (e : translate m h free w va = .ok r) : r.1.hbm = m.hbm := by
  unfold translate at e
  split at e
  · cases e; rfl
  split at e
  · dsimp only at e
    split at e <;> cases e <;> rfl
  · obtain ⟨q, -, e⟩ := Got.bind_ok e
    repeat' split at e
    all_goals cases e; rfl

/-- The checks of an access leave HBM alone. -/
theorem hbm_checkPiece {m : MemSt} {h : HubSt} {free : Nat} {w : Who} {k : Kind} {dev8 : Bool} {va len : Nat} {r : MemSt × Piece}
    (e : checkPiece m h free w k dev8 va len = .ok r) : r.1.hbm = m.hbm := by
  unfold checkPiece at e
  obtain ⟨q, hq, e⟩ := Got.bind_ok e
  have hm := hbm_translate hq
  split at e
  · cases e
  have e := Got.guard_ok (Got.guard_ok (Got.guard_ok (Got.guard_ok e)))
  dsimp only at e
  split at e
  · cases e; exact hm
  split at e
  · cases e
  obtain ⟨_, _, e⟩ := Got.bind_ok e
  cases e; exact hm

/-- The checks of an access leave HBM alone. -/
theorem hbm_checkPieces {m : MemSt} {h : HubSt} {free : Nat} {w : Who} {k : Kind} {dev8 : Bool} {va len fuel : Nat}
    {r : MemSt × List Piece} (e : checkPieces m h free w k dev8 va len fuel = .ok r) : r.1.hbm = m.hbm := by
  induction fuel generalizing m free va len r with
  | zero => cases e; rfl
  | succ n ih =>
    unfold checkPieces at e
    split at e
    · cases e; rfl
    · obtain ⟨q, hq, e⟩ := Got.bind_ok e
      obtain ⟨t, ht, e⟩ := Got.bind_ok e
      cases e
      exact (ih ht).trans (hbm_checkPiece hq)

/-- The checks of an access leave HBM alone. -/
theorem hbm_checkAccess {m : MemSt} {h : HubSt} {free : Nat} {w : Who} {k : Kind} {dev8 : Bool} {va len : Nat} {r : MemSt × List Piece}
    (e : checkAccess m h free w k dev8 va len = .ok r) : r.1.hbm = m.hbm := by
  obtain ⟨q, hq, e⟩ := Got.bind_ok e
  obtain ⟨_, _, e⟩ := Got.bind_ok e
  cases e; exact hbm_checkPieces hq

/-- Memory right after power-up is in canonical form. -/
theorem canonical_reset : State.reset.mem.canonical := rfl

end Sys2Proof.Machine
end

