-- ==== Sys2Proof/Tests/Slice0.lean ====
section
/-! SUPPORT. Tests: the manual's worked words and hand-written words decode, ill-formed terms are refused, single steps on small states, and
for each statement with hypotheses a state that meets them. Expected values come from the manual's examples and tables, or are worked out
by hand from its rules. -/

open Sys2Proof Sys2Proof.Machine

namespace Sys2Proof.Tests

set_option Elab.async false

/-! ## Well-formedness: each check refuses a term (Table 4.1 check 6, R62-R69) -/

theorem test_wf_pairs : (Instr.lq 3 1 0).wf = false ∧ (Instr.sq 5 1 0).wf = false ∧ (Instr.casq 1 2 4).wf = false ∧
    (Instr.casq 2 2 5).wf = false ∧ (Instr.lq 4 1 0).wf = true := by decide

theorem test_wf_types : (Instr.vfma 1 2 3 .I 0 false).wf = false ∧ (Instr.vfms 1 2 3 .E 0 false).wf = false ∧
    (Instr.vabs 1 2 .N 0 false).wf = false ∧ (Instr.vneg 1 2 .N 0 false).wf = false ∧ (Instr.vdiv 1 2 3 .B 0 false).wf = false ∧
    (Instr.vrem 1 2 3 .F 0 false).wf = false ∧ (Instr.vsqrt 1 2 .I 0 false).wf = false ∧ (Instr.vrcp 1 2 .D 0 false).wf = false ∧
    (Instr.vrsq 1 2 .D 0 false).wf = false ∧ (Instr.vexp2 1 2 .D 0 false).wf = false ∧ (Instr.vlog2 1 2 .D 0 false).wf = false ∧
    (Instr.vsin 1 2 .D 0 false).wf = false ∧ (Instr.vcos 1 2 .D 0 false).wf = false ∧ (Instr.vtanh 1 2 .D 0 false).wf = false := by decide

theorem test_wf_types_more : (Instr.vand 1 2 3 .F 0 false).wf = false ∧ (Instr.vor 1 2 3 .D 0 false).wf = false ∧
    (Instr.vxor 1 2 3 .B 0 false).wf = false ∧ (Instr.vsll 1 2 3 .F 0 false).wf = false ∧ (Instr.vsrl 1 2 3 .E 0 false).wf = false ∧
    (Instr.vsra 1 2 3 .M 0 false).wf = false ∧ (Instr.vcvt 1 2 .F .F 0 false).wf = false ∧ (Instr.vcmpeq 1 2 3 .E 0).wf = false ∧
    (Instr.vcmplt 1 2 3 .M 0).wf = false ∧ (Instr.vcmple 1 2 3 .E 0).wf = false ∧ (Instr.vcmpun 1 2 3 .I 0).wf = false ∧
    (Instr.vredadd 1 2 .B 0 false).wf = false ∧ (Instr.vredmax 1 2 .E 0 false).wf = false ∧ (Instr.vredmin 1 2 .M 0 false).wf = false ∧
    (Instr.vscan 1 2 .D 0 false).wf = false := by decide

theorem test_wf_fields : (Instr.vins 1 2 3 true).wf = false ∧ (Instr.vext 1 2 63 true).wf = false ∧ (Instr.vins 1 2 3 false).wf = true ∧
    (Instr.drain .always 1 2 0b1100).wf = false ∧ (Instr.drainm .always 1 2 0b1110).wf = false ∧ (Instr.rwfill 1 2 0).wf = false ∧
    (Instr.rwfree 1 2 0).wf = false ∧ (Instr.rwfree 1 2 1).wf = true := by decide

/-! ## Decoding -/

def decodesTo (w : Nat) (i : Instr) : Bool :=
  match decode w with
  | .ok j => decide (j = i)
  | .error _ => false

def refusedBy (w : Nat) (e : DecodeError) : Bool :=
  match decode w with
  | .ok _ => false
  | .error f => decide (f = e)

/-- The manual's worked words (each stands in the entry of its instruction in spec/05 to spec/09, or in Program A). -/
theorem test_decode_manual_c : ([(0x010620A0, .add 3 4 5), (0x1C125161, .amod 9 10 11 .add), (0x128420A0, .bjt 2 4 5),
    (0x13FE1002, .btrlAlways 63 2), (0x1D125160, .casd 9 10 11), (0x180E1010, .ld 7 2 16), (0x180E17F8, .ld 7 2 (-8)),
    (0x068620A1, .maxu 3 4 5), (0x0E8C0003, .srr 6 .fflags), (0x0E8C0011, .srr 6 .tinfo), (0x0F003802, .srw 7 .round),
    (0x14081800, .vany 4 3), (0x1E802000, .waitt 4), (0x1E000043, .fence 8 .die), (0x1E000004, .fence 0 .module),
    (0x00800000, .nop)] : List (Nat × Instr)).all (fun p => decodesTo p.1 p.2) = true := by decide +kernel

theorem test_decode_manual_vq : ([(0x208C2200, .vadd 3 1 2 .F 0 false), (0x2E0C2200, .vcmplt 3 1 2 .F 0),
    (0x2D1D1400, .vcvt 7 8 .B .F 0 false), (0x37086020, .vldm 2 6 2 0), (0x34947000, .vsplat 5 7 false), (0x358C9FC0, .vext 3 9 63 false),
    (0x388020A0, .vxcGather 4 5), (0x61002800, .chain .always 10 0), (0x82003000, .chaina .always 12 0), (0x6080A030, .copy .always 40 3),
    (0x45003038, .drainm .always 12 3 8), (0x47005021, .fft .always 20 2 1), (0x6280A401, .invr .always 41 0 true),
    (0x4A005800, .layerf .always 22 0), (0x49800D42, .mma3 .always 3 20 true), (0x8280A021, .offl .always 40 2 true),
    (0x49005401, .plan .always 21 0 1), (0x6180A011, .pref .always 40 1 true), (0x46800047, .statg .always 0 3 7),
    (0x45806097, .stats .always 3 9 7)] : List (Nat × Instr)).all (fun p => decodesTo p.1 p.2) = true := by decide +kernel

theorem test_decode_manual_yk : ([(0xC1840040, .parrive 8 1), (0xC2040040, .pdrop 8 1), (0xC0840002, .pinit 8 0 2), (0xC1040007, .pinitr 8 0 7),
    (0xC2840000, .pwait 8 0 false), (0xC80B0000, .gset 0 3), (0xC8908000, .gseti 1 true), (0xC9100000, .gclr 1),
    (0xCA2C0005, .fork .a .default 5), (0xCA3C0004, .fork .l .default 4), (0xCA800001, .rdvFin), (0xCA800000, .rdv), (0xCB300000, .waitp .hbm),
    (0xCB8A1200, .halloc 20 9), (0xCC0A0000, .hfree 20), (0xCC8A1200, .hfmt 20 9), (0xD0064800, .dreg 3 9), (0xD0860000, .dunreg 3),
    (0xD1000002, .dmode .reverse), (0xD410A800, .sread 8 21), (0xE1060003, .csrr 3 0 .fflags), (0xE10A3805, .csrr 5 7 .epc),
    (0xE1862805, .csrw 3 5 .epc), (0xE3002000, .gang 4), (0xE3802000, .gres 4), (0xE0800000, .eret)] : List (Nat × Instr)).all
    (fun p => decodesTo p.1 p.2) = true := by decide +kernel

/-! The formats of Table 4.2, and the words of Tables 4.4 to 4.11 written out in them. -/

abbrev rr (e op d a b fn : Nat) : Nat := e * 2 ^ 29 + op * 2 ^ 23 + d * 2 ^ 17 + a * 2 ^ 11 + b * 2 ^ 5 + fn
abbrev ri (e op d a i : Nat) : Nat := e * 2 ^ 29 + op * 2 ^ 23 + d * 2 ^ 17 + a * 2 ^ 11 + i
abbrev i17 (op d i : Nat) : Nat := op * 2 ^ 23 + d * 2 ^ 17 + i
abbrev v3 (op d a b t p z : Nat) : Nat := 2 ^ 29 + op * 2 ^ 23 + d * 2 ^ 18 + a * 2 ^ 13 + b * 2 ^ 8 + t * 2 ^ 5 + p * 2 + z
abbrev vs (op v s l w : Nat) : Nat := 2 ^ 29 + op * 2 ^ 23 + v * 2 ^ 18 + s * 2 ^ 12 + l * 2 ^ 6 + w * 2 ^ 5
abbrev vm (op v s x p c : Nat) : Nat := 2 ^ 29 + op * 2 ^ 23 + v * 2 ^ 18 + s * 2 ^ 12 + x * 2 ^ 4 + p * 2 + c
abbrev qf (e op g h s fn : Nat) : Nat := e * 2 ^ 29 + op * 2 ^ 23 + g * 2 ^ 18 + h * 2 ^ 10 + s * 2 ^ 4 + fn
abbrev yh (op h r x : Nat) : Nat := 6 * 2 ^ 29 + op * 2 ^ 23 + h * 2 ^ 15 + r * 2 ^ 6 + x
abbrev yg (op g c v : Nat) : Nat := 6 * 2 ^ 29 + op * 2 ^ 23 + g * 2 ^ 19 + c * 2 ^ 16 + v * 2 ^ 15
abbrev yf (st ro o : Nat) : Nat := 6 * 2 ^ 29 + 0x14 * 2 ^ 23 + st * 2 ^ 20 + ro * 2 ^ 18 + o
abbrev yb (op t : Nat) : Nat := 6 * 2 ^ 29 + op * 2 ^ 23 + t * 2 ^ 20
abbrev ya (op h s : Nat) : Nat := 6 * 2 ^ 29 + op * 2 ^ 23 + h * 2 ^ 15 + s * 2 ^ 9
abbrev yd (op x y : Nat) : Nat := 6 * 2 ^ 29 + op * 2 ^ 23 + x * 2 ^ 17 + y * 2 ^ 11
abbrev ym (op m : Nat) : Nat := 6 * 2 ^ 29 + op * 2 ^ 23 + m

/-- Table 4.4, opcodes 0x02 to 0x1F. -/
theorem test_decode_control_arith : ([
    (rr 0 0x02 63 1 2 0, .add 63 1 2), (rr 0 0x03 63 1 2 0, .sub 63 1 2), (rr 0 0x04 63 1 2 0, .and 63 1 2),
    (rr 0 0x05 63 1 2 0, .or 63 1 2), (rr 0 0x06 63 1 2 0, .xor 63 1 2), (rr 0 0x07 63 1 2 0, .sll 63 1 2),
    (rr 0 0x08 63 1 2 0, .srl 63 1 2), (rr 0 0x09 63 1 2 0, .sra 63 1 2), (rr 0 0x0A 63 1 2 0, .slt 63 1 2),
    (rr 0 0x0B 63 1 2 0, .sltu 63 1 2), (rr 0 0x0C 3 33 2 0, .min 3 33 2), (rr 0 0x0C 3 33 2 1, .minu 3 33 2),
    (rr 0 0x0D 3 1 62 0, .max 3 1 62), (rr 0 0x0D 3 1 62 1, .maxu 3 1 62), (rr 0 0x0E 3 1 2 0, .mul 3 1 2),
    (rr 0 0x0E 3 1 2 1, .mulh 3 1 2), (rr 0 0x0E 3 1 2 2, .mulhu 3 1 2), (rr 0 0x0F 3 1 2 0, .divs 3 1 2),
    (rr 0 0x0F 3 1 2 1, .rems 3 1 2), (rr 0 0x10 3 1 2 0, .divn 3 1 2), (rr 0 0x10 3 1 2 1, .remn 3 1 2),
    (ri 0 0x11 5 6 2047, .addi 5 6 (-1)), (ri 0 0x12 5 6 2047, .andi 5 6 (-1)), (ri 0 0x13 5 6 2047, .ori 5 6 (-1)),
    (ri 0 0x14 5 6 2047, .xori 5 6 (-1)), (ri 0 0x15 5 6 63, .slli 5 6 63), (ri 0 0x16 5 6 63, .srli 5 6 63),
    (ri 0 0x17 5 6 63, .srai 5 6 63), (ri 0 0x18 5 6 1024, .slti 5 6 1024), (ri 0 0x19 5 6 1023, .sltiu 5 6 1023),
    (i17 0x1A 7 65535, .li 7 65535), (i17 0x1B 7 131071, .lsi 7 131071), (rr 0 0x1C 7 1 2 0, .cmpeq 7 1 2),
    (rr 0 0x1C 7 1 2 1, .cmpne 7 1 2), (rr 0 0x1C 7 1 2 2, .cmplt 7 1 2), (rr 0 0x1C 7 1 2 3, .cmpltu 7 1 2),
    (rr 0 0x1C 7 1 2 4, .cmpge 7 1 2), (rr 0 0x1C 7 1 2 5, .cmpgeu 7 1 2), (ri 0 0x1D 5 0 0, .srr 5 .pc), (ri 0 0x1E 0 9 5, .srw 9 .epc),
    (rr 0 0x1F 7 1 2 0, .cand 7 1 2), (rr 0 0x1F 7 1 2 1, .cor 7 1 2), (rr 0 0x1F 7 1 2 2, .cxor 7 1 2), (rr 0 0x1F 7 1 2 3, .candn 7 1 2)] :
    List (Nat × Instr)).all (fun p => decodesTo p.1 p.2) = true := by decide +kernel

/-- Table 4.4, opcodes 0x23 to 0x3F, and `NOP`. -/
theorem test_decode_control_memory : ([
    (i17 0x23 7 3, .bpt 7 3), (ri 0 0x24 7 9 2047, .bptr 7 9 (-1)), (rr 0 0x25 7 9 8 0, .bjt 7 9 8), (rr 0 0x26 0 7 6 0, .btr 7 6),
    (rr 0 0x26 0 7 6 1, .btrFalse 7 6), (rr 0 0x26 0 7 0 2, .btrAlways 7), (rr 0 0x27 63 7 6 0, .btrl 63 7 6),
    (rr 0 0x27 63 7 6 1, .btrlFalse 63 7 6), (rr 0 0x27 63 7 0 2, .btrlAlways 63 7), (rr 0 0x28 7 15 0 0, .vany 7 15),
    (rr 0 0x29 7 15 0 0, .vall 7 15), (ri 0 0x2A 5 6 2044, .lb 5 6 (-4)), (ri 0 0x2B 5 6 2044, .lbu 5 6 (-4)),
    (ri 0 0x2C 5 6 2044, .lh 5 6 (-4)), (ri 0 0x2D 5 6 2044, .lhu 5 6 (-4)), (ri 0 0x2E 5 6 2044, .lw 5 6 (-4)),
    (ri 0 0x2F 5 6 2044, .lwu 5 6 (-4)), (ri 0 0x30 5 6 2044, .ld 5 6 (-4)), (ri 0 0x31 5 6 2044, .sb 5 6 (-4)),
    (ri 0 0x32 5 6 2044, .sh 5 6 (-4)), (ri 0 0x33 5 6 2044, .sw 5 6 (-4)), (ri 0 0x34 5 6 2044, .sd 5 6 (-4)),
    (ri 0 0x35 62 6 16, .lq 62 6 16), (ri 0 0x36 62 6 16, .sq 62 6 16), (rr 0 0x37 1 2 3 8, .amow 1 2 3 .maxu),
    (rr 0 0x38 1 2 3 0, .amod 1 2 3 .swap), (rr 0 0x39 1 2 3 0, .casw 1 2 3), (rr 0 0x3A 1 2 3 0, .casd 1 2 3),
    (rr 0 0x3B 2 1 4 0, .casq 2 1 4), (i17 0x3C 0 (5 + 1 * 8), .fence 1 .fabric), (rr 0 0x3D 0 9 0 0, .waitt 9),
    (rr 0 0x3E 9 0 0 0, .rdtime 9), (i17 0x3F 0 65535, .trap 65535), (i17 0x01 0 0, .nop)] :
    List (Nat × Instr)).all (fun p => decodesTo p.1 p.2) = true := by decide +kernel

/-- Table 4.5, opcodes 0x01 to 0x1A. -/
theorem test_decode_vector_elements : ([
    (v3 0x01 31 1 2 7 15 1, .vadd 31 1 2 .M 15 true), (v3 0x02 31 1 2 7 15 1, .vsub 31 1 2 .M 15 true),
    (v3 0x03 31 1 2 7 15 1, .vmul 31 1 2 .M 15 true), (v3 0x04 31 1 2 7 15 1, .vmin 31 1 2 .M 15 true),
    (v3 0x05 31 1 2 7 15 1, .vmax 31 1 2 .M 15 true), (v3 0x06 31 1 2 5 15 0, .vfma 31 1 2 .B 15 false),
    (v3 0x07 31 1 2 5 15 0, .vfms 31 1 2 .B 15 false), (v3 0x08 31 1 0 6 1 0, .vabs 31 1 .E 1 false),
    (v3 0x09 31 1 0 6 1 0, .vneg 31 1 .E 1 false), (v3 0x0A 3 30 2 4 1 0, .vdiv 3 30 2 .L 1 false),
    (v3 0x0B 3 1 29 3 1 0, .vrem 3 1 29 .N 1 false), (v3 0x0C 3 1 0 1 1 1, .vsqrt 3 1 .D 1 true),
    (v3 0x0D 31 1 0 0 1 1, .vrcp 31 1 .F 1 true), (v3 0x0E 31 1 0 0 1 1, .vrsq 31 1 .F 1 true),
    (v3 0x0F 31 1 0 0 1 1, .vexp2 31 1 .F 1 true), (v3 0x10 31 1 0 0 1 1, .vlog2 31 1 .F 1 true),
    (v3 0x11 31 1 0 0 1 1, .vsin 31 1 .F 1 true), (v3 0x12 31 1 0 0 1 1, .vcos 31 1 .F 1 true),
    (v3 0x13 31 1 0 0 1 1, .vtanh 31 1 .F 1 true), (v3 0x14 3 1 2 2 1 1, .vand 3 1 2 .I 1 true),
    (v3 0x15 3 1 2 2 1 1, .vor 3 1 2 .I 1 true), (v3 0x16 3 1 2 2 1 1, .vxor 3 1 2 .I 1 true),
    (v3 0x17 3 1 2 2 1 1, .vsll 3 1 2 .I 1 true), (v3 0x18 3 1 2 2 1 1, .vsrl 3 1 2 .I 1 true),
    (v3 0x19 3 1 2 2 1 1, .vsra 3 1 2 .I 1 true), (v3 0x1A 3 1 (4 * 4) 2 9 1, .vcvt 3 1 .L .I 9 true)] :
    List (Nat × Instr)).all (fun p => decodesTo p.1 p.2) = true := by decide +kernel

/-- Table 4.5, opcodes 0x1B to 0x32 (the five kinds of `VXC` are one word, R126). -/
theorem test_decode_vector_lanes : ([
    (v3 0x1B 15 1 2 4 3 0, .vcmpeq 15 1 2 .L 3), (v3 0x1C 15 1 2 4 3 0, .vcmplt 15 1 2 .L 3), (v3 0x1D 15 1 2 4 3 0, .vcmple 15 1 2 .L 3),
    (v3 0x1E 15 1 2 5 3 0, .vcmpun 15 1 2 .B 3), (v3 0x1F 3 1 2 7 3 0, .vsel 3 1 2 .M 3), (v3 0x20 1 2 3 0 0 0, .vpand 1 2 3),
    (v3 0x21 1 2 3 0 0 0, .vpor 1 2 3), (v3 0x22 1 2 3 0 0 0, .vpxor 1 2 3), (v3 0x23 1 2 0 0 0 0, .vpnot 1 2),
    (v3 0x24 3 1 2 6 3 1, .vperm 3 1 2 .E 3 true), (v3 0x25 3 1 0 4 3 1, .vredadd 3 1 .L 3 true),
    (v3 0x26 3 1 0 4 3 1, .vredmax 3 1 .L 3 true), (v3 0x27 3 1 0 4 3 1, .vredmin 3 1 .L 3 true),
    (v3 0x28 3 1 0 3 3 1, .vscan 3 1 .N 3 true), (vs 0x29 3 33 0 1, .vsplat 3 33 true), (vs 0x2A 3 33 62 1, .vins 3 33 62 true),
    (vs 0x2B 3 33 61 0, .vext 3 33 61 false), (vm 0x2C 3 33 255 7 1, .vldh 3 33 255 7 true),
    (vm 0x2D 3 33 255 7 0, .vsth 3 33 255 7 false), (vm 0x2E 3 33 255 7 0, .vldm 3 33 255 7), (vm 0x2F 3 33 128 1 0, .vstm 3 33 128 1),
    (v3 0x30 3 1 0 6 3 1, .vmov 3 1 .E 3 true), (rr 1 0x31 0 1 2 0, .vxcGather 1 2), (v3 0x32 0 0 0 0 0 0, .vfence)] :
    List (Nat × Instr)).all (fun p => decodesTo p.1 p.2) = true := by decide +kernel

/-- Tables 4.6, 4.7 and 4.9. -/
theorem test_decode_queued : ([
    (qf 2 0x01 1 0 0 0, .lacq (.onTrue 0)), (qf 2 0x02 31 0 0 0, .lrel (.onFalse 14)), (qf 2 0x03 0 200 33 1, .bload .always 200 33 true),
    (qf 2 0x04 0 200 33 2, .mma .always 200 33 true false), (qf 2 0x05 0 200 33 11, .drain .always 200 33 11),
    (qf 2 0x06 0 200 33 0, .dbias .always 200 33), (qf 2 0x07 0 200 33 0, .dact .always 200 33), (qf 2 0x08 0 0 33 0, .dtt .always 33),
    (qf 2 0x09 0 200 33 0, .dclamp .always 200 33), (qf 2 0x0A 0 200 33 5, .drainm .always 200 33 5),
    (qf 2 0x0B 0 (31 * 8) 33 15, .stats .always 31 33 15), (qf 2 0x0C 0 (31 * 8) 7 15, .statc .always 31 7 15),
    (qf 2 0x0D 0 (31 * 8) 15 15, .statg .always 31 14 15), (qf 2 0x0E 0 200 33 15, .fft .always 200 33 15),
    (qf 2 0x0F 0 200 33 15, .ifft .always 200 33 15), (qf 2 0x10 0 200 33 15, .shtf .always 200 33 15),
    (qf 2 0x11 0 200 33 15, .shti .always 200 33 15), (qf 2 0x12 0 200 33 15, .plan .always 200 33 15),
    (qf 2 0x13 0 200 33 2, .mma3 .always 200 33 true), (qf 2 0x14 2 200 33 0, .layerf (.onTrue 1) 200 33),
    (qf 2 0x15 2 200 33 0, .layerd (.onTrue 1) 200 33), (qf 2 0x16 2 200 33 0, .layerw (.onTrue 1) 200 33),
    (qf 2 0x17 2 200 33 0, .layeru (.onTrue 1) 200 33), (qf 3 0x01 0 200 33 0, .copy .always 200 33),
    (qf 3 0x02 18 200 33 0, .chain (.onFalse 1) 200 33), (qf 3 0x03 0 200 33 1, .pref .always 200 33 true),
    (qf 3 0x04 0 200 33 0, .retn .always 200 33), (qf 3 0x05 0 200 33 0, .invr .always 200 33 false),
    (qf 4 0x01 0 200 33 0, .copyo .always 200 33), (qf 4 0x02 0 200 33 0, .chaino .always 200 33),
    (qf 4 0x03 0 200 33 0, .copya .always 200 33), (qf 4 0x04 0 200 33 0, .chaina .always 200 33),
    (qf 4 0x05 0 200 33 1, .offl .always 200 33 true), (qf 4 0x06 0 200 33 1, .wbr .always 200 33 true),
    (qf 5 0x01 0 200 33 15, .zpop .always 200 33 15), (qf 5 0x02 0 200 33 15, .zpush .always 200 33 15),
    (qf 5 0x03 0 200 33 15, .zopen .always 200 33 15), (qf 5 0x04 0 0 0 15, .zclose .always 15),
    (qf 5 0x05 0 200 33 0, .tune .always 200 33), (qf 5 0x06 0 200 33 0, .trav .always 200 33),
    (qf 5 0x07 0 200 33 3, .pushr .always 200 33 .add64), (qf 5 0x08 0 200 33 0, .ncomb .always 200 33)] :
    List (Nat × Instr)).all (fun p => decodesTo p.1 p.2) = true := by decide +kernel

/-- Table 4.10. -/
theorem test_decode_sync : ([
    (yh 0x01 255 511 63, .pinit 255 511 63), (yh 0x02 255 511 63, .pinitr 255 511 63), (yh 0x03 255 511 0, .parrive 255 511),
    (yh 0x04 255 511 0, .pdrop 255 511), (yh 0x05 255 511 1, .pwait 255 511 true), (yh 0x06 1 2 3, .rinit 1 2 3),
    (yh 0x07 1 2 3, .rclaim 1 2 3), (yh 0x08 1 2 3, .rcommit 1 2 3), (yh 0x09 1 2 63, .rwfill 1 2 63), (yh 0x0A 1 2 1, .rwfree 1 2 1),
    (yh 0x0B 1 2 3, .rfree 1 2 3), (yb 0x0C 7, .barr 7), (yb 0x0D 7, .bara 7), (yb 0x0E 7, .bwait 7), (yb 0x0F 7, .bdrop 7),
    (yg 0x10 15 7 0, .gset 14 7), (yg 0x11 15 0 1, .gseti 14 true), (yg 0x12 15 0 0, .gclr 14),
    (yf 4 1 (2 ^ 18 - 1), .fork .s .arith (-1)), (yf 5 2 7, .fork .n .epilogue 7), (ym 0x15 0, .rdv), (ym 0x15 1, .rdvFin),
    (yb 0x16 4, .waitp .fabric), (ya 0x17 200 33, .halloc 200 33), (ya 0x18 200 0, .hfree 200), (ya 0x19 200 33, .hfmt 200 33),
    (yd 0x20 63 33, .dreg 63 33), (yd 0x21 63 0, .dunreg 63), (ym 0x22 1, .dmode .record), (yd 0x23 33 0, .tread 33),
    (yd 0x24 33 0, .tlim 33), (yd 0x25 33 0, .tset 33), (yd 0x28 33 34, .sread 33 34), (yd 0x29 33 0, .sstep 33),
    (yd 0x2A 33 0, .sskip 33)] :
    List (Nat × Instr)).all (fun p => decodesTo p.1 p.2) = true := by decide +kernel

/-- Table 4.11. -/
theorem test_decode_system : ([
    (ri 7 0x01 0 0 0, .eret), (ri 7 0x02 5 6 2, .csrr 5 6 .round), (ri 7 0x03 5 6 2, .csrw 5 6 .round), (ri 7 0x04 0 6 0, .tlbiPage 6),
    (ri 7 0x04 0 6 1, .tlbiKey 6), (ri 7 0x04 0 6 2, .tlbiAll 6), (ri 7 0x05 0 6 0, .keyset 6), (ri 7 0x06 0 6 0, .gang 6),
    (ri 7 0x07 0 6 0, .gres 6), (ri 7 0x08 0 6 0, .graphLoad 6), (ri 7 0x08 0 6 1, .graphStart 6), (ri 7 0x08 0 6 2, .graphStop 6),
    (ri 7 0x08 0 6 3, .graphUnload 6), (ri 7 0x09 5 6 63, .mbx 5 6 63), (ri 7 0x0A 0 6 255, .mcload 6 255),
    (ri 7 0x0B 0 0 2047, .halt 2047)] :
    List (Nat × Instr)).all (fun p => decodesTo p.1 p.2) = true := by decide +kernel

/-- Table 8.8, the six micro-ops; a reserved bit, an opcode that no micro-op may run, and an op of 6 or more are refused. -/
theorem test_decode_micro_ops : ([(0x13 * 2 ^ 54 + 2 * 2 ^ 50 + 15 * 2 ^ 46 + 14 * 2 ^ 42, .uopArr .mma3 2 15 14),
    (2 ^ 60 + 9 * 2 ^ 56 + 0x80000000, .uopSet 9 0x80000000), (2 * 2 ^ 60 + 9 * 2 ^ 56 + 3 * 2 ^ 52 + 5, .uopAdd 9 3 5),
    (3 * 2 ^ 60 + 9 * 2 ^ 56 + 16383, .uopLoop 9 16383), (4 * 2 ^ 60, .uopSafe), (5 * 2 ^ 60, .uopEnd)] : List (Nat × Instr)).all
    (fun p => decide (decodeUop p.1 = some p.2)) = true := by decide +kernel

theorem test_decode_micro_ops_refused : ([2 ^ 60 + 2 ^ 32, 3 * 2 ^ 60 + 2 ^ 14, 4 * 2 ^ 60 + 1, 0x0B * 2 ^ 54, 6 * 2 ^ 60] : List Nat).all
    (fun u => decide (decodeUop u = none)) = true := by decide +kernel

/-- Table 4.1 checks 4 to 7: unassigned opcodes, reserved bits, excluded values, and the guard field 1_0000 are refused, each by its name. -/
theorem test_decode_refuses : ([(rr 0 0x20 0 0 0 0, .unassigned), (rr 1 0x33 0 0 0 0, .unassigned), (qf 3 0x06 0 0 0 0, .unassigned),
    (yb 0x13 0, .unassigned), (ri 7 0x0C 0 0 0, .unassigned), (rr 0 0x02 1 2 3 1, .reserved), (rr 0 0x1C 8 1 2 0, .reserved),
    (rr 0 0x0E 1 2 3 3, .range), (i17 0x3C 0 6, .range), (v3 0x0D 1 2 0 1 0 0, .range), (v3 0x1B 16 1 2 0 0 0, .reserved),
    (qf 2 0x01 16 0 0 0, .guard), (qf 2 0x05 0 1 2 12, .range), (yg 0x10 0 1 0, .range), (vs 0x2B 1 2 63 1, .range),
    (ri 0 0x1D 5 0 0x0FF, .range)] : List (Nat × DecodeError)).all (fun p => refusedBy p.1 p.2) = true := by decide +kernel

/-! ## Small states -/

def r0 : StreamRef := ⟨⟨.core 0 0, 0⟩, .C⟩
def rA : StreamRef := ⟨⟨.core 0 0, 0⟩, .A⟩
def rS : StreamRef := ⟨⟨.sup, 0⟩, .C⟩

/-- A job whose C stream runs at 0x10000, with a handler at 0x800. -/
def c0 : Ctx := { placeCtx State.reset r0.ctx false with card := { placeCard true with handler := 0x800 } }

/-- Supervisor core 0, its C stream running. -/
def cS : Ctx := placeCtx State.reset rS.ctx true

/-- A context in which a stream is replaced. -/
def upd (c : Ctx) (x : StreamId) (f : Stream → Stream) : Ctx := c.putStream x (f (c.stream x))

/-- An s register of a stream set. -/
def setReg (n : SReg) (v : Word) (t : Stream) : Stream := { t with s := t.s.set n.val v n.isLt }

/-- The module at reset, with one context, in which the word of a stream is executed. -/
def on (r : StreamRef) (c : Ctx) : State := { State.reset with ctxs := [c], cur := some r }

/-- The same, with page tables that map the first 2 MiB. -/
def mapped (r : StreamRef) (c : Ctx) : State := { (placeIn State.reset c).setMem (placeMem State.reset.mem 0) with cur := some r }

theorem issuer_on (r : StreamRef) (c : Ctx) (h : c.id = r.ctx) (k : (c.stream r.st).issued = none) : (on r c).issuer r c := by
  simp [State.issuer, on, State.ctx, h, k]

theorem issuer_mapped (r : StreamRef) (c : Ctx) (h : c.id = r.ctx) (k : (c.stream r.st).issued = none) : (mapped r c).issuer r c := by
  simp [State.issuer, mapped, State.setMem, placeIn, State.ctx, h, k]

/-- What a step leaves. -/
def nextOf (o : Host.Outcome State Fault Refusal) (f : State → Bool) : Bool :=
  match o with
  | .next t => f t
  | .fault _ => false
  | .refused _ => false

/-- A check passes. -/
def Passes {α : Type} (g : Got α) : Prop := ∃ x, g = .ok x

/-- A check that passes, by evaluation. -/
def passes {α : Type} : Got α → Bool
  | .ok _ => true
  | .fail _ _ _ => false
  | .stall => false

theorem passes_iff {α : Type} {g : Got α} (h : passes g = true) : Passes g := by
  cases g <;> first | exact ⟨_, rfl⟩ | cases h

/-! ## A state for the premises of each statement -/

theorem witness_scalarWords : (on r0 c0).issuer r0 c0 ∧ Claims.scalarResult (c0.stream .C) (.add 3 1 2) = some (.s 3, 0, 1) :=
  ⟨issuer_on _ _ rfl rfl, rfl⟩

theorem witness_divides : (on r0 c0).issuer r0 c0 ∧ Claims.divideResult (c0.stream .C) (.divs 3 1 2) = some (3, 1, true) :=
  ⟨issuer_on _ _ rfl rfl, rfl⟩

/-- A result in flight, interlocked or exposed. -/
def flying (d : Due) : Ctx := upd c0 .C fun t => t.fly 0 (.s 3) 7 d

theorem witness_landing :
    (∀ d ∈ [Due.interlocked, Due.at 0, Due.unit 0], (on r0 (flying d)).ctx r0.ctx = some (flying d) ∧
      ((flying d).stream .C).flight.find? (fun g => g.seq == 0) = some ⟨0, .s 3, 7, 0, d, false, false⟩) ∧ (0 : Nat) ≤ (on r0 c0).now := by
  decide +kernel

theorem witness_systemRegisters : (on r0 c0).issuer r0 c0 ∧ (∀ f ∈ (c0.stream .C).flight, f.vector = false) ∧ c0.vxc = none ∧
    Claims.srwValue .round ((c0.stream .C).sreg 1) = some 0 ∧ Claims.srwValue .agebound ((c0.stream .C).sreg 1) = some 64 ∧
    Claims.srwValue .pc 0 = none ∧ r0.ctx.core.isSup = false :=
  ⟨issuer_on _ _ rfl rfl, by decide +kernel⟩

theorem witness_transfers : (on r0 c0).issuer r0 c0 ∧ (c0.stream .C).slots = 0 ∧
    Claims.transferOf (c0.stream .C) (.btrlFalse 5 1 2) = some (1, true, some 5) ∧
    Claims.transferOf (c0.stream .C) (.btr 1 2) = some (1, false, none) :=
  ⟨issuer_on _ _ rfl rfl, by decide +kernel⟩

/-- The last address of the address space. -/
def cTop : Ctx := upd c0 .C fun t => { (setReg 1 0xFFFFFFFFFFFFC t) with pc := 0xFFFFFFFFFFFFC }

theorem witness_branchTargets : (on r0 cTop).issuer r0 cTop ∧
    (0x10000000000000 : Word) = (cTop.stream .C).pc + ((1 : BitVec 17).signExtend 64 <<< 2) ∧
    (0xFFFFFFFFFFFFC : Word) = (cTop.stream .C).sreg 1 + ((0 : BitVec 11).signExtend 64 <<< 2) :=
  ⟨issuer_on _ _ rfl rfl, by decide +kernel⟩

theorem witness_votes : (on r0 c0).issuer r0 c0 ∧ r0.st = .C ∧ (on rA c0).issuer rA c0 ∧ rA.st ≠ .C :=
  ⟨issuer_on _ _ rfl rfl, rfl, issuer_on _ _ rfl rfl, by decide⟩

/-- A stream that waits for cycle 0, which has come. -/
def cLate : Ctx := upd c0 .C fun t => { setReg 1 5 t with run := .waitt 0 }

theorem witness_timeWords : (on r0 cLate).issuer r0 cLate ∧ ((cLate.stream .C).sreg 2).toNat ≤ (readTime (on r0 cLate)).toNat ∧
    (readTime (on r0 cLate)).toNat < ((cLate.stream .C).sreg 1).toNat ∧ (on r0 cLate).ctx r0.ctx = some cLate ∧
    (cLate.stream .C).run = .waitt 0 ∧ (cLate.stream .C).stopped = false ∧ jobRuns cLate = true ∧
    (0 : Word).toNat ≤ (on r0 cLate).hub.tmNow.toNat :=
  ⟨issuer_on _ _ rfl rfl, by decide +kernel⟩

/-- The job in its handler. -/
def cHandler : Ctx := upd c0 .C fun t => { t with mode := true }

theorem witness_trapWord : (on r0 c0).issuer r0 c0 ∧ c0.frozen = false ∧ r0.ctx.core.isSup = false ∧ (c0.stream .C).run.live = true ∧
    (c0.stream .C).stopped = false ∧ (c0.stream .C).mode = false ∧ c0.card.handler ≠ 0 ∧ (on r0 cHandler).issuer r0 cHandler ∧
    cHandler.frozen = false ∧ (cHandler.stream .C).run.live = true ∧ (cHandler.stream .C).mode = true :=
  ⟨issuer_on _ _ rfl rfl, rfl, rfl, rfl, rfl, rfl, by decide, issuer_on _ _ rfl rfl, by decide +kernel⟩

/-! Memory -/

/-- Registers that address mapped memory: s1 = 0x8000, s2 = 0x8010. -/
def cMem : Ctx := upd c0 .C fun t => setReg 1 0x8000 (setReg 2 0x8010 t)

theorem witness_loads :
    let s := Claims.accessState (mapped r0 cMem) r0 cMem
    let w := Claims.accessWho (mapped r0 cMem) r0 cMem
    (mapped r0 cMem).issuer r0 cMem ∧ Claims.plainLoad cMem 0x8008 8 ∧ Claims.plainLoad cMem 0x8000 16 ∧
      Claims.loadForm (.ld 3 1 8) = some (3, 1, 8, 8, false, true) ∧ Claims.addressOf (cMem.stream .C) 1 8 = 0x8008 ∧
      passes (loadVirt s w .load true 0x8008 8) = true ∧ passes (loadVirt s w .load false 0x8000 16) = true :=
  ⟨issuer_mapped _ _ rfl rfl, .inl rfl, .inl rfl, by decide +kernel⟩

theorem witness_stores :
    let s := Claims.accessState (mapped r0 cMem) r0 cMem
    let w := Claims.accessWho (mapped r0 cMem) r0 cMem
    (mapped r0 cMem).issuer r0 cMem ∧ Claims.plainLoad cMem 0x8008 8 ∧ Claims.storeForm (.sd 3 1 8) = some (3, 1, 8, 8, true) ∧
      passes (storeVirt s w .store true 0x8008 (leBytes 8 ((cMem.stream .C).sreg 3).toNat)) = true ∧
      passes (storeVirt s w .store false 0x8000 (leBytes 8 ((cMem.stream .C).sreg 4).toNat ++ leBytes 8 ((cMem.stream .C).sreg 5).toNat)) =
        true :=
  ⟨issuer_mapped _ _ rfl rfl, .inl rfl, by decide +kernel⟩

/-- Do the pieces of a check lie in pages that are no device pages? -/
def plainPieces (g : Got (MemSt × List Piece)) : Bool :=
  match g with
  | .ok r => r.2.all fun p => !p.leaf.dev
  | _ => false

theorem witness_accesses : ∃ m ps, checkAccess (mapped r0 cMem).mem (mapped r0 cMem).hub (mapped r0 cMem).free
    (Claims.accessWho (mapped r0 cMem) r0 cMem) .store false 0x8FFC [0x12#8, 0x34#8].length = .ok (m, ps) ∧ ∀ p ∈ ps, p.leaf.dev = false := by
  have h : plainPieces (checkAccess (mapped r0 cMem).mem (mapped r0 cMem).hub (mapped r0 cMem).free
    (Claims.accessWho (mapped r0 cMem) r0 cMem) .store false 0x8FFC [0x12#8, 0x34#8].length) = true := by decide +kernel
  revert h
  cases checkAccess (mapped r0 cMem).mem (mapped r0 cMem).hub (mapped r0 cMem).free
    (Claims.accessWho (mapped r0 cMem) r0 cMem) .store false 0x8FFC [0x12#8, 0x34#8].length with
  | ok r => intro h; exact ⟨r.1, r.2, rfl, by simpa [plainPieces] using h⟩
  | fail a b c => intro h; cases h
  | stall => intro h; cases h

theorem witness_misaligned : (1 : Nat) % 8 ≠ 0 ∧ ¬(0 : Nat) % 8 ≠ 0 := by decide

/-- A piece of two bytes: in a page shared by the module, or in a die-private one, held in both cache levels or in none. -/
def piece2 (coh : Bool) (cache : Nat) : Piece :=
  ⟨0x8000, 2, ⟨false, true, true, 0, false, false, false, 0, coh, false, cache, 4096⟩, 0x8000, 0, (0, 0)⟩

theorem witness_writtenBytes : Memory.wf State.reset.mem.hbm = true ∧ [0x12#8, 0x34#8].length = (piece2 true 0).len ∧
    (piece2 true 0).leaf.direct = true ∧ (piece2 false 2).leaf.direct = true ∧ (piece2 false 0).leaf.direct = false ∧
    (piece2 false 0).leaf.through = false ∧ (Claims.accessWho (mapped r0 cMem) r0 cMem).die = some 0 ∧ (1 : Die) ≠ 0 ∧
    (∀ x ∈ State.reset.mem.dieLines, x.bytes.length = 128) := by decide +kernel

theorem witness_atomics :
    let s := Claims.accessState (mapped r0 cMem) r0 cMem
    let w := Claims.accessWho (mapped r0 cMem) r0 cMem
    (mapped r0 cMem).issuer r0 cMem ∧ (∃ f, Claims.atomicForm (cMem.stream .C) (.amod 9 1 11 .add) = some (1, 9, 8, f, false)) ∧
      Claims.plainLoad cMem 0x8000 16 ∧ ((cMem.stream .C).sreg 1).toNat = 0x8000 ∧
      passes (atomicVirt s w 0x8000 8 fun b => (some (amoValue .add 8 (leValue b) 0)).map (leBytes 8)) = true ∧
      passes (atomicVirt s w 0x8000 16 fun o => if leValue o = 0 then some (leBytes 16 5) else none) = true :=
  ⟨issuer_mapped _ _ rfl rfl, ⟨_, rfl⟩, .inl rfl, by decide +kernel⟩

/-- Do the pieces of an atomic pair lie in a page that it may use? -/
theorem witness_atomicPieces : passes (checkAccess (mapped r0 cMem).mem (mapped r0 cMem).hub (mapped r0 cMem).free
    { Claims.accessWho (mapped r0 cMem) r0 cMem with
      clk := Clock.join (Claims.accessWho (mapped r0 cMem) r0 cMem).clk <| atomAcquire (mapped r0 cMem) (Claims.accessWho (mapped r0 cMem) r0 cMem) 0x8000 8 } .atomic false 0x8000 8) = true := by decide +kernel

/-- Two loads, the second in the state that the first leaves. -/
def loads2 (s : State) (w : Who) (a b : Nat) : Bool :=
  match loadVirt s w .load false a 4 with
  | .ok r => leValue r.1 == 0 && passes (loadVirt r.2 w .load false b 4)
  | _ => false

theorem witness_jumpTables : (mapped r0 cMem).issuer r0 cMem ∧ ((cMem.stream .C).sreg 1).toNat % 4 = 0 ∧
    loads2 (Claims.accessState (mapped r0 cMem) r0 cMem) (Claims.accessWho (mapped r0 cMem) r0 cMem) 0x8000 0x8004 = true :=
  ⟨issuer_mapped _ _ rfl rfl, by decide +kernel⟩

/-! Exceptions -/

theorem witness_trapEnters : (on r0 c0).ctx r0.ctx = some c0 ∧ c0.frozen = false ∧ r0.ctx.core.isSup = false ∧ (c0.stream .C).mode = false ∧
    c0.card.handler ≠ 0 ∧ (c0.stream .C).run.live = true ∧ (c0.stream .C).stopped = false :=
  ⟨(issuer_on _ _ rfl rfl).2.1, by decide +kernel⟩

theorem witness_trapsGoUp : (on r0 cHandler).ctx r0.ctx = some cHandler ∧ cHandler.frozen = false ∧ (cHandler.stream .C).mode = true ∧
    (on rS cS).ctx rS.ctx = some cS ∧ cS.frozen = false ∧ rS.ctx.core.isSup = true ∧ cS.untaken = false ∧ (cS.stream .C).run.live = true ∧
    (cS.stream .C).stopped = false ∧ { cS with untaken := true }.untaken = true :=
  ⟨(issuer_on _ _ rfl rfl).2.1, rfl, rfl, (issuer_on _ _ rfl rfl).2.1, by decide +kernel⟩

/-- A handler about to return into a taken transfer with one delay slot left. -/
def cBack : Ctx := upd (upd c0 .C fun t => { t with mode := true, ebr := 0xA000000000010000 }) .L fun t => { t with run := .run, stopped := true }

theorem witness_eret : (on r0 cBack).issuer r0 cBack ∧ (cBack.stream .C).mode = true ∧ badResume cBack = false ∧
    (cBack.stream .C).ebr.getLsbD 63 = true ∧ (cBack.stream .L).stopped = true ∧ (cHandler.stream .C).ebr.getLsbD 63 = false ∧
    badResume cHandler = false :=
  ⟨issuer_on _ _ rfl rfl, by decide +kernel⟩

theorem witness_places : (on r0 c0).issuer r0 c0 ∧ (Instr.halt 0).engine = 7 ∧ (c0.stream .C).mode = false ∧ (on rA c0).issuer rA c0 ∧
    (on r0 cHandler).issuer r0 cHandler ∧ (cHandler.stream .C).mode = true ∧ (Instr.halt 0).handlerWord = false ∧
    (Instr.vfence).engine = 1 ∧ (Instr.fft .always 1 2 3).engine = 2 ∧ wrongCore r0.ctx.core (.fft .always 1 2 3) = true :=
  ⟨issuer_on _ _ rfl rfl, rfl, rfl, issuer_on _ _ rfl rfl, issuer_on _ _ rfl rfl, by decide +kernel⟩

/-! Vector unit -/

theorem witness_elementwise : (on r0 c0).issuer r0 c0 ∧ r0.st = .C ∧
    (∃ f, Claims.elementRule (c0.stream .C) (.vadd 3 1 2 .B 0 false) = some (3, 1, 2, .B, 0, false, f)) :=
  ⟨issuer_on _ _ rfl rfl, rfl, ⟨_, rfl⟩⟩

theorem witness_compares : (on r0 c0).issuer r0 c0 ∧ r0.st = .C ∧
    (∃ f, Claims.compareRule (.vcmplt 3 1 2 .D 0) = some (3, 1, 2, .D, 0, f)) ∧ Claims.predicateRule c0 (.vpnot 3 1) = some (3, ~~~ c0.preg 1) :=
  ⟨issuer_on _ _ rfl rfl, rfl, ⟨_, rfl⟩, rfl⟩

theorem witness_laneWords : (on r0 c0).issuer r0 c0 ∧ r0.st = .C ∧
    Claims.foldRule (.vredmin 3 1 .I 0 true) = some (3, 1, .I, 0, true, .min) := ⟨issuer_on _ _ rfl rfl, rfl, rfl⟩

/-- A tile handle 9 of two rows and a cell handle 8 of four, a chain handle 10, and addressing registers. -/
def tile9 : Handle := ⟨9, .tile, false, 2, 64, 256, 1, [], 3, 10, [], none, []⟩
def cell8 : Handle := ⟨8, .cell, false, 4, 16, 16, 1, [], 3, 0, [], none, []⟩
def chain10 : Handle := ⟨10, .chain, false, 2, 32, 32, 1, [], 3, 0, [], none, []⟩
def cTile : Ctx := { cMem with handles := [tile9, cell8, chain10] }
/-- s3 names row 1 of a handle, from its first element. -/
def cRow : Ctx := upd cTile .C (setReg 3 1)

theorem witness_handleRows : (on r0 cRow).issuer r0 cRow ∧ cRow.handle 9 = some tile9 ∧ tile9.kind = .tile ∧
    ((cRow.stream .C).sreg 3).toNat % 2 ^ 16 < tile9.rows ∧ isBx (handleFmt (on r0 cRow) cRow tile9) = false ∧
    bitsN ((cRow.stream .C).sreg 3).toNat 47 32 % 4 = 0 ∧
    rowBusy ((on r0 cRow).placed r0 cRow) ((on r0 cRow).place r0) 9 1 false = false ∧
    rowBusy ((on r0 cRow).placed r0 cRow) ((on r0 cRow).place r0) 9 1 true = false :=
  ⟨issuer_on _ _ rfl rfl, by decide +kernel⟩

theorem witness_vectorMemory :
    let s := mapped r0 cMem
    let w := Claims.accessWho s r0 cMem
    s.issuer r0 cMem ∧ (∀ e ∈ vruns (cMem.preg 0) 0x8000, Claims.plainLoad cMem e.1 e.2) ∧
      ((cMem.stream .C).sreg 1 + ((0 : BitVec 8).signExtend 64 <<< 8)).toNat = 0x8000 ∧
      passes (checkRuns s.mem s.hub s.free w .load (vruns (cMem.preg 0) 0x8000)) = true ∧
      passes (checkRuns s.mem s.hub s.free w .store (vruns (cMem.preg 0) 0x8000)) = true :=
  ⟨issuer_mapped _ _ rfl rfl, fun _ _ => .inl rfl, by decide +kernel⟩

/-- The command registers of a `VXC`: kind 1 in s4 with its base in s1, kind 2 and 4 on handle 9 in s5 and s6. -/
def cVxc : Ctx := { upd cTile .C fun t => setReg 4 (1 + 1 * 2 ^ 15) (setReg 5 (2 + 9 * 2 ^ 30) (setReg 6 (4 + 9 * 2 ^ 30) t)) with
  p := c0.p.set 1 1 }

/-- The checked places of a scatter are plain. -/
def plainElems (g : Got (MemSt × List VElem)) : Bool :=
  match g with
  | .ok r => decide (invElems 4 r.2 = []) && decide ((plainPlaces r.2).length = 1)
  | _ => false

/-- A command is one that a kind admits, and its handle and row are there. -/
def vxcOn (kind : Nat) (lo hi : Word) (f : VxcCmd → Bool) : Bool :=
  match vxcCmd kind lo.toNat hi.toNat with
  | some c => f c
  | none => false

theorem witness_vxc :
    let s := mapped r0 cVxc
    let u := Claims.accessState s r0 cVxc
    let lo (n : SReg) := (cVxc.stream .C).sreg n
    s.issuer r0 cVxc ∧ cVxc.vxc = none ∧ Claims.vxcKind (.vxcScatter 4 1) = some (1, 4, 1) ∧
    vxcOn 1 (lo 4) (lo 1) (fun cmd => plainElems (checkElems u (s.here r0 cVxc) (whoVxc u (s.placed r0 cVxc)) cmd true s.mem
      (vactives (cVxc.preg cmd.pred) cmd.width))) = true ∧
    vxcOn 2 (lo 5) (lo 0) (fun cmd => decide (cmd.h = 9) && decide (cmd.row < 2) &&
      passes (handlePlaces cmd tile9 (cVxc.vreg cmd.vi) (vactives (cVxc.preg cmd.pred) cmd.width)) &&
      !handleBusy (s.placed r0 cVxc) (s.place r0) cmd.h false) = true ∧
    vxcOn 4 (lo 6) (lo 0) (fun cmd => decide (cmd.h = 9) && decide (3 * cmd.nseg ≤ tile9.cols)) = true ∧
    cVxc.handle 9 = some tile9 ∧ handleFmt s cVxc tile9 = 10 :=
  ⟨issuer_mapped _ _ rfl rfl, by decide +kernel⟩

/-- A `VXC` of a kind on handle 9 in its data phase. -/
def vxc9 (kind : Fin 5) : VxcSt := ⟨kind, 3, false, false, 0, 0, 9, 1, 0, 0, [], none, 0, 0, 0, 0⟩
def cPhase (kind : Fin 5) : Ctx := { cTile with vxc := some (vxc9 kind) }
/-- Two words held or about to issue behind a `VXC`, and behind a V word that has not completed. -/
def cBehind : Ctx := upd cTile .C fun t => t.flyFlags 0 (.v 3) 0 0 (.unit 4)

theorem witness_vxcDataPhase : (∀ k : Fin 5, (on r0 (cPhase k)).ctx r0.ctx = some (cPhase k) ∧ (cPhase k).vxc = some (vxc9 k) ∧
      passes (vxcReady (on r0 (cPhase k)) (cPhase k) (vxc9 k)) = true) ∧ cTile.handle 9 = some tile9 ∧
    (on r0 (cPhase 0)).issuer r0 (cPhase 0) ∧ ((cPhase 0).stream .C).run = .run ∧ (on r0 cBehind).issuer r0 cBehind ∧
    (∃ f ∈ (cBehind.stream .C).flight, f.vector = true) := by
  refine ⟨by decide +kernel, by decide +kernel, issuer_on _ _ rfl rfl, rfl, issuer_on _ _ rfl rfl, ?_⟩
  decide +kernel

/-! Queues, handles and synchronisation -/

/-- A command of the A queue. -/
def aCmd (n : Nat) : Cmd := ⟨n, .A, .lacq .always, 0, .C, 0, [], [], 0, 0, [], .queued, []⟩

theorem witness_queueWords : (on r0 cRow).issuer r0 cRow ∧ Claims.queueForm (.drainm .always 10 3 0) = some (.A, some (10, .chain), some 3) ∧
    cRow.handle 10 = some chain10 ∧ chain10.kind = .chain ∧ chainBusy cRow ((on r0 cRow).place r0) 10 = false ∧ cRow.card.arr = true ∧
    wrongCore r0.ctx.core (.drainm .always 10 3 0) = false ∧ queueFull cRow .A = false ∧
    queueFull { cRow with cmds := (List.range 64).map aCmd } .A = true ∧ (cRow.stream .C).run = .run ∧
    ((cRow.stream .C).sreg 3).toNat < chain10.rows ∧
    chainBusy { cRow with cmds := [{ aCmd 0 with writes := [⟨10, 0, 0⟩] }] } 1 10 = true ∧
    Claims.statusForm (.stats .always 31 5 15) = some (.s 5) :=
  ⟨issuer_on _ _ rfl rfl, rfl, by decide +kernel⟩
/-- s4 holds the descriptor of an `f32` tile of two rows of 64; s5 the same of level L2; s6 a bank-format value; s7 = 2; s8 = 1. -/
def cAlloc : Ctx :=
  { upd cTile .C fun t => setReg 4 (10 * 2 ^ 44 + 2 ^ 16 + 64) (setReg 5 (10 * 2 ^ 44 + 2 ^ 37 + 2 ^ 16 + 64) (setReg 6 (10 * 2 ^ 44)
      (setReg 7 2 (setReg 8 1 t)))) with
    card := { c0.card with anc := [(0, 100)] } }

def descOn (v : Word) (f : HDesc → Bool) : Bool :=
  match hdesc v.toNat with
  | some d => f d
  | none => false

def coreOn (s : State) (x : CoreId) (f : CoreSt → Bool) : Bool :=
  match s.core x with
  | some k => f k
  | none => false

/-- A command that uses handle 9. -/
def cUses : Ctx := { cAlloc with cmds := [{ aCmd 0 with reads := [⟨9, 0, 0⟩] }], order := 1 }

theorem witness_handles : (on r0 cAlloc).issuer r0 cAlloc ∧ cAlloc.handle 20 = none ∧
    descOn ((cAlloc.stream .C).sreg 4) (fun d => !d.l2 && coreOn (on r0 cAlloc) r0.ctx.core fun k =>
      decide (((freeBanks (on r0 cAlloc) k).take d.units).length = d.units)) = true ∧
    descOn ((cAlloc.stream .C).sreg 5) (fun d => d.l2 &&
      l2Fits (Claims.accessState (on r0 cAlloc) r0 cAlloc) ((on r0 cAlloc).placed r0 cAlloc) d.units) = true ∧
    cAlloc.handle 9 = some tile9 ∧ waiting cAlloc (fun x _ => decide (x = 9)) = false ∧ handleInUse cAlloc ((on r0 cAlloc).place r0) 9 = false ∧
    ((cAlloc.stream .C).sreg 6).toNat / 2 ^ 48 = 0 ∧ ((cAlloc.stream .C).sreg 6).toNat % 2 ^ 40 = 0 ∧
    ((cAlloc.stream .C).sreg 6).toNat / 2 ^ 44 % 16 = 10 ∧ ((cAlloc.stream .C).sreg 6).toNat / 2 ^ 40 % 16 = 0 ∧
    rowBytes 10 tile9.cols ≤ tile9.pitch ∧ cUses.handle 9 = some tile9 ∧ waiting cUses (fun x _ => decide (x = 9)) = false ∧
    (∃ d ∈ cUses.cmds, d.seq < (on r0 cUses).place r0 ∧ ∃ x ∈ d.reads ++ d.writes, x.h = 9) ∧ (cUses.stream .C).run = .run :=
  ⟨issuer_on _ _ rfl rfl, by decide +kernel⟩

/-- Cells: row 0 fresh, row 1 with one arrival of one still to come; rings: row 2 of two slots, empty, row 3 of two with one claimed and one filled. -/
def cells8 : Handle := ((cell8.store 1 0 (leBytes 16 (mkCell 0 1 1))).store 2 0 (leBytes 16 (ringVal ⟨2, 0, 0, 0, 0, 0⟩))).store 3 0
  (leBytes 16 (ringVal ⟨2, 1, 1, 0, 0, 0⟩))
def cCells : Ctx := { cAlloc with handles := [cells8] }
/-- The same, an arrival having reached row 1 in this cycle. -/
def now8 : CellNow := ⟨8, 1, 0, 2, 2, 0, 1, [], []⟩
def cReached : Ctx := { cCells with cellNow := [now8] }

theorem witness_phaseCells : (on r0 cCells).issuer r0 cCells ∧ (on r0 cReached).issuer r0 cReached ∧ Claims.untouched cCells 8 0 ∧
    Memory.wf cells8.data = true ∧ cCells.handle 8 = some cells8 ∧ cells8.kind = .cell ∧
    1 < cells8.rows ∧ cellPend (cellRow cells8 0) = cellExpect (cellRow cells8 0) ∧
    waiting cCells (fun a b => decide (a = 8) && b == 0) = false ∧ ((cCells.stream .C).sreg 7).toNat = 2 ∧
    cellPend (cellRow cells8 1) ≠ 0 ∧ cellPend (cellRow cells8 0) = 0 ∧ cellRow cells8 0 % 2 ≠ 1 ∧ cellRow cells8 0 % 2 = 0 ∧
    (cCells.stream .C).run = .run ∧ cReached.cellNow.find? (fun k => decide (k.h = 8) && k.row == 1) = some now8 ∧ now8.pend ≠ 0 :=
  ⟨issuer_on _ _ rfl rfl, issuer_on _ _ rfl rfl, by simp [Claims.untouched, cCells, cAlloc, upd, cTile, cMem, c0, placeCtx, Ctx.reset, Ctx.putStream],
    by decide +kernel⟩

theorem witness_rings : (on r0 cCells).issuer r0 cCells ∧ 3 < cells8.rows ∧
    (ringOf (cellRow cells8 2)).n ≠ 0 ∧ (ringOf (cellRow cells8 2)).n - (ringOf (cellRow cells8 2)).cl - (ringOf (cellRow cells8 2)).fl ≠ 0 ∧
    (ringOf (cellRow cells8 2)).fl = 0 ∧ 2 ≤ (ringOf (cellRow cells8 2)).n - (ringOf (cellRow cells8 2)).cl - (ringOf (cellRow cells8 2)).fl ∧
    (ringOf (cellRow cells8 3)).n - (ringOf (cellRow cells8 3)).cl - (ringOf (cellRow cells8 3)).fl = 0 ∧
    (ringOf (cellRow cells8 3)).claimed ((cCells.stream .C).sreg 8).toNat = true ∧ 1 ≤ (ringOf (cellRow cells8 3)).fl ∧
    ((cCells.stream .C).sreg 0).toNat = (ringOf (cellRow cells8 3)).rd ∧
    waiting cCells (fun a b => decide (a = 8) && b == 2) = false ∧ 1 ≤ ((cCells.stream .C).sreg 7).toNat ∧ ((cCells.stream .C).sreg 7).toNat ≤ 64 ∧
    (ringOf (cellRow cells8 3)).n - (ringOf (cellRow cells8 3)).cl - (ringOf (cellRow cells8 3)).fl < 1 ∧ (ringOf (cellRow cells8 2)).fl < 1 ∧
    (ringOf (cellRow cells8 2)).n < 3 ∧ (cCells.stream .C).run = .run :=
  ⟨issuer_on _ _ rfl rfl, by decide +kernel⟩

/-- Tag 0 of die 0, with one arrival to come; phase 0 has completed, and its completion is due. -/
def tag0 : TagSt := ⟨0, some 0, [r0.ctx.core], 0, 1, 1, 1, [(0, 0)], 0, [], []⟩
/-- The same, with a drop and an arrival of this cycle. -/
def tagEvs : TagSt := { tag0 with expect := 2, pend := 2, evs := [(r0, 0, true, []), (rA, 0, false, [])] }
def cTag : Ctx := { c0 with tagView := c0.tagView.set 0 ⟨some 0, false⟩ }
def barrHold (n : Nat) : Hold := ⟨.barr 0, 0, n, some (c0.stream .C).s⟩
def cJoin : Ctx := { upd c0 .C fun t => { t with joined := [(t.pc, 0)], wdog := 0, run := .held (barrHold 0) } with
  tagView := c0.tagView.set 0 ⟨some 0, false⟩ }
def onTag (c : Ctx) (n : Nat) : State := { on r0 c with tags := [{ tag0 with reached := n }] }

theorem witness_tags : (onTag cTag 0).issuer r0 cTag ∧ (onTag cJoin 1).holder r0 cJoin 0 (c0.stream .C).s ∧
    tagOf (onTag cTag 0) 0 r0.ctx.core = some tag0 ∧
    cTag.card.owned.getLsbD 0 = true ∧ r0.ctx.core ∈ tag0.members ∧ (cTag.tagV 0).last ≠ some tag0.phase ∧
    (cTag.stream .C).joined = [] ∧ (cTag.tagV 0).last = some 0 ∧ (cTag.tagV 0).returned = false ∧ tag0.reached ≤ 0 ∧ tag0.reached ≤ tag0.phase ∧
    tagOf (onTag cTag 1) 0 r0.ctx.core = some { tag0 with reached := 1 } ∧ (cTag.stream .C).run = .run ∧
    tagOf (onTag cJoin 1) 0 r0.ctx.core = some { tag0 with reached := 1 } ∧ (cJoin.stream .C).joined = [((cJoin.stream .C).pc, 0)] ∧
    (onTag cTag 0).tags.find? (fun y => decide (y.tag = 0) && decide (y.die = some 0)) = some tag0 ∧ tag0.coming = [(0, 0)] ∧
    (onTag cJoin 0).ctx r0.ctx = some cJoin ∧ (cJoin.stream .C).run = .held (barrHold 0) ∧ (cJoin.stream .C).stopped = false ∧
    cJoin.frozen = false ∧ cJoin.atSup = false ∧ (cJoin.stream .C).wdog ≤ (onTag cJoin 0).now ∧ tagEvs.evs ≠ [] ∧
    [tagEvs].Pairwise (fun x y => x.tag ≠ y.tag ∨ x.die ≠ y.die) :=
  ⟨⟨rfl, rfl, rfl⟩, ⟨rfl, rfl, rfl⟩, by decide +kernel⟩

/-- A command guarded by slot 14. -/
def guarded : Cmd := { aCmd 0 with word := .lacq (.onTrue 14) }

theorem witness_guardSlots : (on r0 c0).issuer r0 c0 ∧ c0.g.get 14 = none ∧
    { c0 with g := c0.g.set 14 (some true) }.g.get 14 = some true ∧ (∀ d ∈ c0.cmds, Guard.slot (Instr.guard d.word) ≠ some 14) ∧
    Guard.slot (Instr.guard guarded.word) = some 14 ∧ (c0.stream .C).run = .run :=
  ⟨issuer_on _ _ rfl rfl, by decide +kernel⟩

/-- A job whose L stream runs, and that has a command of the HBM path. -/
def cBusy : Ctx := { upd c0 .L fun t => { t with run := .run } with cmds := [{ aCmd 0 with paths := 1 }], order := 1 }

theorem witness_streams : (on r0 c0).issuer r0 c0 ∧ (on rA c0).issuer rA c0 ∧ (on r0 cBusy).issuer r0 cBusy ∧
    (∀ i, i ≠ StreamId.C → (c0.stream i).run = .off ∨ (c0.stream i).run = .parked) ∧ ¬Claims.pathBusy (on r0 c0) r0.ctx.core .fabric 0 ∧
    (∃ p, Claims.pathBusy (on r0 cBusy) r0.ctx.core p ((on r0 cBusy).place r0)) ∧
    forkStream .a ≠ r0.st ∧ forkStream .a = rA.st ∧ (c0.stream (forkStream .a)).run = .off ∧
    rA.st ≠ .C ∧ c0.cmds = [] ∧ c0.vxc = none ∧ r0.ctx.core.isSup = false ∧ (cBusy.stream .L).run ≠ .off ∧ (cBusy.stream .L).run ≠ .parked ∧
    (cBusy.stream .C).run = .run ∧ cBusy.cmds ≠ [] := by
  refine ⟨issuer_on _ _ rfl rfl, issuer_on _ _ rfl rfl, issuer_on _ _ rfl rfl, ?_, ?_, ?_, by decide +kernel⟩
  · intro i; cases i <;> first | (intro h; exact absurd rfl h) | (intro _; exact .inl rfl)
  · rintro (⟨y, hy, -, d, hd, -⟩ | ⟨-, o, ho, -⟩)
    · have : y = c0 := by simpa [on] using hy
      rw [this] at hd; exact absurd hd List.not_mem_nil
    · exact absurd ho List.not_mem_nil
  · exact ⟨.scratch, .inl ⟨cBusy, List.mem_singleton.mpr rfl, rfl, _, List.mem_singleton.mpr rfl, by decide +kernel, by decide +kernel,
      fun h => by cases h⟩⟩

/-! Adjoint mode and the tensor table -/

/-- s4 names one page at 0x100000 of type 2; s5 = 16, s6 = 17. -/
def cAdj : Ctx := upd c0 .C fun t => setReg 4 (2 * 2 ^ 56 + 0x100) (setReg 5 16 (setReg 6 17 t))

/-- The mapped page is marked differentiable (bit 48 of its leaf). -/
def diffMapped (r : StreamRef) (c : Ctx) : State :=
  let s := mapped r c
  s.setMem (hbmSets s.mem (hubKey s.mem) 0x4000 (leBytes 8 (2 ^ 62 + 2 ^ 61 + 2 ^ 48 + 2 ^ 11 + 2 * 4 + 3)))

theorem issuer_diff (r : StreamRef) (c : Ctx) (h : c.id = r.ctx) (k : (c.stream r.st).issued = none) :
    (diffMapped r c).issuer r c := by
  simp [State.issuer, diffMapped, mapped, State.setMem, placeIn, State.ctx, h, k]

theorem witness_adjoint : (diffMapped r0 cAdj).issuer r0 cAdj ∧ ((cAdj.stream .C).sreg 4).toNat / 2 ^ 58 = 0 ∧
    ((cAdj.stream .C).sreg 4).toNat / 2 ^ 56 % 4 ≠ 3 ∧ cAdj.dmode = 0 ∧ ((cAdj.stream .C).sreg 4).toNat % 2 ^ 40 * 4096 = 0x100000 ∧
    cAdj.dregs = [] ∧ 0x100000 + 4096 ≤ 2 ^ 49 ∧
    passes (checkDregPages (Claims.accessState (diffMapped r0 cAdj) r0 cAdj) (Claims.accessWho (diffMapped r0 cAdj) r0 cAdj) 0x100000 1) = true ∧
    ((cAdj.stream .C).sreg 5).toNat % 16 = 0 ∧ ((cAdj.stream .C).sreg 6).toNat % 16 = 1 ∧ cAdj.cmds = [] ∧ cAdj.vxc = none ∧
    (∀ f ∈ (cAdj.stream .C).flight, f.vector = false) ∧ (cAdj.stream .C).run = .run :=
  ⟨issuer_diff _ _ rfl rfl, by decide +kernel⟩

/-- A job in record mode with a copy out of a D-region of type 1 still to be made. -/
def cRecord : Ctx := { cTile with dmode := 1, dregs := [⟨0, 0x100000, 1, 1⟩], cmds := [{ aCmd 0 with word := .copyo .always 10 0, q := .S }], order := 1 }

theorem witness_treadWaits : (on r0 cRecord).issuer r0 cRecord ∧ cRecord.dmode = 1 ∧ (cRecord.stream .C).mode = false ∧
    (∃ d ∈ cRecord.cmds, d.seq < (on r0 cRecord).place r0) :=
  ⟨issuer_on _ _ rfl rfl, by decide +kernel⟩

/-- A job with a tensor table of one entry at 0x8000; s4 names the header, s5 entry 0. -/
def cTable : Ctx := { upd c0 .C (fun t => setReg 4 0x1000 t) with card := { c0.card with tt := 0x8000 } }

/-- A chain of checks and accesses passes. -/
def stepsOn (f g h : State → Got State) (s : State) : Bool :=
  match f s with
  | .ok t => (match g t with
    | .ok u => passes (h u)
    | _ => false)
  | _ => false

theorem witness_tensorTable :
    let s := mapped r0 cTable
    let u := Claims.accessState s r0 cTable
    let p := s.placed r0 cTable
    let w := Claims.accessWho s r0 cTable
    s.issuer r0 cTable ∧ ((cTable.stream .C).sreg 4).toNat = 2 ^ 12 ∧ ((cTable.stream .C).sreg 5).toNat = 0 ∧
      stepsOn (fun t => tableCheck t p w .load 0 none) (fun t => .ok t) (fun t => (loadVirt t w .load false cTable.card.tt.toNat 8).bind fun q => .ok q.2) u = true ∧
      stepsOn (fun t => tableCheck t p w .load 0 (some 0)) (fun t => .ok t) (fun t => (loadVirt t w .load false (entryFields cTable 0) 52).bind fun q => .ok q.2) u = true ∧
      stepsOn (fun t => scaleChecks t p w true 0 0 1) (fun t => entryUpdates t p w true teStep 0 1) (fun t => headerCount t p w 0) u = true ∧
      (∀ d ∈ cTable.cmds, isCapture d.word = false) ∧ isCapture (.copya .always 10 0) = true :=
  ⟨issuer_mapped _ _ rfl rfl, by decide +kernel⟩

/-! System words -/

def stopped (c : Ctx) : Ctx := upd c .L fun t => { t with stopped := true }
/-- s1 names the own job's L stream; s2 the job of core 0 of die 0, its C stream; s3 = 0x8000. -/
def cSel : Ctx := upd (upd cBack .C fun t => setReg 1 (2 ^ 63 + 3) t) .L fun t => { t with stopped := true }
def cSup : Ctx := upd cS .C fun t => setReg 2 0 (setReg 1 1 (setReg 3 0x8000 t))
def both (c : Ctx) : State := { on rS cSup with ctxs := [cSup, c] }

theorem witness_systemRegistersOfStopped : (on r0 cSel).issuer r0 cSel ∧ (cSel.stream .C).mode = true ∧ (0 : SReg) = 0 ∧
    ((cSel.stream .C).sreg 1).toNat = 2 ^ 63 + streamEng .L ∧ (cSel.stream .L).stopped = true ∧
    Claims.supIssuer (both { c0 with atSup := true }) rS cSup ∧ ((cSup.stream .C).sreg 2).toNat = streamEng .C ∧
    (both { c0 with atSup := true }).ctx ⟨.core 0 0, 0⟩ = some { c0 with atSup := true } ∧ jobRuns { c0 with atSup := true } = false ∧
    (both c0).ctx ⟨.core 0 0, 0⟩ = some c0 ∧ jobRuns c0 = true :=
  ⟨issuer_on _ _ rfl rfl, rfl, rfl, by decide +kernel, by decide +kernel, ⟨⟨rfl, by decide +kernel, rfl⟩, rfl, rfl, rfl⟩, by decide +kernel⟩

/-- A module in which mailbox 5 has a message. -/
def mailed : State :=
  let s := mapped rS cSup
  s.setHub { s.hub with mail := s.hub.mail.set 5 ⟨[1], true, 1, 7⟩ }

theorem witness_systemWords :
    let s := mapped rS cSup
    Claims.supIssuer s rS cSup ∧ Claims.supIssuer mailed rS cSup ∧ ((cSup.stream .C).sreg 3).toNat % 4096 = 0 ∧
    passes (loadVirt (Claims.accessState s rS cSup) (Claims.accessWho s rS cSup) .load false 0x8000 80) = true ∧
    (s.hub.mail.get 5).new = false ∧ (mailed.hub.mail.get 5).new = true ∧
    passes (storeVirt (Claims.accessState mailed rS cSup) (Claims.accessWho mailed rS cSup) .store false 0x8000
      (fillBytes 4096 (mailed.hub.mail.get 5).buf)) = true ∧
    (∀ x ∈ s.ctxs, x.id.core = gCore 255 → macroOf x = none) ∧ (cSup.stream .C).run = .run :=
  ⟨⟨issuer_mapped _ _ rfl rfl, rfl, rfl, rfl⟩, ⟨issuer_mapped _ _ rfl rfl, rfl, rfl, rfl⟩, by decide +kernel⟩

/-- The microcode image of `MCLOAD`, 128 KiB, can be read: the check of its pages passes. -/
theorem witness_microcode : Passes (checkAccess (Claims.accessState (mapped rS cSup) rS cSup).mem (mapped rS cSup).hub (mapped rS cSup).free
    (Claims.accessWho (mapped rS cSup) rS cSup) .load false 0x8000 131072) ∧ ((mapped rS cSup).core (gCore 255)).isSome = true :=
  ⟨passes_iff (by decide +kernel), by decide +kernel⟩

/-! Graphs and gangs -/

/-- Bytes put into memory, under key index 0. -/
def withBytes (s : State) (pa n v : Nat) : State := s.setMem (hbmSets s.mem (hubKey s.mem) pa (leBytes n v))

/-- A module with a region table at 0xA000 whose region 0 is valid, and a graph descriptor of one step and one node at 0x8000. -/
def graphed : State :=
  let s := mapped rS cSup
  let t := withBytes (withBytes s 0xA000 64 (2 ^ 3 * 2 ^ 256 + 2 ^ 192)) 0x8000 16 (2 ^ 92 + 0x8100)
  t.setHub { t.hub with rcbase := 0xA000 }

def graph0 (st : Fin 6) : Graph :=
  ⟨0x8000, 0, 0, 1, [], [BitVec.ofNat 2048 (2 * 2 ^ 1302)], [[]], st, false, 0, [], [(0, 0)], [], [], []⟩
def graphedIn (st : Fin 6) : State := { graphed with graphs := [graph0 st] }

theorem issuer_graphed : Claims.supIssuer graphed rS cSup := by
  refine ⟨?_, rfl, rfl, rfl⟩
  simp [State.issuer, graphed, withBytes, mapped, State.setMem, State.setHub, placeIn, State.ctx]
  exact ⟨rfl, rfl⟩

def loadsWith (g : Got (Nat × State)) (e : Nat) : Bool :=
  match g with
  | .ok r => r.1 == e
  | _ => false

/-- A job of the graph, which runs. -/
def cGraph : Ctx := { c0 with card := { c0.card with graph := 0x8000 } }
def graphRuns (st : Fin 6) : State := { graphedIn st with ctxs := [cSup, cGraph] }

theorem witness_graphWords : Claims.supIssuer graphed rS cSup ∧ ((cSup.stream .C).sreg 3).toNat = 0x8000 ∧ graphState graphed 0x8000 = 0 ∧
    tableReady graphed = true ∧
    loadsWith (loadGraph (Claims.accessState graphed rS cSup) (Claims.accessWho graphed rS cSup) 0x8000) 0 = true ∧
    (∀ st, graphAt (graphedIn st) 0x8000 = some (graph0 st)) ∧ (∀ st, graphAt (graphRuns st) 0x8000 = some (graph0 st)) ∧
    (∀ x ∈ (graphedIn 2).ctxs, x.id.core.isSup = false → x.card.graph = 0x8000 → jobRuns x = false) ∧
    (∃ x ∈ (graphRuns 2).ctxs, x.id.core.isSup = false ∧ x.card.graph = 0x8000 ∧ jobRuns x = true) ∧ gangReadable (graphedIn 1) = true ∧ (cSup.stream .C).run = .run :=
  ⟨issuer_graphed, by decide +kernel⟩

/-- A gang table at 0xC000 whose record 1 covers region 5 and has one member, a saved job of that region, and the gang in a state. -/
def gcard : Card := { c0.card with anc := [(5, 0)], region := 5 }
def ganged (st : Nat) (f : GangSt → GangSt) : State :=
  let s := withBytes (mapped rS cSup) 0xC040 64 (2 ^ 152 + 5 * 2 ^ 128 + 0xD * 2 ^ 76 + st * 2 ^ 224)
  { s with
    hub := { s.hub with gangbase := 0xC000 }, saved := [{ c0 with card := gcard, frozen := true }]
    router := { s.router with gangs := [f (GangSt.fresh 1)], lost := [0] } }
/-- Supervisor core 0 with s4 = 1. -/
def cGang : Ctx := upd cSup .C (setReg 4 1)

/-- The gang with a job of it on a core, which can be lifted off at once, or not yet: a `DRAIN` of it runs. -/
def gangJob (d : List Cmd) : Ctx := { c0 with card := gcard, cmds := d }
def gangBusy (d : List Cmd) : State := { ganged 0 id with ctxs := [cGang, gangJob d] }
/-- The gang in a state, its word held. -/
def gangHold (gres : Bool) : GangHold := ⟨rS, gres, (cGang.stream .C).pc⟩
def gangHeldIn (st : Fin 5) (gres : Bool) : State := ganged st.val fun x => { x with state := st, hold := some (gangHold gres) }

theorem issuer_ganged (st : Nat) (f : GangSt → GangSt) (l : List Ctx) : Claims.supIssuer { ganged st f with ctxs := cGang :: l } rS cGang := by
  refine ⟨?_, rfl, rfl, rfl⟩
  simp [State.issuer, ganged, withBytes, mapped, State.setMem, placeIn, State.ctx]
  exact ⟨.inl rfl, rfl⟩

theorem witness_gangWords : (∀ st f l, Claims.supIssuer { ganged st f with ctxs := cGang :: l } rS cGang) ∧
    ((cGang.stream .C).sreg 4).toNat % 4096 = 1 ∧ tableReady (ganged 0 id) = true ∧ (gangGet (ganged 0 id) 1).hold = none ∧
    passes (gangCheck (Claims.accessState (ganged 0 id) rS cGang) 1 (fun t v => ggState v == 0 && gangHere t 1)) = true ∧
    passes (gangCheck (Claims.accessState (ganged 2 id) rS cGang) 1 (fun _ v => ggState v == 2)) = true ∧
    gangLiftable (gangStart (Claims.accessState (gangBusy []) rS cGang) 1 (gangHold false)) 1 = true ∧
    gangLiftable (gangStart (Claims.accessState (gangBusy [⟨0, .A, .drain .always 9 0 0, 0, .C, 0, [], [], 0, 0, [], .done, []⟩]) rS cGang) 1 (gangHold false)) 1 = false ∧
    passes (gangCheck (Claims.accessState (ganged 1 id) rS cGang) 1 (fun t v => ggState v == 0 && gangHere t 1)) = false ∧
    passes (gangCheck (Claims.accessState (ganged 4 id) rS cGang) 1 (fun _ v => ggState v == 2)) = false ∧
    (∀ st b, (gangGet (gangHeldIn st b) 1).hold = some ⟨rS, b, (cGang.stream .C).pc⟩) ∧
    (gangGet (gangHeldIn 2 false) 1).state ≠ 1 ∧ (gangGet (gangHeldIn 0 true) 1).state ≠ 3 :=
  ⟨issuer_ganged, by decide +kernel⟩

/-- The same gang, whose one member is lost, at the end of its sweep or of its resumption. -/
def sweeping : State := ganged 1 fun x => { x with state := 1, lifted := true }
def resuming : State := ganged 3 fun x => { x with state := 3, back := true }

theorem witness_gangEvents : (gangGet sweeping 1).state = 1 ∧ (gangGet sweeping 1).lifted = true ∧ gangClosed sweeping 1 = true ∧
    (gangGet resuming 1).state = 3 ∧ (gangGet resuming 1).back = true ∧ gresHeard resuming 1 = true ∧
    (∀ k ∈ resuming.router.later, k.gang ≠ 1) ∧ (∀ y ∈ resuming.ctxs, ∀ z ∈ resuming.ctxs, y.id = z.id → y = z) := by
  have h : gangMembers sweeping 1 = [0] := by decide +kernel
  have k : gangMembers resuming 1 = [0] := by decide +kernel
  have c : memberClosed sweeping (gangGet sweeping 1) 0 = true := by decide +kernel
  have l : resuming.router.lost.contains 0 = true := by decide +kernel
  refine ⟨by decide +kernel, by decide +kernel, ?_, by decide +kernel, by decide +kernel, ?_, fun _ hk => absurd hk List.not_mem_nil, ?_⟩
  · rw [gangClosed, show gangFrames sweeping 1 = true by decide +kernel]
    simp only [gangPeers, h, Bool.true_and, Bool.and_eq_true, List.all_eq_true, List.mem_filter]
    refine ⟨fun f hf => ?_, rfl⟩
    have : f = 0 := by simpa using hf.1
    rw [this]; exact c
  · rw [gresHeard, show gangFrames resuming 1 = true by decide +kernel]
    simp only [gangPeers, k, Bool.true_and, List.all_eq_true, List.mem_filter]
    intro f hf
    have : f = 0 := by simpa using hf.1
    rw [this, l]; rfl
  · intro y hy z hz _
    rw [List.mem_singleton.mp hy, List.mem_singleton.mp hz]

/-! Commands, the array and Cairn -/

/-- A layer macro at a micro-op, after `n` micro-ops. -/
def macroSt (n : Nat) : MacroSt := ⟨Vector.replicate 16 0, 256, n, 0, 0, [], 0, [], false, []⟩
def macroCmd (n : Nat) : Cmd := ⟨0, .A, .layerf .always 0 0, 0, .C, 0, [], [], 0, 0, [], .layer (macroSt n), []⟩
def cMacro (n : Nat) : Ctx := { c0 with cmds := [macroCmd n] }
def withLease (s : State) (f : ArraySt → ArraySt) : State :=
  { s with arrays := s.arrays.map fun a => if a.cluster = 0 then f a else a }
def onMacro (n : Nat) : State := withLease (on r0 (cMacro n)) fun a => { a with holder := some r0.ctx }

def runsOn (g : Got ARan) : Bool :=
  match g with
  | .ok _ => true
  | _ => false

theorem witness_microOps : (∀ n, Claims.macroAt (onMacro n) (cMacro n) (macroCmd n) (macroSt n)) ∧ (macroSt 63).since < 64 ∧ 64 ≤ (macroSt 64).since ∧
    runsOn (runArray (onMacro 63) (cMacro 63) (whoCmd (onMacro 63) (cMacro 63) (macroCmd 63)) ((cMacro 63).stream .C).satfp (.dtt .always 0) 0) = true := by
  refine ⟨fun n => ⟨⟨r0, rfl, ?_⟩, rfl, ?_⟩, by decide, by decide, by decide +kernel⟩
  · simp [onMacro, withLease, on, State.ctx]; rfl
  · have h : holdsLease (onMacro n) r0.ctx = true := by
      have : (withLease State.reset fun a => { a with holder := some r0.ctx }).arrays.find? (fun a => decide (a.cluster = 0)) =
        some { ArraySt.reset 0 with holder := some r0.ctx } := by decide +kernel
      simp only [holdsLease, arrayAt, onMacro]
      rfl
    simp only [macroRuns]; rw [show (cMacro n).id = r0.ctx from rfl, h]; rfl

/-- A macro whose k1 names handle 10, a chain with one data record: the first element of accumulator row 0 goes to row 0 of tile 9. -/
def macroDrain : MacroSt := { macroSt 0 with k := (Vector.replicate 16 0).set 1 10 }
def drainCmd : Cmd := { macroCmd 0 with prog := .layer macroDrain }
def cDrain : Ctx := { cMacro 0 with
  cmds := [drainCmd], handles := [tile9, { chain10 with
    data := Memory.sets [] 0 (leBytes 32 (2 ^ 128 + 2 ^ 144 + 2 ^ 63 + 2 ^ 64 * (2 ^ 63 + 9))) }] }
def onDrain : State := withLease (on r0 cDrain) fun a => { a with holder := some r0.ctx }

def drains (m : MRan) : Bool :=
  match m with
  | .ok _ _ _ => true
  | _ => false

theorem witness_microDrain : onDrain.ctx r0.ctx = some cDrain ∧ macroOf cDrain = some (drainCmd, macroDrain) ∧
    (match arrWord .drainm 4 (macroDrain.k.get 1).toNat with
      | .ok i => decide (i = .drainm .always 10 0 4)
      | .error _ => false) = true ∧ Uop.drainWaits ⟨cDrain, drainCmd, macroDrain⟩ onDrain 10 0 = false ∧
    drains (runDrainm onDrain cDrain drainCmd 10 4 0 0 0 []) = true := by decide +kernel

/-- The word of the micro-op `ARR` is decoded from its fields. -/
theorem witness_microOpsWord : (match arrWord .dtt 0 0 with
    | .ok i => decide (i = .dtt .always 0)
    | .error _ => false) = true := by decide +kernel

def cHeld (i : Instr) (v : Option (Vector Word 64)) : Ctx := upd c0 .C fun t => { t with run := .held ⟨i, 0, 0, v⟩ }

theorem witness_heldWords : (∀ i v, (on r0 (cHeld i v)).ctx r0.ctx = some (cHeld i v) ∧ ((cHeld i v).stream .C).run = .held ⟨i, 0, 0, v⟩ ∧
      ((cHeld i v).stream .C).stopped = false ∧ jobRuns (cHeld i v) = true) ∧
    (Instr.queue (.lacq .always)).isSome = true ∧ placeTaken (cHeld (.lacq .always) none) .C (.lacq .always) = false ∧
    isVxc (.vxcGather 4 5) = true ∧ placeTaken (cHeld (.vxcGather 4 5) none) .C (.vxcGather 4 5) = false ∧
    (cHeld (.gclr 0) (some (c0.stream .C).s)).cellNow = [] ∧ cellMoves (cHeld (.gclr 0) (some (c0.stream .C).s)) (.gclr 0) = false ∧
    nextOf (execGclr 0 { on r0 (cHeld (.gclr 0) (some (c0.stream .C).s)) with cur := some r0 }) (fun u => !stillHeld u r0) = true ∧
    heldMeaning (.gclr 0) = some (execGclr 0) := by
  refine ⟨fun i v => ⟨rfl, rfl, rfl, rfl⟩, by decide +kernel, by decide +kernel, by decide +kernel, by decide +kernel, rfl, by decide +kernel,
    by decide +kernel, rfl⟩

/-- A command of a queue at the head, at a point of its progress. -/
def cmd1 (q : Queue) (i : Instr) (p : Prog) : Cmd := ⟨0, q, i, 0, .C, 0, [], [], 0, 0, [], p, []⟩
/-- A chain handle with two data records of one element: from and to address 0, and from handle 9. -/
def recs10 : Handle := { chain10 with
  data := Memory.sets (Memory.sets [] 0 (leBytes 32 (2 ^ 128 + 2 ^ 144))) 32 (leBytes 32 (2 ^ 128 + 2 ^ 144 + 2 ^ 63 + 9)) }
/-- Layout record 0 stands at 0x20000, where memory holds zeros. -/
def cWith (l : List Cmd) : Ctx :=
  { c0 with cmds := l, handles := [recs10], g := c0.g.set 0 (some false), card := { c0.card with lay := 0x20000, nlay := 1 } }

theorem witness_commands :
    (∀ d, (on r0 (cWith d)).ctx r0.ctx = some (cWith d) ∧ cmdsRun (cWith d) = true) ∧
    (let d := cmd1 .A (.dtt (.onTrue 0) 0) .queued
     cmdHead (cWith [d]) .A = some d ∧ guardSays (cWith [d]) 0 (.onTrue 0) = some false) ∧
    (let d := cmd1 .A (.dtt (.onTrue 1) 0) .queued
     cmdHead (cWith [d]) .A = some d ∧ guardSays (cWith [d]) 0 (.onTrue 1) = none) ∧
    (let d := cmd1 .A (.dtt .always 0) .queued
     cmdHead (cWith [d]) .A = some d ∧ guardSays (cWith [d]) 0 .always = some true ∧ rangeHeld (cWith [d]) d = false) ∧
    (let d := { cmd1 .L (.copy .always 10 0) .queued with seq := 1, writes := [⟨9, 0, 0⟩] }
     let e := { cmd1 .A (.bload .always 9 0 false) .queued with reads := [⟨9, 0, 0⟩] }
     cmdHead (cWith [e, d]) .L = some d ∧ guardSays (cWith [e, d]) 0 .always = some true ∧ rangeHeld (cWith [e, d]) d = true) ∧
    (let d := cmd1 .L (.copy (.onFalse 0) 10 0) .queued
     cmdHead (cWith [d]) .L = some d ∧ guardSays (cWith [d]) 0 (.onFalse 0) = some true ∧ rangeHeld (cWith [d]) d = false) := by
  refine ⟨fun _ => ⟨rfl, rfl⟩, ?_⟩
  decide +kernel

/-- The command's array is leased: it can start. -/
def startsNow (d : Cmd) : Bool := (startHead (withLease (on r0 (cWith [d])) fun a => { a with holder := some r0.ctx }) (cWith [d]) d).isSome

theorem witness_commandStart : startsNow (cmd1 .A (.dtt .always 0) .queued) = true ∧
    (let e := cmd1 .S (.offl .always 10 0 false) .queued
     let d := { cmd1 .L (.retn .always 10 0) .queued with seq := 1 }
     cmdHead (cWith [e, d]) .L = some d ∧ rangeHeld (cWith [e, d]) d = false ∧ retnHeld (mapped r0 (cWith [e, d])) (cWith [e, d]) d = true ∧
       retnHeld (mapped r0 (cWith [d])) (cWith [d]) d = false) := by decide +kernel

/-- A transfer of one row, and a copy that has done so many rows of it. -/
def xfer1 : Xfer := ⟨.mem 0 4, .mem 0 4, 3, 3, 0, 0, 1, 1, false, false, 3, none⟩
def walk1 (n : Nat) : WalkSt := ⟨0, 0, 0, [], n, 0, [], .zero, some xfer1⟩

theorem witness_recordComplete :
    (∀ n, let d := cmd1 .L (.copy .always 10 0) (.walk (walk1 n))
      (cWith [d]).cmd 0 = some d ∧ chainOf d.word = some 10 ∧ (cWith [d]).handle 10 = some recs10 ∧ (walk1 n).cur = some xfer1) ∧
    (dataRec (cWith []).card false (recordAt recs10 0)).isSome = true ∧ 0 < xfer1.rows ∧ xfer1.rows ≤ 1 ∧ xfer1.cap = none ∧
    ((dataRec (cWith []).card false (recordAt recs10 0)).map fun r => r.arv) = some false ∧
    (let d := cmd1 .L (.copy .always 10 0) (.walk (walk1 1))
     (completeRecord (on r0 (cWith [d])) (cWith [d]) d 10 (walk1 1)).isSome = true) := by
  refine ⟨fun n => ⟨rfl, rfl, rfl, rfl⟩, ?_⟩
  decide +kernel

theorem witness_commandComplete :
    (let d := cmd1 .A (.dtt .always 0) .done
     (cWith [d]).cmd 0 = some d ∧ offlHandle (cWith [d]) d = none) ∧
    (let d := { cmd1 .S (.offl .always 10 0 false) .done with sval := 1 }
     (cWith [d]).cmd 0 = some d ∧ offlHandle (cWith [d]) d = some 9 ∧ handleInUse (cWith [d]) 0 9 = false) ∧
    (let d := cmd1 .A (.statg .always 0 1 15) (.statg 0 1 true)
     (cWith [d]).cmd 0 = some d ∧ (cWith [d]).g.get 1 = none) := by decide +kernel

/-- The context's array command waits; its lease is free, held, or past its bound. -/
def cArr : Ctx := cWith [cmd1 .A (.bload .always 9 0 false) .queued]
def onArr (f : ArraySt → ArraySt) : State := { withLease (on r0 cArr) f with now := 4 }
def asked : State := onArr fun a => { a with requests := [(r0.ctx, 3)] }
def held (other : Bool) : State := onArr fun a => { a with holder := some r0.ctx, started := 32, requests := if other then [(⟨.core 0 1, 0⟩, 3)] else [] }
def late : State := { withLease (on r0 (cMacro 1)) (fun a => { a with holder := some r0.ctx, timeout := some 4 }) with now := 4 }

def arrayOn (s : State) (f : ArraySt → Bool) : Bool :=
  match arrayOf s 0 with
  | some a => f a
  | none => false

theorem witness_leases : asked.ctx r0.ctx = some cArr ∧ cmdHead cArr .A = some (cmd1 .A (.bload .always 9 0 false) .queued) ∧
    isArrayCmd (.bload .always 9 0 false) = true ∧ holdsLease asked r0.ctx = false ∧ guardSays cArr 4 .always ≠ some false ∧ cmdsRun cArr = true ∧
    arrayOn asked (fun a => a.holder.isNone && decide ((leasePick asked a).2 = some 0) && decide (pendingAt asked a 0 = some r0.ctx) &&
      decide (a.idleUntil ≤ asked.now)) = true ∧
    (∀ b, arrayOn (held b) (fun a => decide (a.holder = some r0.ctx) && leaseOver (held b) a && (leaseWanted a == b)) = true) ∧
    cArr.cmds.any arrayBusy = false ∧
    arrayOn late (fun a => decide (a.holder = some r0.ctx) && decide (a.timeout = some 4)) = true ∧ late.ctx r0.ctx = some (cMacro 1) ∧
    macroOf (cMacro 1) = some (macroCmd 1, macroSt 1) := by decide +kernel

/-- Core 0 quiescent for 64 cycles, with so many entries in its pool; its C stream waits for a free entry of its A queue, or is idle. -/
def cFull : Ctx := { cHeld (.lacq .always) none with cmds := (List.range 64).map aCmd }
def quiet (c : Ctx) (n : Nat) : State :=
  let s := on r0 c
  { s with cores := s.cores.map fun k => if k.id = .core 0 0 then { k with quiet := 64, pool := n } else k }

theorem witness_quiescence : coreOn (quiet cFull 16) (.core 0 0) (fun y => decide (64 ≤ y.quiet) && decide (16 ≤ y.pool)) = true ∧
    coreOn (quiet cFull 15) (.core 0 0) (fun y => decide (64 ≤ y.quiet) && decide (y.pool < 16)) = true ∧
    ((neediest (fullWaits (quiet cFull 16) (.core 0 0))).map fun x => x.2) = some (.A, r0) ∧
    (quiet cFull 16).ctx r0.ctx = some cFull ∧ neediest (fullWaits (quiet c0 16) (.core 0 0)) = none := by decide +kernel

/-- A graph in state 2 whose one node is bound to core 0 of die 0, all ready. -/
def ready0 : State :=
  let s := graphedIn 2
  { s with
    ctxs := [cSup]
    hub := { s.hub with rdyCore := s.hub.rdyCore.set 0 1, rdyClus := 1 } }

/-- A saved job of a gang that is being restored. -/
def lifted : State :=
  let s := ganged 3 fun x => { x with state := 3, back := true }
  { s with hub := { s.hub with rdyCore := s.hub.rdyCore.set 0 1, rdyClus := 1 } }

/-- A graph whose instances no job can take comes first: its region breaks R250 no rule, but it wants a core of another die. -/
def elsewhere : Graph := { graph0 2 with addr := 0x7000, recs := [BitVec.ofNat 2048 (2 * 2 ^ 1302 + 2 ^ 1304)] }
def ready1 : State := { ready0 with graphs := [elsewhere, graph0 2] }
/-- The same, with a saved context of the instance. -/
def ready2 : State := { ready0 with saved := [{ c0 with card := { c0.card with graph := 0x8000, step := 0, node := 0 }, frozen := true }] }

def noneFits (s : State) (e : Graph × Nat × Nat) : Bool := regionOk s e.1.region && allPlaces.all fun y => !fits s e.1 e.2.1 e.2.2 y

theorem witness_cairn : ready0.dispatched ≠ some ready0.now ∧ ready0.hub.rdyHub.getLsbD 3 = true ∧ tableReady ready0 = true ∧
    liftedReady ready0 = none ∧ poolOrder (fillPool ready1) = [(elsewhere, 0, 0)] ++ (graph0 2, 0, 0) :: [] ∧
    noneFits (fillPool ready1) (elsewhere, 0, 0) = true ∧ regionOk (fillPool ready1) 0 = true ∧
    allPlaces.find? (fits (fillPool ready1) (graph0 2) 0 0) = some r0.ctx ∧ savedOf (fillPool ready1) (graph0 2) 0 0 = none ∧
    passes (allocDecls { fillPool ready1 with ctxs := (fillPool ready1).ctxs ++ [newCtx (fillPool ready1) (graph0 2) 0 0 r0.ctx] } r0.ctx
      ((graph0 2).decls.getD 0 [])) = true ∧
    allPlaces.find? (fits (fillPool ready2) (graph0 2) 0 0) = some r0.ctx ∧ (savedOf (fillPool ready2) (graph0 2) 0 0).isSome = true := by
  decide +kernel

theorem witness_cairnMore : State.reset.hub.rdyHub.getLsbD 3 = false ∧ (liftedReady lifted).isSome = true ∧ lifted.dispatched ≠ some lifted.now ∧
    lifted.hub.rdyHub.getLsbD 3 = true ∧ tableReady lifted = true ∧ { ready0 with dispatched := some 0 }.dispatched = some ready0.now ∧
    tableReady (ready0.setHub { ready0.hub with rdyHub := 0 }) = false ∧ tableStruck ready0 = false ∧ tableStruck lifted = false ∧
    tableStruck (ready0.setMem { ready0.mem with poison := [(ready0.hub.rcbase.toNat + 262143) / 128] }) = true ∧
    (on r0 c0).ctx r0.ctx = some c0 ∧ r0.ctx.core.isSup = false ∧ c0.frozen = false ∧ liftable c0 = true := by decide +kernel

/-! Fabric -/

/-- A module other than this one. -/
def otherFid : Fid := ⟨(ownFid.val + 1) % 4096, Nat.mod_lt _ (by decide)⟩

theorem other_ne : otherFid ≠ ownFid := by
  intro h
  have := congrArg Fin.val h
  have hl := ownFid.isLt
  simp only [otherFid] at this
  omega

/-- Register 3 of a job open to a peer, and its `ZPUSH` or `ZPOP` waiting since cycle 0; register 3 of another job on core 1, open. -/
def zTo (f : Fid) : ZState := ⟨true, f, some (0, 1), 3, 0, [], 0, []⟩
def zCmd (i : Instr) : Cmd := cmd1 .N i (.waiting 0)
def cZ (f : Fid) (i : Instr) : Ctx := upd { c0 with handles := [tile9], cmds := [zCmd i], z := c0.z.set 3 (zTo f) } .C fun t => { t with wdog := 0 }
def cZ1 : Ctx := { c0 with id := ⟨.core 0 1, 0⟩, z := c0.z.set 3 (zTo 0) }
def onZ (f : Fid) (i : Instr) : State := { on r0 (cZ f i) with ctxs := [cZ f i, cZ1] }

/-- The same, the peer lost; and a `ZPOP` whose register has an entry. -/
def lostZ : State := let s := onZ otherFid (.zpush .always 9 0 3); s.setRouter { s.router with lost := [otherFid] }
def cFed : Ctx := { cZ ownFid (.zpop .always 9 0 3) with z := c0.z.set 3 { zTo ownFid with buf := [(otherFid, 0, 0, [])] } }

theorem witness_streamRegisters :
    (∀ f i, Claims.running (onZ f i) ⟨r0.ctx, 0⟩ (cZ f i) (zCmd i)) ∧ (zCmd (.zpush .always 9 0 3)).prog = .waiting 0 ∧
    (∀ f i, (cZ f i).handle 9 = some tile9) ∧ (∀ f i, gangTag (onZ f i) (cZ f i) = 0) ∧
    ((cZ otherFid (.zpush .always 9 0 3)).z.get 3).peer ≠ ownFid ∧ ((cZ otherFid (.zpush .always 9 0 3)).z.get 3).peer ∉ (onZ otherFid .nop).router.lost ∧
    Claims.mayCredit (onZ ownFid (.zpush .always 9 0 3)) ⟨r0.ctx, 0⟩ ((cZ ownFid (.zpush .always 9 0 3)).z.get 3) 0 cZ1 ∧
    cZ1.id ≠ (cZ ownFid (.zpush .always 9 0 3)).id ∧ (∀ f i, gangReadable (onZ f i) = true ∧ gangMuted (onZ f i) 0 = false) ∧
    ((cZ otherFid (.zpush .always 9 0 3)).z.get 3).peer ∈ lostZ.router.lost ∧
    ((cZ ownFid (.zpop .always 9 0 3)).stream .C).wdog ≤ (onZ ownFid (.zpop .always 9 0 3)).now - 0 ∧
    ((cZ ownFid (.zpop .always 9 0 3)).z.get 3).buf = [] ∧ (cFed.z.get 3).buf ≠ [] := by
  refine ⟨fun f i => ⟨?_, rfl, rfl⟩, rfl, fun _ _ => rfl, fun f i => ?_, other_ne, List.not_mem_nil,
    ⟨rfl, _, rfl, rfl, by simp [firstRequest], fun _ h => absurd h List.not_mem_nil⟩, by decide, fun _ _ => ⟨rfl, rfl⟩, List.mem_singleton.mpr rfl, by decide, rfl, by decide⟩
  · simp [onZ, State.ctx]; exact .inl rfl
  · have h : jobGang State.reset c0.card = 0 := by decide +kernel
    have k : jobGang (onZ f i) (cZ f i).card = 0 := h
    simp [gangTag, k]

/-- A request of the other module for the register, which is open on core 1. -/
def asking : State := let s := onZ ownFid .nop; s.setRouter { s.router with zreqs := [⟨.core 0 1, 3, otherFid, 0⟩] }

theorem witness_requests : (∀ p ∈ asking.router.zreqs, p.core = .core 0 1 → p.z = 3 → 0 ≤ p.since) ∧ creditWaiters asking (.core 0 1) 3 = [] ∧
    (openAt asking.ctxs (.core 0 1) 3).find? (fun j => decide (Claims.entriesTaken (j.z.get 3) < 8)) = some cZ1 :=
  ⟨fun _ _ _ _ => Nat.zero_le _, rfl, rfl⟩

/-- Port 2 lit on lane 3, with that lane in a state, after failed replays; slot 0 of its lanes settling to colour 5 in cycle 0. -/
def lane3 (st : Fin 6) (fails : Nat) : State :=
  let x := State.reset.hub.port 2
  let y : LaneSt := ⟨st, fails, false, false, ⟨none, some (0, some 5)⟩, ⟨none, none⟩⟩
  State.reset.setHub { State.reset.hub.putPort 2 ((({ x with req := 8, grant := 8, cfg := 8 } : PortSt)).putLane 3 y) with rdyPort := 4 }

theorem witness_lanes : (∀ st, (laneOf (lane3 st 15) 2 3).state = st) ∧ (lane3 1 15).hub.lit 2 3 = true ∧
    (laneOf (lane3 1 15) 2 2).state = 0 ∧ 15 ≤ (laneOf (lane3 3 15) 2 3).fails ∧ (laneOf (lane3 3 14) 2 3).fails < 15 ∧
    ((lane3 1 15).hub.port 2).supply = true ∧
    (let s := (lane3 1 15).setHub ((lane3 1 15).hub.putPort 2 { (lane3 1 15).hub.port 2 with supply := false })
     (s.hub.port 2).supply = false ∧ (laneOf s 2 3).state ≠ 0 ∧ s.hub.lit 2 3 = false) := by decide +kernel

/-- A port on which colour 5, of module 9, is announced as waiting; lane 3 carries data; a packet for module 9 leaves by it. -/
def heardPort : State :=
  let x := (lane3 2 0).hub.port 2
  let y : PortSt := { x with
    lanes := x.lanes.map fun (l : LaneSt) => { l with slot0 := ⟨none, none⟩ }
    mem1 := BitVec.ofNat 64 ((2 ^ 15 + 9) * 2 ^ 16), heard := [⟨5, 0, true, 0, 0xFF⟩] }
  (lane3 2 0).setHub { (lane3 2 0).hub.putPort 2 y with routes := [(9, 2 + 2 ^ 6)] }

/-- A `TUNE` of the port's slot 0 that waits for it, in a context and in a saved one. -/
def cTune : Ctx := { c0 with cmds := [cmd1 .N (.tune .always 0 0) (.tune 2 false 0)] }
def tuning : State := { lane3 2 0 with ctxs := [cTune], saved := [cTune] }

theorem witness_filters : ((laneOf (lane3 2 0) 2 3).state = 2 ∨ (laneOf (lane3 2 0) 2 3).state = 3) ∧
    memberOn (heardPort.hub.port 2) 5 = some 9 ∧
    (∀ l, ((laneOf heardPort 2 l).slot0).settle = none) ∧
    (∃ k ∈ (heardPort.hub.port 2).heard, k.pending = true ∧ ∀ l, (laneOf heardPort 2 l).slot0.colour ≠ some k.colour) ∧
    slotDue tuning 2 false 3 = true ∧ (∃ c ∈ tuning.ctxs, ∃ d ∈ c.cmds, d.prog = .tune 2 false 0) ∧
    ∃ c ∈ tuning.saved, ∃ d ∈ c.cmds, d.prog = .tune 2 false 0 := by
  refine ⟨?_, by decide +kernel, by decide +kernel, ⟨_, List.mem_singleton.mpr rfl, rfl, by decide +kernel⟩, by decide +kernel, ?_, ?_⟩
  · decide +kernel
  · exact ⟨_, List.mem_singleton.mpr rfl, _, List.mem_singleton.mpr rfl, rfl⟩
  · exact ⟨_, List.mem_singleton.mpr rfl, _, List.mem_singleton.mpr rfl, rfl⟩

def pk (src dst : Fid) (n : BitVec 32) : Packet := ⟨src, dst, 0, n, 0, 0, .rankLost (.push 0 .add) 0⟩

/-- The router's bit and a port's are set. -/
def routing (s : State) : State := s.setHub { s.hub with powered := true, rdyHub := 16, rdyPort := 4 }
/-- A packet stands at the head of its channel, and the port can send it. -/
def sends : State := let s := routing heardPort; s.setRouter { s.router with out := [pk 9 9 0] }

theorem witness_sendable : (flowQueue sends 2 (flowOf (pk 9 9 0)) (pk 9 9 0).vc.val).head? = some (pk 9 9 0) ∧ sendable sends 2 (pk 9 9 0) = true := by
  constructor
  · have r : decide ((routeOf sends (pk 9 9 0).dst).map (fun q => q.1) = some 2) = true := by decide +kernel
    simp [flowQueue, sends, State.setRouter]
    simpa [sends, State.setRouter] using r
  · have r : (match routeOf sends 9 with
      | some q => decide (q.1 = 2) && portOpen sends 2 q.2
      | none => false) = true := by decide +kernel
    have a : sends.hub.routerOn = true := by decide +kernel
    have b : sends.hub.forwards = true := by decide +kernel
    simp only [sendable, a, b, ite_self, Bool.true_and]
    exact r

/-- A module that has heard of the other module in cycle 0, in cycle 131,072. -/
def heardOf : State := { State.reset with now := 131072, router := { State.reset.router with lastHeard := [(otherFid, 0)] } }

/-- An entry of the other module for register 3 of core 0, and a job that has it open, with room and without. -/
def entry3 (n : BitVec 32) : Packet := { pk otherFid ownFid n with body := .entry ⟨.core 0 0, 0⟩ 3 [1] }
def cOpen (n : Nat) : Ctx := { c0 with z := c0.z.set 3 { zTo otherFid with buf := List.replicate n (otherFid, 0, 0, []) } }
/-- It waits in the router. -/
def waits3 (n : Nat) : State :=
  let s := on r0 (cOpen n)
  s.setRouter { s.router with waitq := [entry3 0] }
/-- So many packets of the other module have not left. -/
def crowded (n : Nat) : State := State.reset.setRouter { State.reset.router with out := List.replicate n (pk otherFid otherFid 0) }

theorem witness_packets : pk otherFid ownFid 5 ∉ State.reset.router.waitq ∧ pk otherFid ownFid 5 ∉ State.reset.router.locals ∧
    (pk otherFid ownFid 0).src ≠ ownFid ∧ (pk otherFid otherFid 0).dst ≠ ownFid ∧ (pk otherFid otherFid 0).dst ∉ State.reset.router.lost ∧
    otherFid ∈ lostZ.router.lost ∧
    assocGet (0 : BitVec 32) State.reset.router.rxSeq (otherFid, (0 : Fin 8)) = 0 ∧ (pk otherFid ownFid 0).seq = 0 ∧
    2 ^ 31 ≤ ((pk otherFid ownFid 0xFFFFFFFF).seq - 0).toNat ∧ ((pk otherFid ownFid 0x7FFFFFFF).seq - 0).toNat < 2 ^ 31 ∧
    State.reset.router.held = [] ∧ inputRoom (crowded 0) (pk otherFid otherFid 0) = true ∧ inputRoom State.reset (entry3 0) = true ∧
    inputRoom (crowded (Config.inputBuffer + 1)) (pk otherFid otherFid 1) = false ∧ isRequest (entry3 0).body = false ∧
    otherFid ∉ State.reset.router.lost := by
  refine ⟨List.not_mem_nil, List.not_mem_nil, other_ne, other_ne, List.not_mem_nil, List.mem_singleton.mpr rfl, rfl, rfl, by decide, by decide,
    rfl, ?_, ?_, ?_, rfl, List.not_mem_nil⟩
  · simp [inputRoom, crowded, State.setRouter, pk, other_ne]
  · have h : State.reset.router.held ++ State.reset.router.waitq = [] := rfl
    simp [inputRoom, entry3, pk, h]
  · simp [inputRoom, crowded, State.setRouter, pk, other_ne]
    rfl

theorem witness_entries : (∀ n, openAt (waits3 n).ctxs (.core 0 0) 3 = [cOpen n]) ∧ Claims.entryOpen ((cOpen 7).z.get 3) otherFid ∧
    ¬Claims.entryOpen ((cOpen 8).z.get 3) otherFid ∧ (∀ n, passedOver (waits3 n) (entry3 0) = false) ∧ (∀ n, entry3 0 ∈ (waits3 n).router.waitq) ∧ (entry3 0).gang = 0 ∧
    (∀ n, firstWaiting (waits3 n) (entry3 0) = true) := by
  refine ⟨fun n => rfl, ⟨by decide, .inr (by decide)⟩, fun h => absurd h.1 (by decide), fun n => ?_, fun n => List.mem_singleton.mpr rfl, rfl,
    fun n => ?_⟩
  · simp [passedOver, waits3, State.setRouter]
  · simp [firstWaiting, waits3, State.setRouter]

/-- Collectives at the point where they announce themselves, or end. -/
def travSt (ann : Bool) : TravSt := ⟨[], [], 0, 0, ann, [], [], [], 0, 0, 0⟩
def pushSt : PushSt := ⟨[], [], 0, 3, 0, 0, [], 0⟩
/-- One push that waits at the other module, one that has ended. -/
def pushTo (code : Nat) : PushSt := ⟨leBytes 128 (otherFid.val), [], 0, code, 0, 0, [], 0⟩
def cN (p : Prog) : Ctx := { c0 with cmds := [cmd1 .N (.trav .always 9 0) p] }

/-- A combine of one token, all of its rows in handle 9, before and after it. -/
def combBlock : List Byte := leBytes 32 (9 * 2 ^ 9 + 9 * 2 ^ 26 + 9 * 2 ^ 43 + 9 * 2 ^ 60)
def combCmd (token : Nat) : Cmd := cmd1 .N (.ncomb .always 9 0) (.ncomb combBlock 0 token 0)
def cComb (token : Nat) : Ctx := { c0 with handles := [tile9], cmds := [combCmd token] }

theorem witness_collectives :
    (∀ p, Claims.running (on r0 (cN p)) ⟨r0.ctx, 0⟩ (cN p) (cmd1 .N (.trav .always 9 0) p)) ∧ (travSt false).announced = false ∧
    (∀ own ∈ [[], [0, 0, 0, 0]], let p := { travSt false with own := own }
      let d := cmd1 .N (.trav .always 9 0) (.trav p)
      let s := mapped r0 (cN d.prog)
      passes (elemsCheck s (cN d.prog) (whoCmd s (cN d.prog) d) (travDesc []) 0 0 (travElems (travDesc []) p)) = true ∧
      gangReadable s = true ∧ passes (elemsWrite s (cN d.prog) (whoCmd s (cN d.prog) d) (travDesc []) 0 0 own ((travDesc []).piece 0 0)) = true) ∧
    (travSt true).announced = true ∧ (∀ n ∈ (travSt true).need, n.2 = 0) ∧ { travSt true with code := 3 }.code = 3 ∧
    (let d := cmd1 .N (.trav .always 9 0) (.trav (travSt true))
     (endCollective (on r0 (cN d.prog)) r0.ctx d 1 0 0 (travDesc []).cell).isSome = true) := by
  refine ⟨fun _ => ⟨rfl, rfl, rfl⟩, ?_⟩
  decide +kernel

theorem witness_pushes : (∀ code ∈ [1, 2, 3], let d := cmd1 .N (.pushr .always 9 0 .add) (.push { pushSt with code := code })
      let s := mapped r0 (cN d.prog)
      { pushSt with code := code }.code ≠ 0 ∧ passes (endStore s r0.ctx (whoCmd s (cN d.prog) d) (.mem 0) (joinParts [] 0)) = true ∧
      (endCollective s r0.ctx d code 0 0 none).isSome = true) ∧ (pushDesc pushSt.desc).dst = some (.mem 0) ∧
    (pushDesc (leBytes 32 (2 ^ 126))).dst = none := by
  refine ⟨by decide +kernel, rfl, rfl⟩

theorem witness_combines : (∀ n, (on r0 (cComb n)).ctx r0.ctx = some (cComb n) ∧ cmdsRun (cComb n) = true ∧ (cComb n).cmd 0 = some (combCmd n)) ∧
    (combDesc combBlock).t ≤ 1 ∧ 0 < (combDesc combBlock).t ∧ combWaits (on r0 (cComb 0)) r0.ctx 0 = false ∧
    (∀ h ∈ [(combDesc combBlock).inp.1, (combDesc combBlock).gate.1, (combDesc combBlock).idx.1, (combDesc combBlock).out.1],
      (cComb 0).handle h = some tile9) ∧
    (endCollective (on r0 (cComb 1)) r0.ctx (combCmd 1) 1 0 0 (combDesc combBlock).cell).isSome = true := by
  refine ⟨fun _ => ⟨rfl, rfl, rfl⟩, ?_⟩
  decide +kernel

/-- A collective that ends, with an arrival at row 0 of cell handle 8, which expects one. -/
def ending : Cmd := cmd1 .N (.pushr .always 9 0 .add) (.push (pushTo 1))
def cEnding : Ctx := { c0 with cmds := [ending], handles := [tile9, { cell8 with data := Memory.sets [] 0 (leBytes 8 (2 ^ 32 + 2)) }] }

theorem witness_endings : (on r0 cEnding).ctx r0.ctx = some cEnding ∧ cEnding.cmd ending.seq = some ending ∧
    statusPlace ending.word = some (9, 28) ∧ cEnding.handle 9 = some tile9 ∧ Memory.wf tile9.data = true := ⟨rfl, rfl, rfl, rfl, rfl⟩

/-- A push group with one contribution of two. -/
def group1 : Group := ⟨.push 0 .add, 1, 0, 1, [0, 0, 0, 0], 0, [], [], [], 0, 0, 0, 1, 0, false⟩
def grouped : State := State.reset.setRouter { State.reset.router with groups := [group1] }
/-- A Traverse of two ranks, rank 1 at a module, that still needs a piece of it or not. -/
def travOf1 (f : Fid) (n : List (Nat × Nat)) : TravSt := ⟨leBytes 128 (2 ^ 192), [0, f.val * 2 ^ 96], 0, 0, true, [], n, [], 0, 0, 0⟩
def pushOf1 (f : Fid) : PushSt := ⟨leBytes 32 (f.val * 2 ^ 160), [], 0, 0, 0, 0, [], 0⟩

theorem fid_exists (P : Fid → Prop) (h : P 5) (k : P 6) : ∃ f, f ≠ ownFid ∧ P f := by
  by_cases e : ownFid = 5
  · exact ⟨6, by rw [e]; decide, k⟩
  · exact ⟨5, fun x => e x.symm, h⟩

theorem witness_lostCommands : ∃ f : Fid, f ≠ ownFid ∧ f ∉ (on r0 (cN .done)).router.lost ∧ (pushOf1 f).code = 0 ∧ (pushDesc (pushOf1 f).desc).home = f ∧
    (∀ n, (travOf1 f n).code = 0) ∧ (travDesc (leBytes 128 (2 ^ 192))).mode = 0 ∧ (travDesc (leBytes 128 (2 ^ 192))).ring = none ∧
    (travDesc (leBytes 128 (2 ^ 192))).count = 2 ∧ (travOf1 f []).rank ≠ 1 ∧ (entPos ((travOf1 f []).ents.getD 1 0)).1 = f ∧
    (travOf1 f [(1, 1)]).need = [(1, 1)] := by
  apply fid_exists <;> exact ⟨List.not_mem_nil, rfl, by decide +kernel, fun _ => rfl, by decide +kernel⟩

theorem witness_lostModules : assocFind [(GroupKey.push 0 .add, 0)] (GroupKey.push 0 .add) = some 0 ∧
    (∃ v : Word, otherFid.val = v.toNat % 4096) ∧ otherFid ≠ ownFid ∧ assocFind heardOf.router.lastHeard otherFid = some 0 ∧
    otherFid ∉ heardOf.router.lost ∧ 131072 ≤ heardOf.now - 0 ∧ { heardOf with now := 131071 }.now - 0 < 131072 ∧
    grouped.router.groups = [group1] ∧ group1.full = false ∧ otherFid ∈ lostZ.router.lost := by
  refine ⟨by decide, ⟨BitVec.ofNat 64 otherFid.val, ?_⟩, other_ne, ?_, List.not_mem_nil, by decide, by decide, rfl, rfl, List.mem_singleton.mpr rfl⟩
  · have := otherFid.isLt
    simp only [BitVec.toNat_ofNat]
    omega
  · simp [heardOf, assocFind]

/-! The hub die and the host -/

def lined : State := State.reset.setMem { State.reset.mem with dieLines := [⟨1, 7, List.replicate 128 0, 1, 0, false⟩] }

theorem witness_hostEvents : State.reset.hub.powered = false ∧ hostLinked { State.reset.hub with powered := true, rdyHub := 33 } = true ∧
    dieFind lined.mem 1 7 = some ⟨1, 7, List.replicate 128 0, 1, 0, false⟩ ∧
    (4096 : Nat) = (BitVec.ofNat 64 (4096 * 2 ^ 32) : Word).toNat / 2 ^ 32 % 2 ^ 16 ∧
    (let v : Word := BitVec.ofNat 64 (2 ^ 16 + 1)
     v.toNat / 2 ^ 12 % 2 ^ 34 * 4096 < hbmSize ∧ pageSize (v.toNat % 8) = 2 ^ 16 ∧ v.toNat / 2 ^ 12 % 2 ^ 34 * 4096 % 2 ^ 16 = 0) := by
  decide +kernel

theorem witness_registerWrites : (0xFFF8 : Nat) % 8 = 0 ∧ (0xFFF8 : Nat) < 65536 ∧ (2 ^ 6 : Nat) = (64 : Word).toNat := by decide

def repairing : State := State.reset.setHub { State.reset.hub with rpStat := 256, rpBusy := [(⟨7, 5⟩, true)] }

theorem witness_repairs : State.reset.hub.rpStat.getLsbD 8 = false ∧ (∀ c ∈ State.reset.ctxs, c.id.core ≠ .core 3 95) ∧
    repairing.hub.rpStat.getLsbD 8 = true ∧ (∃ r ∈ repairing.hub.rpBusy, r.1.stack = 7) ∧ repairing.hub.fatal = false :=
  ⟨by decide +kernel, by decide +kernel, by decide +kernel, ⟨(⟨7, 5⟩, true), by decide +kernel, rfl⟩, rfl⟩

/-- Firmware verified, encryption, router and the first stack ready; an image of 4,096 bytes written, whose entry is 0. -/
def booting : State :=
  State.reset.setHub { State.reset.hub with powered := true, rdyHub := 2 ^ 12 + 2 ^ 5 + 3, bootStat := 1, bootLen := 4096 }

theorem witness_boot : State.reset.hub.powered = false ∧ mayReady booting.hub (.hub 23) = true ∧ mayReady booting.hub (.core 3 95) = true ∧
    windowOpen booting.hub = true ∧ (booting.setHub { booting.hub with bootStat := 0 }).hub.bootStat ≠ 1 ∧
    booting.hub.bootStat = 1 ∧ bootVerdict booting booting.hub.bootLen = 1 := by decide +kernel

theorem witness_limits : streamLive (on r0 c0) r0 = true ∧ State.reset.hub.pwCap < (3201 : BitVec 16).toNat ∧ 190 ≤ (190 : BitVec 16).toNat ∧ (190 : BitVec 16).toNat < 210 ∧ (209 : BitVec 16).toNat < 210 ∧
    (State.reset.setHub { State.reset.hub with throttled := true }).hub.throttled = true ∧ (3200 : BitVec 16).toNat ≤ State.reset.hub.pwCap ∧
    (189 : BitVec 16).toNat < 190 ∧ 210 ≤ (210 : BitVec 16).toNat := by decide +kernel

/-! Bad words, and the step -/

theorem witness_badWords : (mapped r0 c0).issuer r0 c0 ∧
    Passes (checkAccess (mapped r0 c0).mem (mapped r0 c0).hub (mapped r0 c0).free (Claims.accessWho (mapped r0 c0) r0 c0) .fetch false
      (c0.stream .C).pc.toNat 4) := ⟨issuer_mapped _ _ rfl rfl, passes_iff (by decide +kernel)⟩

/-- The state in which `ADD s3, s1, s2` (0x01060840) is the next word, and what the step makes of it first. -/
def adding : State := State.reset.withFetchWord 32 0x01060840
def began (s : State) : State := { (if s.router.lostReq = [] then s else actLost s) with fresh := s.fresh + 1 }

/-- One move and no other: a word that a core issues. -/
def onlyWord (s : State) (i : Instr) : Bool :=
  match nextInput s, lateMove s, firstMove (dueTries s), heldMoves s, rivals s, issues s with
  | none, none, none, [], [], [(.word j, _)] => decide (j = i)
  | _, _, _, _, _, _ => false

theorem witness_step : onlyWord (began adding) (.add 3 1 2) = true := by decide +kernel

/-- The same word is the move that is chosen when the choice is laid down; it raises no trap. -/
def chosen : State := began { adding with turns := [0] }

theorem witness_chosen : nextInput chosen = none ∧ (lateMove chosen).isNone = true ∧ (firstMove (dueTries chosen)).isNone = true ∧
    heldMoves chosen = [] ∧ (match chooseMove (turnOf chosen) (moves chosen) with
    | some (.word (.word j) u) => decide (j = .add 3 1 2) && decide ((moves chosen).length < 2) &&
        nextOf (exec j u) fun w => match u.cur with
          | some r => !trapsJob chosen w r.ctx
          | none => false
    | _ => false) = true := by
  refine ⟨rfl, by decide +kernel, by decide +kernel, ?_, by decide +kernel⟩
  exact List.eq_nil_of_length_eq_zero (by decide +kernel)

/-- An event from outside is due. -/
theorem witness_input : ((nextInput (began { State.reset with script := [(0, .ptpEventTx)] })).map fun e => e.1) = some .ptpEventTx := by
  decide +kernel

def placed0 : Ctx := placeCtx State.reset ⟨.core 0 0, 0⟩ false

theorem witness_fetch : adding.ctx ⟨.core 0 0, 0⟩ = some placed0 ∧
    plainPieces (checkAccess adding.mem adding.hub adding.free (whoStream adding placed0 .C) .fetch false (placed0.stream .C).pc.toNat 4) = true ∧
    decodesTo 0x01060840 (.add 3 1 2) = true ∧ vectorWord 0x01060840 = false ∧ 0x01060840 / 2 ^ 29 % 8 ≠ 7 ∧
    coreOn adding (.core 0 0) (fun k => !k.used &&
      (match ready adding placed0 .C with
      | some p => (match p.got with
        | .word i => decide (i = .add 3 1 2)
        | _ => false)
      | none => false) && (readyOf adding k.id).length == 1) = true := by decide +kernel

theorem witness_encodings : (Instr.rwfree 255 511 63).wf = true ∧ (encode (.rwfree 255 511 63)).isSome = true ∧
    (encodeUop (.uopLoop 15 16383)).isSome = true ∧ decodesTo 0x01060840 (.add 3 1 2) = true ∧ decodeUop (4 * 2 ^ 60) = some .uopSafe := by
  decide +kernel

theorem witness_canonical : Memory.wf adding.mem.hbm = true ∧ nextOf (step adding) (fun t => Memory.wf t.mem.hbm) = true := by decide +kernel

/-! ## Single steps, worked out by hand -/

/-- The last result put in flight by the current stream. -/
def result (t : State) (r : StreamRef) : Option Word :=
  (t.ctx r.ctx).bind fun c => (c.stream r.st).flight.getLast?.map fun f => f.val

/-- s1 and s2 of a job. -/
def regs (a b : Word) : State := on r0 (upd c0 .C fun t => setReg 1 a (setReg 2 b t))

def gives (i : Instr) (a b v : Word) : Bool := nextOf (exec i (regs a b)) fun t => decide (result t r0 = some v)

theorem test_integers : [gives (.add 3 1 2) (-1) 1 0, gives (.sub 3 1 2) 0 1 (-1), gives (.sll 3 1 2) 1 65 2,
    gives (.sra 3 1 2) 0x8000000000000000 63 (-1), gives (.srl 3 1 2) 0x8000000000000000 63 1, gives (.slt 3 1 2) (-1) 0 1,
    gives (.sltu 3 1 2) (-1) 0 0, gives (.min 3 1 2) (-1) 0 (-1), gives (.minu 3 1 2) (-1) 0 0, gives (.mulh 3 1 2) (-1) 1 (-1),
    gives (.mulhu 3 1 2) (-1) (-1) (-2), gives (.addi 3 1 0x400) 0 0 (-1024), gives (.sltiu 3 1 0x7FF) 5 0 1,
    gives (.lsi 1 0x1FFFF) 1 0 0x3FFFF, gives (.li 3 0x10000) 0 0 (-65536), gives (.cmpge 3 1 2) 0 (-1) 1,
    gives (.cmpgeu 3 1 2) 0 (-1) 0].all id = true := by decide +kernel

/-- Table 3.5. -/
theorem test_divider : [gives (.divs 3 1 2) 0x8000000000000000 (-1) 0x8000000000000000, gives (.rems 3 1 2) 0x8000000000000000 (-1) 0,
    gives (.divs 3 1 2) (-7) 0 (-1), gives (.divs 3 1 2) 7 0 1, gives (.rems 3 1 2) (-7) 2 (-1), gives (.divs 3 1 2) (-7) 2 (-3),
    gives (.divn 3 1 2) 7 0 (-1), gives (.remn 3 1 2) 7 0 7].all id = true := by decide +kernel

/-- The divider sets DZ with its result. -/
theorem test_divide_by_zero_sets_dz : nextOf (exec (.divn 3 1 2) (regs 7 0)) (fun t =>
    (t.ctx r0.ctx).any fun c => decide ((c.stream .C).fflags = 0) &&
      decide (((c.stream .C).flight.getLast?.map fun f => f.flags) = some 0b01000)) = true := by decide +kernel

/-- `TRAP 5` in the job's C stream: handler at 0x800, cause word 0x0005_0012, resume point 0x10000. -/
theorem test_trap_enters_handler : nextOf (exec (.trap 5) (on r0 c0)) (fun t => (t.ctx r0.ctx).any fun c =>
    decide ((c.stream .C).pc = 0x800) && (c.stream .C).mode && decide ((c.stream .C).epc = 0x10000) &&
    decide ((c.stream .C).ecause = 0x50012)) = true := by decide +kernel

/-- A K word in job mode is a privilege trap (cause 2, engine 7). -/
theorem test_privilege : nextOf (exec (.halt 1) (on r0 c0)) (fun t => (t.ctx r0.ctx).any fun c =>
    decide ((c.stream .C).ecause = 0x702)) = true := by decide +kernel

/-- A taken `BTR`: two delay slots, then the target. -/
theorem test_transfer : nextOf (exec (.btrAlways 1) (on r0 (upd c0 .C fun t => { t with b := t.b.set 1 0x20000 }))) (fun t =>
    (t.ctx r0.ctx).any fun c => decide ((c.stream .C).pc = 0x10004) && decide ((c.stream .C).advance.pc = 0x10008) &&
      decide ((c.stream .C).advance.advance.pc = 0x20000)) = true := by decide +kernel

/-- A word stored at 0x8000 lies there with its lowest byte first, and its signed half is loaded back. -/
theorem test_store_is_little_endian : nextOf (exec (.sw 2 1 0) (mapped r0 (upd cMem .C (setReg 2 0x8765FEDC)))) (fun t =>
    decide (hbmGets t.mem (hubKey t.mem) 0x8000 5 = [0xDC, 0xFE, 0x65, 0x87, 0]) &&
    nextOf (exec (.lh 3 1 0) { t with cur := some r0 }) (fun u => decide (result u r0 = some (-292)))) = true := by decide +kernel

/-- A misaligned atomic traps with cause 3 and its address. -/
theorem test_misaligned : nextOf (exec (.amod 9 1 2 .add) (mapped r0 (upd cMem .C (setReg 1 0x8001)))) (fun t =>
    (t.ctx r0.ctx).any fun c => decide ((c.stream .C).ecause = 3) && decide ((c.stream .C).eaddr = 0x8001)) = true := by decide +kernel

/-- An `AMOD add` returns the old value and stores the sum. -/
theorem test_atomic_add : nextOf (exec (.amod 9 1 2 .add) (mapped r0 cMem)) (fun t => decide (result t r0 = some 0) &&
    decide (hbmGets t.mem (hubKey t.mem) 0x8000 2 = [0x10, 0x80])) = true := by decide +kernel

/-- Vector registers 1 and 2 of a job, and what a word leaves in element 0 of `w` bits of register 3. -/
def lanes (a b : Nat) : State := on r0 { c0 with v := (c0.v.set 1 (BitVec.ofNat 2048 a)).set 2 (BitVec.ofNat 2048 b) }

def elem0 (i : Instr) (w a b : Nat) (v : Nat) : Bool := nextOf (exec i (lanes a b)) fun t =>
  (t.ctx r0.ctx).any fun c => velem (c.vreg 3) w 0 == v

/-- 1.5 + 2.25 = 3.75; 1.5 × −2 = −3; 3 ÷ 0 = +∞; √2; the square root of −1 is the canonical NaN; −0 below +0 for `VMIN`; 1.5 in `bf16` to
`f32`; −1.5 to `i32` by ties-to-even is −2. -/
theorem test_floats : [elem0 (.vadd 3 1 2 .F 0 false) 32 0x3FC00000 0x40100000 0x40700000,
    elem0 (.vmul 3 1 2 .F 0 false) 32 0x3FC00000 0xC0000000 0xC0400000, elem0 (.vdiv 3 1 2 .F 0 false) 32 0x40400000 0 0x7F800000,
    elem0 (.vsqrt 3 1 .F 0 false) 32 0x40000000 0 0x3FB504F3, elem0 (.vsqrt 3 1 .F 0 false) 32 0xBF800000 0 0x7FC00000,
    elem0 (.vmin 3 1 2 .F 0 false) 32 0 0x80000000 0x80000000, elem0 (.vcvt 3 1 .B .F 0 false) 32 0x3FC0 0 0x3FC00000,
    elem0 (.vcvt 3 1 .F .I 0 false) 32 0xBFC00000 0 0xFFFFFFFE, elem0 (.vneg 3 1 .B 0 false) 16 0x3F80 0 0xBF80,
    elem0 (.vexp2 3 1 .F 0 false) 32 0x40400000 0 0x41000000, elem0 (.vrcp 3 1 .F 0 false) 32 0x40800000 0 0x3E800000].all id = true := by
  decide +kernel

theorem test_vector_integers : [elem0 (.vadd 3 1 2 .I 0 false) 32 0xFFFFFFFF 1 0, elem0 (.vmin 3 1 2 .N 0 false) 32 0xFFFFFFFF 1 1,
    elem0 (.vmin 3 1 2 .I 0 false) 32 0xFFFFFFFF 1 0xFFFFFFFF, elem0 (.vsra 3 1 2 .I 0 false) 32 0x80000000 31 0xFFFFFFFF,
    elem0 (.vsll 3 1 2 .I 0 false) 32 1 33 2, elem0 (.vdiv 3 1 2 .I 0 false) 32 7 0 1].all id = true := by decide +kernel

/-- A cell set to 2 arrivals has expect 2, pending 2 and phase 0; the last arrival of a phase flips it. -/
theorem test_phase_cells : nextOf (exec (.pinit 8 0 2) (on r0 cCells)) (fun t => (t.ctx r0.ctx).any fun c =>
      (c.handle 8).any fun h => cellRow h 0 == 0x0002000200000000) &&
    nextOf (exec (.parrive 8 1) (on r0 cCells)) (fun t => (t.ctx r0.ctx).any fun c =>
      (c.handle 8).any fun h => cellRow h 1 == 0x0001000100000001) = true := by decide +kernel

/-- A slot of a ring is claimed: its index comes back, and one claim is counted. -/
theorem test_ring_claim : nextOf (exec (.rclaim 8 2 5) (on r0 cCells)) (fun t => decide (result t r0 = some 0) &&
    (t.ctx r0.ctx).any fun c => (c.handle 8).any fun h => cellRow h 2 == 0x0000000201000001) = true := by decide +kernel

/-- `HALLOC` of an `f32` tile of two rows of 64 takes bank 0. -/
theorem test_halloc : nextOf (exec (.halloc 20 4) (on r0 cAlloc)) (fun t =>
    ((t.ctx r0.ctx).any fun c => (c.handle 20).any fun h => decide (h.banks = [0])) &&
    coreOn t (.core 0 0) fun k => decide ((k.banks.get 0).owner = some (0, 20)) && decide ((k.banks.get 0).fmt = 10)) = true := by decide +kernel

/-- A queued word enters its queue with the value of its register; a guard slot is resolved; a second resolution is guard misuse. -/
theorem test_queue_and_guard : nextOf (exec (.copy .always 10 3) (on r0 cRow)) (fun t => (t.ctx r0.ctx).any fun c =>
      c.cmds.length == 1 && c.cmds.all fun d => decide (d.sval = 1) && decide (d.q = .L)) &&
    nextOf (exec (.gseti 0 true) (on r0 c0)) (fun t => (t.ctx r0.ctx).any fun c => decide (c.g.get 0 = some true)) &&
    nextOf (exec (.gseti 0 true) (on r0 { c0 with g := c0.g.set 0 (some true) })) (fun t => (t.ctx r0.ctx).any fun c =>
      decide ((c.stream .C).ecause = 0x1060A)) = true := by decide +kernel

/-- A step of the whole machine runs the word at the pc: `ADD`, whose result is in flight when the pc has moved on. -/
theorem test_step_runs_add : nextOf (step adding) (fun t => (t.ctx ⟨.core 0 0, 0⟩).any fun c =>
    decide ((c.stream .C).pc = 0x10004) && (c.stream .C).flight.length == 1) = true := by decide +kernel

/-- Table 4.14, and the borderline words below it. -/
theorem test_program_a : ([(0x11820016, .bpt 1 22), (0x0E025801, .cmpne 1 11 0), (0x13000820, .btr 1 1), (0x00800000, .nop),
    (0xC0840002, .pinit 8 0 2), (0xC80B0000, .gset 0 3), (0xCA3C0004, .fork .l .default 4), (0x0D2A0005, .li 21 5),
    (0xC2840000, .pwait 8 0 false), (0x42000D42, .mma .always 3 20 true false), (0x42841147, .drain (.onTrue 0) 4 20 7),
    (0x42C41146, .drain (.onFalse 0) 4 20 6), (0x42801147, .drain .always 4 20 7)] : List (Nat × Instr)).all
    (fun p => decodesTo p.1 p.2) = true ∧ refusedBy 0x42C01147 .guard = true := by decide +kernel

/-! ## More premises: struck rows, device pages, adjoint accesses, array commands, the router -/

/-- A divide word in flight, discarded or not, behind a later result for another register. -/
def dividing (dead : Bool) : Ctx := upd c0 .C fun t => { t with flight := [⟨0, .s 3, 7, 0, .divider, dead, false⟩, ⟨1, .s 4, 7, 0, .divider, false, false⟩] }

theorem witness_dividerLands : ∀ dead, (on r0 (dividing dead)).ctx r0.ctx = some (dividing dead) ∧
    ((dividing dead).stream .C).flight.find? (fun g => g.seq == 0) = some ⟨0, .s 3, 7, 0, .divider, dead, false⟩ ∧
    ∀ d ∈ (on r0 (dividing dead)).ctxs, d.id.core = r0.ctx.core → ∀ y, ∀ g ∈ (d.stream y).flight, g.due = .divider → 0 ≤ g.seq :=
  fun _ => ⟨rfl, rfl, fun _ _ _ _ _ _ _ => Nat.zero_le _⟩

/-- Targets at the boundaries of R86: misaligned, at the last address, past it, and both. -/
theorem witness_registerTargets : (2 : Word).toNat % 4 ≠ 0 ∧ (0xFFFFFFFFFFFFC : Word).toNat < 2 ^ 52 ∧ 2 ^ 52 ≤ (0x10000000000000 : Word).toNat ∧
    (0x10000000000002 : Word).toNat % 4 ≠ 0 ∧ 2 ^ 52 ≤ (0x10000000000002 : Word).toNat ∧ (on rS cS).issuer rS cS ∧ rS.ctx.core.isSup = true :=
  ⟨by decide, by decide, by decide, by decide, by decide, issuer_on _ _ rfl rfl, rfl⟩

/-- The supervisor's page tables map a device page of 2 MiB at a physical address. -/
def devMapped (pa : Nat) : State :=
  let s := mapped rS cSup
  s.setMem (hbmSets s.mem (hubKey s.mem) 0x4000 (leBytes 8 (2 ^ 63 + 2 ^ 61 + 2 ^ 11 + pa + 2 * 4 + 3)))

/-- One piece of a device page, at an offset of it. -/
def devPiece (pa va : Nat) (k : Kind) : Bool :=
  let s := devMapped pa
  match checkAccess s.mem s.hub s.free (Claims.accessWho s rS cSup) k true va 8 with
  | .ok q => (match q.2 with
    | [p] => p.leaf.dev && p.pa == pa + va
    | _ => false)
  | _ => false

/-- The leaf of a device page, whose write bit is set. -/
def devLeaf (pa va : Nat) : Bool :=
  let s := devMapped pa
  match translate s.mem s.hub s.free (Claims.accessWho s rS cSup) va with
  | .ok q => (match q.2 with
    | some l => l.dev && l.w && l.pa + va % l.size == pa + va
    | none => false)
  | _ => false

/-- Device accesses at the ends of HBM, of host memory and of the hub's window, and just outside. -/
theorem witness_devicePages :
    ([(2 ^ 39 - 2 ^ 21, 0x1FFFF8), (0x200000000000, 0), (0x300000000000 - 2 ^ 21, 0x1FFFF8), (0x3FFFFFE00000, 0x1F0000),
      (0x3FFFFFE00000, 0x1FFFF8)] : List (Nat × Nat)).all (fun e => devPiece e.1 e.2 .load && devPiece e.1 e.2 .store) = true ∧
    ([(2 ^ 39, 0), (0x200000000000 - 2 ^ 21, 0x1FFFF8), (0x300000000000, 0), (0x3FFFFFE00000, 0x1EFFF8)] : List (Nat × Nat)).all
      (fun e => devLeaf e.1 e.2) = true ∧ (Claims.accessWho (devMapped 0) rS cSup).region = none := by decide +kernel

/-- Handles with a line that an error has struck: the second half of row 1 of a tile, the cells and rings of handle 8. -/
def tileBad : Handle := { tile9 with bad := [(3, 0)] }
def cellsBad : Handle := { cells8 with bad := [(0, 0)] }

theorem witness_struckRows : tileBad.meets 1 (rowSpan 10 (rowBytes 10 tileBad.cols) 0 false).1 (rowSpan 10 (rowBytes 10 tileBad.cols) 0 false).2 = true ∧
    tileBad.meets 0 (rowSpan 10 (rowBytes 10 tileBad.cols) 0 false).1 (rowSpan 10 (rowBytes 10 tileBad.cols) 0 false).2 = false ∧
    tileBad.meets 1 0 128 = false ∧ tileBad.meets 1 0 129 = true ∧ cellsBad.meets 1 0 16 = true ∧ cells8.meets 1 0 16 = false ∧
    blocksStruck 10 1 tile9 1 0 = false := by decide +kernel

/-- A command of the copy queue reads the struck row. -/
theorem witness_struckCommand : (let d := { cmd1 .L (.copy .always 10 0) .queued with reads := [⟨9, 1, 1⟩] }
    let c := { cWith [d] with handles := [tileBad, recs10] }
    cmdHead c .L = some d ∧ rangeHeld c d = false ∧ cmdStruck c d = true ∧ cmdStruck c { d with reads := [⟨9, 0, 0⟩] } = false) := by decide +kernel

/-- `HFMT` and `HFREE` of a handle that an earlier command uses. -/
theorem witness_handlesInUse : (on r0 cUses).issuer r0 cUses ∧ cUses.handle 9 = some tile9 ∧ tile9.kind = .tile ∧ 0 < tile9.rows ∧
    ((cUses.stream .C).sreg 6).toNat / 2 ^ 48 = 0 ∧ ((cUses.stream .C).sreg 6).toNat % 2 ^ 40 = 0 ∧
    ((cUses.stream .C).sreg 6).toNat / 2 ^ 44 % 16 = 10 ∧ rowBytes 10 tile9.cols ≤ tile9.pitch := ⟨issuer_on _ _ rfl rfl, by decide +kernel⟩

/-! Accesses of D-regions -/

/-- The differentiable page, whose shadow windows map to the same memory. -/
def adjMapped (r : StreamRef) (c : Ctx) : State :=
  let s := diffMapped r c
  s.setMem (hbmSets (hbmSets s.mem (hubKey s.mem) 0x1040 (leBytes 8 0x2001)) (hubKey s.mem) 0x8000 (leBytes 16 (2 ^ 52 + 0x100000 + 7 * 2 ^ 64)))

/-- One page of a type at 0x100000. -/
def region3 (k : Fin 4) : DRegion := ⟨3, 0x100000, 1, k⟩

/-- A job in an adjoint mode, with the region, and a tape of which so many bytes are used; s1 names the region's first element, s2 its last 4 bytes, s3
an address 4 bytes before it, s4 and s5 are commands of a `VXC`. -/
def cDreg (m : Fin 4) (k : Fin 4) (used lim : Nat) : Ctx :=
  { upd c0 .C fun t => setReg 1 0x100000 (setReg 2 0x100FFC (setReg 3 0xFFFFC (setReg 4 (1 + 1 * 2 ^ 15) (setReg 5 (2 ^ 15) t)))) with
    dmode := m, dregs := [region3 k], tapeBase := 0x8000, tapePos := BitVec.ofNat 64 (0x8000 + used), tapeLim := BitVec.ofNat 64 (0x8000 + lim)
    p := c0.p.set 1 1 }
def onDreg (m : Fin 4) (k : Fin 4) (used lim : Nat) : State := adjMapped r0 (cDreg m k used lim)

theorem issuer_dreg (m k : Fin 4) (u l : Nat) : (onDreg m k u l).issuer r0 (cDreg m k u l) := by
  simp [onDreg, adjMapped, diffMapped, State.issuer, mapped, State.setMem, placeIn, State.ctx]
  exact ⟨rfl, rfl⟩

/-- A check or an access as its answer's test; a failing one as its cause. -/
def gotIs {α : Type} (g : Got α) (f : α → Bool) : Bool :=
  match g with
  | .ok x => f x
  | _ => false

def failsWith {α : Type} (g : Got α) (k d : Nat) : Bool :=
  match g with
  | .fail a b _ => a == k && b == d
  | _ => false

/-- Accesses of the region at its edges: inside, past the end, before the start. -/
theorem witness_meetsRegion : Claims.meetsRegion (cDreg 1 2 0 256) 0x100000 8 (region3 2) ∧ Claims.meetsRegion (cDreg 1 2 0 256) 0x100FFC 8 (region3 2) ∧
    Claims.meetsRegion (cDreg 1 2 0 256) 0xFFFFC 8 (region3 2) ∧ (region3 2).covers 0x100FF8 8 = true ∧ (region3 2).covers 0x100FFC 8 = false ∧
    (region3 2).covers 0xFFFFC 8 = false ∧ (8 : Nat) = dtSize (region3 2).type ∧ (4 : Nat) ≠ dtSize (region3 2).type ∧
    Claims.meetsRegion (cDreg 2 2 0 256) 0x100000 8 (region3 2) ∧ (cDreg 1 2 0 256).dmode ≠ 0 :=
  ⟨⟨by decide, by decide +kernel⟩, ⟨by decide, by decide +kernel⟩, ⟨by decide, by decide +kernel⟩, by decide, by decide, by decide, rfl, by decide,
    ⟨by decide, by decide +kernel⟩, by decide⟩

/-- A tape with room for one record, without, and in the region; a push, a recorded store, and their trap. -/
theorem witness_pushes1 :
    (let s := onDreg 1 2 0 16
     let w := Claims.accessWho s r0 (cDreg 1 2 0 16)
     gotIs (storeVirt s w .store false 0x8000 (leBytes 16 (2 * 2 ^ 52 + 0x100000))) (fun _ => true) = true ∧
     gotIs (pushTape s r0.ctx w 0 2 0x100000) (fun _ => true) = true ∧
     gotIs (recordElem (Claims.accessState s r0 (cDreg 1 2 0 16)) r0.ctx w 2 0x100000 (leBytes 8 5)) (fun _ => true) = true ∧
     gotIs (loadVirt (Claims.accessState s r0 (cDreg 1 2 0 16)) w .load true 0x100000 8) (fun _ => true) = true) ∧
    failsWith (recordElem (onDreg 1 2 0 15) r0.ctx (Claims.accessWho (onDreg 1 2 0 15) r0 (cDreg 1 2 0 15)) 2 0x100000 (leBytes 8 5)) 8 0 = true ∧
    (region3 2).touches 0x100FF0 16 = true ∧ inShadow (2 ^ 51) = true ∧ inShadow (2 ^ 51 - 1) = false := by decide +kernel

theorem witness_recordAtomic :
    let s := onDreg 1 2 0 16
    let c := cDreg 1 2 0 16
    let w0 := Claims.accessWho s r0 c
    let w : Who := { w0 with clk := Clock.join w0.clk (atomAcquire (Claims.accessState s r0 c) w0 0x100000 8) }
    gotIs ((checkAccess s.mem s.hub s.free w .atomic false 0x100000 8).bind fun q =>
      (pushTape ((Claims.accessState s r0 c).setMem q.1) r0.ctx w (leValue (readPieces q.1 w0 .atomic q.2).1) 2 0x100000).bind fun u =>
        atomicVirt u w0 0x100000 8 fun b => some (leBytes 8 (leValue b + 1))) (fun _ => true) = true := by decide +kernel

/-- Reverse mode: an accumulation, a pop, a pop whose record is of another element, a pop from an empty tape. -/
theorem witness_pops :
    let s := onDreg 2 0 16 16
    let c := cDreg 2 0 16 16
    let w := Claims.accessWho s r0 c
    let t := Claims.accessState s r0 c
    gotIs (checkAccess s.mem s.hub s.free (Who.atCell w s (region3 0) 0x100000) .atomic false (shadowOf 0 0x100000) 4)
      (fun q => q.2.all fun p => p.leaf.coh) = true ∧
    gotIs (accumCell t w (region3 0) 0x100000 (f32.decode 0)) (fun _ => true) = true ∧
    gotIs (popBlock t r0.ctx w [(region3 0, 0x100000)]) (fun q => q.1.length == 1) = true ∧
    gotIs (checkPop t w [(region3 0, 0x100000)]) (fun _ => true) = true ∧
    failsWith (popBlock t r0.ctx w [(region3 0, 0x100004)]) 7 65 = true ∧
    failsWith (popBlock (onDreg 2 0 0 16) r0.ctx w [(region3 0, 0x100000)]) 7 64 = true := by decide +kernel

def insideOf (a : DAccess) : Bool :=
  match a with
  | .inside r => decide (r = region3 0)
  | _ => false

def straddlesAt (a : DAccess) : Bool :=
  match a with
  | .straddles k => k == 3
  | _ => false

/-- `VLDM` and `VSTM` of one lane in the region, of 64 across its end; `VXC` words of one lane. -/
theorem witness_vectorRegion :
    let es := vElems (region3 0) ((cDreg 1 0 16 256).preg 1) 0x100000
    let s := onDreg 1 0 16 256
    let w := Claims.accessWho s r0 (cDreg 1 0 16 256)
    let v := onDreg 2 0 16 256
    let x := Claims.accessWho v r0 (cDreg 2 0 16 256)
    insideOf (vAccess (cDreg 1 0 16 256) (vruns ((cDreg 1 0 16 256).preg 1) 0x100000)) = true ∧
    straddlesAt (vAccess (cDreg 1 0 16 256) (vruns ((cDreg 1 0 16 256).preg 0) 0x100FFC)) = true ∧
    gotIs (checkRuns s.mem s.hub s.free w .store (vruns ((cDreg 1 0 16 256).preg 1) 0x100000)) (fun q => gotIs (recordElems
      ((Claims.accessState s r0 (cDreg 1 0 16 256)).setMem q.1) r0.ctx w 0 (es.map fun (e : Nat × Nat) => ((0 : Fin 4), e.2, leBytes 4 0))).2.2 (fun _ => true)) = true ∧
    failsWith (recordElems (onDreg 1 0 16 16) r0.ctx w 0 (es.map fun (e : Nat × Nat) => ((0 : Fin 4), e.2, leBytes 4 0))).2.2 8 0 = true ∧
    gotIs (checkCells (Claims.accessState v r0 (cDreg 2 0 16 256)) x (es.map fun (e : Nat × Nat) => (region3 0, e.2))) (fun t =>
      gotIs (accumCells t x 0 (es.map fun (e : Nat × Nat) => ((region3 0, e.2), vAdjoint (region3 0) 0))) fun _ => true) = true ∧
    gotIs (popBlock (Claims.accessState v r0 (cDreg 2 0 16 256)) r0.ctx x (es.map fun (e : Nat × Nat) => (region3 0, e.2))) (fun _ => true) = true := by
  decide +kernel

/-- The places of a `VXC` that inverts. -/
def invertsAt (m : Fin 4) (kind : Fin 5) (q : SReg) (f : State → Who → List (Nat × DElem) → Bool) : Bool :=
  let c := cDreg m 0 16 256
  let s := onDreg m 0 16 256
  let w := whoVxc (Claims.accessState s r0 c) (s.placed r0 c)
  vxcOn kind.val ((c.stream .C).sreg q) ((c.stream .C).sreg 1) fun cmd =>
    gotIs (checkElems (Claims.accessState s r0 c) (s.here r0 c) w cmd (kind == 1) s.mem (vactives (c.preg cmd.pred) cmd.width)) fun r =>
      let iv := invElems (cmd.width / 8) r.2
      decide (iv.length = 1) && f ((Claims.accessState s r0 c).setMem (notePlaces r.1 w (if kind = 1 then .store else .load) (plainPlaces r.2)).1) w iv

theorem witness_vxcInverts :
    invertsAt 1 1 4 (fun z w iv => gotIs (recordElems z r0.ctx w 0 (iv.map fun e => (e.2.1.type, e.2.2, leBytes 4 0))).2.2 fun _ => true) = true ∧
    invertsAt 2 1 4 (fun z w iv => gotIs (popBlock z r0.ctx w (iv.map fun e => e.2)) fun _ => true) = true ∧
    invertsAt 2 0 5 (fun z w iv => gotIs (checkCells z w (iv.map fun e => e.2)) fun t =>
      gotIs (accumCells t w 0 (iv.map fun e => (e.2, vAdjoint e.2.1 0))) fun _ => true) = true ∧
    handleBusy ((on r0 cUses).placed r0 cUses) ((on r0 cUses).place r0) 9 true = true := by decide +kernel

/-- Streams that `CSRR` names: live, and never forked; an empty context. -/
def cLive (r : Run) : Ctx := upd (upd c0 .C fun t => { setReg 1 (2 ^ 63 + 3) t with mode := true }) .L fun t => { t with run := r }

theorem witness_systemRegistersMore : (∀ r, (on r0 (cLive r)).issuer r0 (cLive r)) ∧ ((cLive .run).stream .C).sreg 1 = 2 ^ 63 + 3 ∧ streamEng .L = 3 ∧
    ((cLive .run).stream .L).stopped = false ∧ ((cLive .run).stream .L).run.live = true ∧ ((cLive .off).stream .L).run.live = false ∧
    Claims.supIssuer (on rS cSup) rS cSup ∧ ((cSup.stream .C).sreg 2).toNat = 0 * 2 ^ 11 + 0 * 2 ^ 4 + 0 * 2 ^ 3 + streamEng .C ∧
    (on rS cSup).ctx ⟨.core 0 0, 0⟩ = none :=
  ⟨fun _ => issuer_on _ _ rfl rfl, by decide +kernel, rfl, by decide +kernel, by decide +kernel, by decide +kernel, ⟨issuer_on _ _ rfl rfl, rfl, rfl, rfl⟩,
    by decide +kernel, by decide +kernel⟩

/-- What `KEYSET` has read leaves no dirty line that a stack does not take. -/
theorem witness_keyset : gotIs (loadVirt (Claims.accessState (mapped rS cSup) rS cSup) (Claims.accessWho (mapped rS cSup) rS cSup) .load false 0x8000 80)
    (fun q => q.2.mem.dieLines.all fun x => decide (x.dirty = 0) || stackReady q.2.hub (x.line * 128)) = true := by decide +kernel

/-! Commands of the A queue that run -/

/-- A tile of eight rows of 256 in a format of bank 0; a command on it, at the head of its queue; its job has the lease. -/
def tileIn (f : Fin 16) (p : Nat) (data : List Host.Cell) : Handle :=
  { tile9 with l2 := true, rows := 8, cols := 256, pitch := p, l2fmt := f, data := data }
def aRun (i : Instr) (sv : Word) : Cmd := { cmd1 .A i .queued with sval := sv }
def cRun (i : Instr) (sv : Word) (f : Fin 16) (p : Nat) : Ctx := { c0 with cmds := [aRun i sv], handles := [tileIn f p []] }
def leased (c : Ctx) : State := withLease (on r0 c) fun a => { a with holder := some r0.ctx }

def runsNow (c : Ctx) (d : Cmd) : Bool :=
  cmdsRun c && decide (cmdHead c .A = some d) && decide (d.prog = .queued) && decide (guardSays c 0 (Instr.guard d.word) = some true) &&
  !rangeHeld c d && !cmdStruck c d && leaseOpen (leased c) r0.ctx

/-- An operand that R163 accepts. -/
def operandOk (c : Ctx) (d : Cmd) (f : Fin 16) : Bool :=
  match c.handle 9 with
  | some y => decide (y.kind = .tile) && decide (f = handleFmt (leased c) c y) && decide (svRow d.sval.toNat < y.rows) &&
      (!isBx f || svCol d.sval.toNat % 32 == 0)
  | none => false

theorem witness_arrayCommands : ([(.bload .always 9 0 true, 7, 1, 256), (.bload .always 9 0 false, 0, 10, 1024), (.bload .always 9 0 true, 0, 15, 264),
      (.mma .always 9 0 true true, 0, 9, 512), (.mma .always 9 0 false false, 0, 1, 256), (.mma3 .always 9 0 false, 0, 10, 1024),
      (.drain .always 9 0 8, 2 ^ 32 * 255, 10, 1024), (.drain .always 9 0 4, 2 ^ 32 * 224, 14, 272), (.dbias .always 9 0, 7, 10, 1024),
      (.dclamp .always 9 0, 0, 10, 1024)] : List (Instr × Word × Fin 16 × Nat)).all (fun e =>
    runsNow (cRun e.1 e.2.1 e.2.2.1 e.2.2.2) (aRun e.1 e.2.1) && operandOk (cRun e.1 e.2.1 e.2.2.1 e.2.2.2) (aRun e.1 e.2.1) e.2.2.1 &&
    decide (rowBytes e.2.2.1 256 ≤ e.2.2.2)) = true ∧ runsNow (cRun (.dtt .always 0) 4095 10 1024) (aRun (.dtt .always 0) 4095) = true ∧ ((tileIn 1 256 []).rows ≤ svRow (8 : Word).toNat) ∧
    (slotAccepts 9 9 = true ∧ slotAccepts 14 15 = true ∧ slotAccepts 9 1 = false) ∧ c0.slot0 = none ∧
    ({ tileIn 10 1024 [] with cols := 192 } : Handle).cols % 3 = 0 ∧ c0.drain.tt = none := by decide +kernel

theorem leased_ctx (c : Ctx) (h : c.id = r0.ctx) : (leased c).ctx r0.ctx = some c := by
  simp [leased, withLease, on, State.ctx, h]

theorem witness_slots (f : Fin 16) : Claims.slotOf ⟨f, true, List.replicate 256 (List.replicate 128 .zero)⟩ 128 ∧
    Claims.slotOf ⟨f, false, List.replicate 256 (List.replicate 256 .zero)⟩ 256 ∧ ∀ a, (c0.accRow a).length = 256 := by
  refine ⟨⟨List.length_replicate, fun l hl => ?_⟩, ⟨List.length_replicate, fun l hl => ?_⟩, fun a => ?_⟩
  · rw [List.eq_of_mem_replicate hl]; exact List.length_replicate
  · rw [List.eq_of_mem_replicate hl]; exact List.length_replicate
  · rw [Ctx.accRow, show c0.acc = [] from rfl, assocGet]; exact List.length_replicate

/-- A plan of two points, of radix 2; one of the spherical transform of degree 0, with its nodes in row 0 of handle 8 and its output in handle 7. -/
def fftPlan : Nat := 2 ^ 64 + 2 ^ 80
def shtPlan : Nat := 1 + 8 * 2 ^ 40 + 7 * 2 ^ 57
def tileAt (h : HId) (f : Fin 16) : Handle := { tile9 with id := h, l2 := true, rows := 2, cols := 64, pitch := 512, l2fmt := f }
def planCmd (i : Instr) : Cmd := aRun i 0
def cPlan (i : Instr) (v : Nat) : Ctx :=
  { c0 with
    cmds := [planCmd i], plans := c0.plans.set 3 (some ⟨leBytes 32 v, 2⟩)
    handles := [{ tileAt 9 10 with data := Memory.sets [] 0 (leBytes 32 v) }, tileAt 8 11, tileAt 7 10] }

def shtRuns (inverse : Bool) : Bool :=
  let c := cPlan (.shtf .always 9 0 3) shtPlan
  gotIs (runSht (leased c) c (tileAt 9 10) 10 0 3 inverse) fun _ => true

theorem witness_transforms : (([(.plan .always 9 0 3, fftPlan), (.plan .always 9 0 3, 16), (.fft .always 9 0 3, fftPlan), (.ifft .always 9 0 3, shtPlan),
      (.shtf .always 9 0 3, shtPlan), (.shti .always 9 0 3, shtPlan)] : List (Instr × Nat)).all fun e =>
        runsNow (cPlan e.1 e.2) (planCmd e.1) && operandOk (cPlan e.1 e.2) (planCmd e.1) 10) = true ∧
    (planOf fftPlan).isSome = true ∧ (planOf 16).isNone = true ∧ (planOf shtPlan).isSome = true ∧ 32 ≤ rowBytes 10 64 ∧
    (match (cPlan (.fft .always 9 0 3) fftPlan).plan 3 with
      | some (.fft n rs wide scale batch es bs) => decide (n = 2) && decide (rs = [2]) && !wide && scale.isNone && decide (batch = 1) &&
          decide (10 = precFmt wide) && decide (2 * ((batch - 1) * bs + (n - 1) * es) + 2 ≤ (2 - 0) * 64)
      | _ => false) = true ∧
    shtRuns false = true ∧ shtRuns true = true := by decide +kernel

theorem witness_discardedPlan : (let d := aRun (.plan (.onTrue 0) 9 0 3) 0
    let c := { cPlan (.fft .always 9 0 3) fftPlan with cmds := [d], g := c0.g.set 0 (some false) }
    cmdHead c .A = some d ∧ guardSays c 0 (.onTrue 0) = some false) := by decide +kernel

/-! The router, lanes, collectives, the host, errors -/

theorem witness_laneDark : (∀ n, (laneOf (lane3 4 n) 2 3).state = 4) ∧ (laneOf (lane3 4 15) 2 3).fails < 16 ∧ 16 ≤ (laneOf (lane3 4 16) 2 3).fails ∧
    (laneOf (lane3 4 0) 2 3).fails = 0 ∧ (laneOf (lane3 4 1) 2 3).fails ≠ 0 := by
  refine ⟨fun n => ?_, by decide +kernel⟩
  rfl

theorem witness_routerBits : State.reset.hub.routerOn = false ∧ State.reset.hub.forwards = false ∧ State.reset.hub.portsOn = false ∧
    (routing State.reset).hub.routerOn = true ∧ (routing State.reset).hub.forwards = true ∧ (routing State.reset).hub.portsOn = true ∧
    (routing State.reset).router = State.reset.router := by
  refine ⟨by decide +kernel, by decide +kernel, by decide +kernel, by decide +kernel, by decide +kernel, by decide +kernel, rfl⟩

/-- The end of a collective, at a cell with an arrival to come, and at a row that no handle has. -/
def cEnd : Ctx := { cEnding with handles := [tile9, cells8] }
def endsAt (row : HId × Nat) : Got (State × Cmd) :=
  cmdArrive (putStatus ((on r0 cEnd).mapCtx r0.ctx fun y => y.putStream .C ((y.stream .C).orFlags 4)) r0.ctx ending 1 0) r0.ctx ending row

theorem witness_endingCells : (on r0 cEnd).ctx r0.ctx = some cEnd ∧ cEnd.cmd ending.seq = some ending ∧ gotIs (endsAt (8, 1)) (fun _ => true) = true ∧
    failsWith (endsAt (7, 0)) 5 7 = true := ⟨rfl, rfl, by decide +kernel⟩

theorem witness_lostPieces : ∀ f : Fid, piecesHere State.reset (travDesc (leBytes 128 (2 ^ 192))) (travOf1 f [(1, 1)]) 1 < 1 := by
  intro f
  have : State.reset.router.locals ++ State.reset.router.waitq = [] := rfl
  unfold piecesHere
  rw [this]
  exact Nat.zero_lt_one

theorem witness_evictions : dieFind lined.mem 1 7 = some ⟨1, 7, List.replicate 128 0, 1, 0, false⟩ ∧ stackReady lined.hub (7 * 128) = false ∧
    stackReady (lined.setHub { lined.hub with rdyHub := 4096 }).hub (7 * 128) = true := by decide +kernel

/-- A line of the booted image is struck, or the first behind it. -/
theorem witness_bootErrors : mayReady booting.hub (.cluster 63) = true ∧ mayReady booting.hub (.port 63) = true ∧ mayReady booting.hub (.hub 2) = false ∧
    31 * 128 < max booting.hub.bootLen 64 ∧ max booting.hub.bootLen 64 ≤ 32 * 128 ∧ State.reset.hub.quoting = false ∧
    (State.reset.setHub { State.reset.hub with quoting := true }).hub.quoting = true := by decide +kernel

/-- The lines about a region table at 0xA000; a byte of a handle. -/
theorem witness_errorSites : (let h : HubSt := { State.reset.hub with rcbase := 0xA000 }
      0x9FFF / 128 < h.rcbase.toNat / 128 ∧ h.rcbase.toNat / 128 ≤ 0xA000 / 128 ∧ (0xA000 + 262143) / 128 ≤ (h.rcbase.toNat + 262143) / 128 ∧
      (h.rcbase.toNat + 262143) / 128 < (0xA000 + 262144) / 128) ∧ trapEntry State.reset 0x9FFF = false ∧ (on r0 cRow).ctx r0.ctx = some cRow ∧ cRow.handle 9 = some tile9 ∧
    1 < tile9.rows ∧ 255 < tile9.pitch := by decide +kernel

/-- A module with power that has lost another, and whose next step runs the word at the pc. -/
def bereft (f : Fid) : State := { adding with router := { adding.router with lost := [f] } }

theorem witness_lostStays : ∃ f : Fid, f ∈ (bereft f).router.lost ∧ (bereft f).hub.powered = true ∧ nextOf (step (bereft f)) (fun _ => true) = true :=
  ⟨5, by decide +kernel⟩

end Sys2Proof.Tests
end

section
/-! Every step keeps memory canonical (O60). One lemma for each function of the model, in the order of the definitions: `mem_f` where the
function leaves memory alone, `canonical_f` or `all_f` where it keeps it canonical, `canonicalNext_x` for the meaning of a word or event. -/

namespace Sys2Proof.Machine

/-! ## Answers whose states keep HBM canonical -/

/-- Every value with which an access goes on satisfies `P`. -/
def Got.All {α : Type} (P : α → Prop) : Got α → Prop
  | .ok a => P a
  | .fail _ _ _ => True
  | .stall => True

/-- Every state in which a word ends has a canonical memory. -/
def Res.canonical : Res → Prop
  | .done s => s.mem.canonical
  | .moved s => s.mem.canonical
  | .hold s => s.mem.canonical
  | .wait => True
  | .stall => True
  | .trap s _ => s.mem.canonical

/-- The state that a step leaves, if it leaves one, has a canonical memory. -/
def CanonicalNext : Host.Outcome State Fault Refusal → Prop
  | .next s => s.mem.canonical
  | .fault _ => True
  | .refused _ => True

@[simp] theorem Got.all_ok {α : Type} (P : α → Prop) (a : α) : (Got.ok a).All P ↔ P a := Iff.rfl
@[simp] theorem Got.all_fail {α : Type} (P : α → Prop) (c d e : Nat) : (Got.fail c d e : Got α).All P ↔ True := Iff.rfl
@[simp] theorem Got.all_stall {α : Type} (P : α → Prop) : (Got.stall : Got α).All P ↔ True := Iff.rfl

@[simp] theorem Res.canonical_done (s : State) : (Res.done s).canonical ↔ s.mem.canonical := Iff.rfl
@[simp] theorem Res.canonical_moved (s : State) : (Res.moved s).canonical ↔ s.mem.canonical := Iff.rfl
@[simp] theorem Res.canonical_hold (s : State) : (Res.hold s).canonical ↔ s.mem.canonical := Iff.rfl
@[simp] theorem Res.canonical_wait : Res.wait.canonical ↔ True := Iff.rfl
@[simp] theorem Res.canonical_stall : Res.stall.canonical ↔ True := Iff.rfl
@[simp] theorem Res.canonical_trap (s : State) (c : Cause) : (Res.trap s c).canonical ↔ s.mem.canonical := Iff.rfl

@[simp] theorem canonicalNext_next (s : State) : CanonicalNext (.next s) ↔ s.mem.canonical := Iff.rfl
@[simp] theorem canonicalNext_fault (f : Fault) : CanonicalNext (.fault f) ↔ True := Iff.rfl
@[simp] theorem canonicalNext_refused (r : Refusal) : CanonicalNext (.refused r) ↔ True := Iff.rfl

/-- A chain of accesses: what holds of the first one's value carries on to the next. -/
theorem Got.All.bind {α β : Type} {P : α → Prop} {Q : β → Prop} {x : Got α} {f : α → Got β} (hx : x.All P)
    (hf : ∀ a, P a → (f a).All Q) : (x.bind f).All Q := by
  cases x with
  | ok a => exact hf a hx
  | fail c d e => trivial
  | stall => trivial

/-- A chain whose first access says nothing of use. -/
theorem Got.all_bind {α β : Type} {Q : β → Prop} {x : Got α} {f : α → Got β} (hf : ∀ a, (f a).All Q) : (x.bind f).All Q := by
  cases x with
  | ok a => exact hf a
  | fail c d e => trivial
  | stall => trivial

theorem Got.All.of_ok {α : Type} {P : α → Prop} {x : Got α} (h : ∀ a, x = .ok a → P a) : x.All P := by
  cases x with
  | ok a => exact h a rfl
  | fail c d e => trivial
  | stall => trivial

theorem Got.All.ok {α : Type} {P : α → Prop} {x : Got α} {a : α} (hx : x.All P) (h : x = .ok a) : P a := by subst h; exact hx

/-- The end of a word that makes an access. -/
theorem Got.All.res {α : Type} {P : α → Prop} {x : Got α} {s : State} {eng : Nat} {f : α → Res} (hx : x.All P) (hs : s.mem.canonical)
    (hf : ∀ a, P a → (f a).canonical) : (x.res s eng f).canonical := by
  cases x with
  | ok a => exact hf a hx
  | fail c d e => exact hs
  | stall => trivial

/-- A choice between two states that are both canonical. -/
theorem canonical_if {p : Prop} [Decidable p] {s t : State} (hs : s.mem.canonical) (ht : t.mem.canonical) :
    (if p then s else t).mem.canonical := by
  split
  · exact hs
  · exact ht

theorem canonical_setHub {s : State} {h : HubSt} (hs : s.mem.canonical) : (s.setHub h).mem.canonical := hs
theorem canonical_setRouter {s : State} {r : RouterSt} (hs : s.mem.canonical) : (s.setRouter r).mem.canonical := hs
theorem canonical_setMem {s : State} {m : MemSt} (hm : m.canonical) : (s.setMem m).mem.canonical := hm
theorem canonical_putCtx {s : State} {c : Ctx} (hs : s.mem.canonical) : (s.putCtx c).mem.canonical := hs
theorem canonical_putCore {s : State} {c : CoreSt} (hs : s.mem.canonical) : (s.putCore c).mem.canonical := hs

/-- An update made once for each entry of a list. -/
theorem canonical_foldl {α : Type} {f : State → α → State} (hf : ∀ t a, t.mem.canonical → (f t a).mem.canonical) (l : List α) {s : State}
    (hs : s.mem.canonical) : (l.foldl f s).mem.canonical := by
  induction l generalizing s with
  | nil => exact hs
  | cons a l ih => exact ih (hf s a hs)

/-- An update of a memory made once for each entry of a list. -/
theorem canonical_foldl_mem {α : Type} {f : MemSt → α → MemSt} (hf : ∀ m a, m.canonical → (f m a).canonical) (l : List α) {m : MemSt}
    (hm : m.canonical) : (l.foldl f m).canonical := by
  induction l generalizing m with
  | nil => exact hm
  | cons a l ih => exact ih (hf m a hm)

/-! ## Accesses of a memory -/

theorem canonical_readPieces {m : MemSt} (w : Who) (k : Kind) (ps : List Piece) (h : m.canonical) : (readPieces m w k ps).2.canonical :=
  canonical_of_hbm h (hbm_readPieces m w k ps)

theorem all_checkAccess {m : MemSt} {h : HubSt} {free : Nat} {w : Who} {k : Kind} {dev8 : Bool} {va len : Nat} (hm : m.canonical) :
    (checkAccess m h free w k dev8 va len).All fun r => r.1.canonical :=
  .of_ok fun _ e => canonical_of_hbm hm (hbm_checkAccess e)

/-! ## Operations that leave memory alone -/

@[simp] theorem mem_putStream (s : State) (r : StreamRef) (t : Stream) : (s.putStream r t).mem = s.mem := by
  unfold State.putStream; split <;> rfl

@[simp] theorem mem_mapStream (s : State) (r : StreamRef) (f : Stream → Stream) : (s.mapStream r f).mem = s.mem := by
  unfold State.mapStream; split <;> rfl

@[simp] theorem mem_setClock (s : State) (w : Who) (k : Clock) : (setClock s w k).mem = s.mem := by
  unfold setClock
  split
  · rfl
  · split
    · rfl
    · split <;> rfl

@[simp] theorem mem_takenUp (s : State) (r : StreamRef) : (takenUp s r).mem = s.mem := by
  unfold takenUp
  split
  · split <;> rfl
  · rfl

@[simp] theorem mem_returnTrap (s : State) (x : Ctx) : (returnTrap s x).mem = s.mem := by
  unfold returnTrap; split <;> rfl

@[simp] theorem mem_takeSeq (s : State) : (takeSeq s).2.mem = s.mem := rfl
@[simp] theorem mem_at_put (a : At) (s : State) (t : Stream) : (a.put s t).mem = s.mem := mem_putStream s a.ref t
@[simp] theorem mem_landV (a : At) (s : State) (d : Dst) (fl : BitVec 5) (due : Due) : (a.landV s d fl due).mem = s.mem :=
  mem_mapStream s a.ref _

/-! ## Writes of Cairn and the hub, traps -/

theorem canonical_storeNow {s t : State} {x : WaitStore} (hs : s.mem.canonical) (h : storeNow s x = some t) : t.mem.canonical := by
  unfold storeNow at h
  split at h
  · split at h
    · next r hr =>
      cases h
      exact canonical_writePieces _ _ _ _ ((all_checkAccess hs).ok hr)
    · cases h; exact hs
    · cases h
  · split at h
    · cases h; exact hs
    · split at h
      · cases h
        exact canonical_of_hbm (canonical_hbmSets _ _ _ hs) (hbm_unpoison _ _ _)
      · cases h

theorem canonical_storeOrWait {s : State} {x : WaitStore} (hs : s.mem.canonical) : (storeOrWait s x).mem.canonical := by
  unfold storeOrWait
  split
  · next t h =>
    split at h
    · cases h
    · exact canonical_storeNow hs h
  · exact hs

theorem canonical_cairnStore {s : State} {va : Nat} {bs : List Byte} (hs : s.mem.canonical) : (cairnStore s va bs).mem.canonical :=
  canonical_storeOrWait hs

theorem canonical_physStore {s : State} {pa : Nat} {bs : List Byte} (hs : s.mem.canonical) : (physStore s pa bs).mem.canonical :=
  canonical_storeOrWait hs

theorem canonical_rasLog {s : State} {kind addr loc count : Nat} (hs : s.mem.canonical) : (rasLog s kind addr loc count).mem.canonical := by
  unfold rasLog
  dsimp only
  split
  · exact hs
  · exact canonical_physStore hs

theorem canonical_writeGraphState {s : State} {g : Graph} {st : Fin 6} (hs : s.mem.canonical) : (writeGraphState s g st).mem.canonical :=
  canonical_cairnStore hs

theorem canonical_faultDomain {s : State} {fdom : Nat} (hs : s.mem.canonical) : (faultDomain s fdom).mem.canonical :=
  canonical_foldl (fun _ _ => canonical_writeGraphState) _ hs

theorem canonical_dumpStore {s : State} {bs : List Byte} (hs : s.mem.canonical) : (dumpStore s bs).mem.canonical := by
  unfold dumpStore
  dsimp only
  split
  · exact hs
  · exact canonical_of_hbm (canonical_hbmSets _ _ _ hs) (hbm_unpoison _ _ _)

theorem canonical_fatalError {s : State} {power : Bool} (hs : s.mem.canonical) : (fatalError s power).mem.canonical :=
  canonical_dumpStore (canonical_rasLog hs)

theorem canonical_takeTrap {s : State} {ref : StreamRef} {c : Cause} {pc : Word} {qcmd : Bool} (hs : s.mem.canonical) :
    (takeTrap s ref c pc qcmd).mem.canonical := by
  unfold takeTrap
  split
  · exact hs
  · split
    · exact hs
    · split
      · exact canonical_fatalError hs
      · split
        · exact hs
        · dsimp only
          split
          · exact canonical_faultDomain hs
          · exact hs

theorem canonical_trapWord {s : State} {ref : StreamRef} {c : Cause} (hs : s.mem.canonical) : (trapWord s ref c).mem.canonical := by
  unfold trapWord
  split
  · exact hs
  · exact canonical_takeTrap hs

/-! ## Issuing a word -/

theorem mem_at {s t : State} {a : At} (h : s.at = some (a, t)) : t.mem = s.mem := by
  unfold State.at at h
  split at h
  · cases h
  · split at h
    · cases h
    · split at h <;> cases h <;> rfl

theorem canonical_finish {s : State} {a : At} {w : Instr} {r : Res} (hs : s.mem.canonical) (hr : r.canonical) :
    (finish s a w r).mem.canonical := by
  cases r with
  | done t => simpa [finish] using hr
  | moved t => simpa [finish] using hr
  | hold t => simpa [finish] using hr
  | wait => simpa [finish] using hs
  | stall => simpa [finish] using hs
  | trap t c => exact canonical_trapWord hr

/-- A word keeps memory canonical when its body does. -/
theorem canonicalNext_issue {s : State} {w : Instr} {body : At → State → Res} (hs : s.mem.canonical)
    (hb : ∀ a t, t.mem.canonical → (body a t).canonical) : CanonicalNext (issue s w body) := by
  unfold issue
  split
  · trivial
  · next a t h =>
    have ht : t.mem.canonical := mem_at h ▸ hs
    split
    · exact canonical_trapWord ht
    · exact canonical_finish ht (hb a t ht)

theorem canonical_expose {s : State} {a : At} {d : Dst} {v : Word} {lat : Nat} (hs : s.mem.canonical) : (a.expose s d v lat).canonical := by
  simpa [At.expose] using hs

theorem canonical_interlock {s : State} {a : At} {d : Dst} {v : Word} (hs : s.mem.canonical) : (a.interlock s d v).canonical := by
  simpa [At.interlock] using hs

/-! ## Hub registers -/

theorem canonical_chkMap {s : State} {v : Word} (hs : s.mem.canonical) : (chkMap s v).mem.canonical :=
  canonical_if hs (canonical_if hs (canonical_if hs hs))

theorem canonical_chkUnmap {s : State} {v : Word} (hs : s.mem.canonical) : (chkUnmap s v).mem.canonical :=
  canonical_if hs (canonical_if hs hs)

theorem canonical_setLane {s : State} {p : Port} {l : Lane} {st : Fin 6} (hs : s.mem.canonical) : (setLane s p l st).mem.canonical :=
  canonical_if hs (canonical_rasLog hs)

theorem canonical_relight {s : State} {h0 : HubSt} {p : Port} (hs : s.mem.canonical) : (relight h0 p s).mem.canonical :=
  canonical_foldl (fun _ _ ht => canonical_if (canonical_setLane ht) ht) _ hs

theorem canonical_writeLightReq {s : State} {p : Port} {v : Word} (hs : s.mem.canonical) : (writeLightReq s p v).mem.canonical :=
  canonical_relight hs

theorem canonical_writeLightGrant {s : State} {p : Port} {v : Word} (hs : s.mem.canonical) : (writeLightGrant s p v).mem.canonical :=
  canonical_relight hs

theorem canonical_writePortCfg {s : State} {p : Port} {v : Word} (hs : s.mem.canonical) : (writePortCfg s p v).mem.canonical :=
  canonical_relight hs

@[simp] theorem mem_dropRetired (s : State) (d : Die) (k : Fin 96) : (dropRetired s d k).mem = s.mem := by
  unfold dropRetired; split <;> rfl

theorem canonical_retireCore {s : State} {d : Die} {k : Fin 96} (hs : s.mem.canonical) : (retireCore s d k).mem.canonical := by
  rw [retireCore, mem_dropRetired]
  exact canonical_setHub (canonical_rasLog (canonical_setHub hs))

theorem canonical_retireBank {s : State} {d : Die} {k b : Fin 96} (hs : s.mem.canonical) : (retireBank s d k b).mem.canonical :=
  canonical_setHub (canonical_rasLog (canonical_setHub hs))

theorem canonical_retireLane {s : State} {p : Port} {l : Lane} (hs : s.mem.canonical) : (retireLane s p l).mem.canonical :=
  canonical_setHub (canonical_rasLog (canonical_setLane (canonical_setHub hs)))

theorem canonical_repairRow {s : State} {j : Fin 8} {row : BitVec 32} (hs : s.mem.canonical) : (repairRow s j row).mem.canonical :=
  canonical_if hs (canonical_setHub (canonical_rasLog (canonical_setHub hs)))

theorem canonical_writeRpCmd {s : State} {v : Word} (hs : s.mem.canonical) : (writeRpCmd s v).mem.canonical := by
  unfold writeRpCmd
  dsimp only
  refine canonical_if hs ?_
  split
  · split
    · exact canonical_if (canonical_retireCore hs) hs
    · exact hs
  · split
    · exact canonical_if (canonical_retireBank hs) hs
    · exact hs
  · exact canonical_if (canonical_retireLane hs) hs
  · exact canonical_if (canonical_repairRow hs) hs
  · exact hs

/-- A register write keeps memory canonical, whichever register it names: the cases are those of `hubWrite`, in its order. -/
theorem canonical_hubWrite {s : State} {off : Nat} {v : Word} {manager : Bool} (hs : s.mem.canonical) :
    (hubWrite s off v manager).mem.canonical := by
  have hh : ∀ h, (s.setHub h).mem.canonical := fun _ => hs
  unfold hubWrite
  dsimp only
  refine canonical_if (hh _) (canonical_if (canonical_chkMap hs) (canonical_if (canonical_chkUnmap hs) (canonical_if (hh _) (canonical_if
    (canonical_setRouter hs) (canonical_if (hh _) (canonical_if (hh _) (canonical_if (hh _) (canonical_if ?port ?_))))))))
  case port =>
    split
    · exact canonical_writePortCfg hs
    · exact hh _
    · exact hh _
    · exact hs
  exact canonical_if (canonical_if (hh _) hs) (canonical_if (canonical_if (hh _) hs) (canonical_if (canonical_if hs hs) (canonical_if
    (hh _) (canonical_if (hh _) (canonical_if (hh _) (canonical_if (hh _) (canonical_if (canonical_writeRpCmd hs) (canonical_if
    (canonical_if (hh _) hs) (canonical_if (canonical_if (hh _) hs) (canonical_if (canonical_if (canonical_writeLightReq hs)
    (canonical_if (canonical_writeLightGrant hs) hs)) (canonical_if (hh _) hs)))))))))))

/-! ## Accesses by virtual address -/

theorem canonical_devWrite {s : State} {p : Piece} {v : Word} (hs : s.mem.canonical) : (devWrite s p v).mem.canonical :=
  canonical_if (canonical_hubWrite hs) (canonical_if hs (canonical_hbmSets _ _ _ hs))

theorem all_loadVirt {s : State} {w : Who} {k : Kind} {dev8 : Bool} {va n : Nat} (hs : s.mem.canonical) :
    (loadVirt s w k dev8 va n).All fun r => r.2.mem.canonical := by
  refine (all_checkAccess hs).bind fun r hr => ?_
  split
  · split
    · exact hr
    · exact canonical_readPieces _ _ _ hr
  · exact canonical_readPieces _ _ _ hr

theorem all_storeVirt {s : State} {w : Who} {k : Kind} {dev8 : Bool} {va : Nat} {bs : List Byte} (hs : s.mem.canonical) :
    (storeVirt s w k dev8 va bs).All fun t => t.mem.canonical := by
  refine (all_checkAccess hs).bind fun r hr => ?_
  split
  · split
    · exact canonical_devWrite hr
    · exact canonical_writePieces _ _ _ _ hr
  · exact canonical_writePieces _ _ _ _ hr

theorem canonical_atomPerform {m : MemSt} {w : Who} {ps : List Piece} {f : List Byte → Option (List Byte)} (hm : m.canonical) :
    (atomPerform m w ps f).2.1.canonical := by
  unfold atomPerform
  dsimp only
  split
  · exact canonical_foldl_mem (fun _ _ h => canonical_of_hbm h (hbm_atomRelease ..)) _ (canonical_writePieces _ _ _ _ hm)
  · exact canonical_readPieces _ _ _ hm

theorem all_atomicVirt {s : State} {w : Who} {va n : Nat} {f : List Byte → Option (List Byte)} (hs : s.mem.canonical) :
    (atomicVirt s w va n f).All fun r => r.2.mem.canonical := by
  refine (all_checkAccess hs).bind fun r hr => ?_
  simpa using canonical_atomPerform hr

/-! ## Accesses to D-regions -/

theorem all_pushTape {s : State} {x : CtxId} {w : Who} {old wcode va : Nat} (hs : s.mem.canonical) :
    (pushTape s x w old wcode va).All fun t => t.mem.canonical := by
  unfold pushTape
  split
  · exact hs
  · dsimp only
    split
    · trivial
    · split
      · trivial
      · refine (all_storeVirt hs).bind fun t ht => ?_
        rw [Got.all_ok]
        split <;> exact ht

theorem all_recordElem {s : State} {x : CtxId} {w : Who} {t : Fin 4} {a : Nat} {bs : List Byte} (hs : s.mem.canonical) :
    (recordElem s x w t a bs).All fun t => t.mem.canonical := by
  unfold recordElem
  split
  · trivial
  · refine (all_checkAccess hs).bind fun r hr => ?_
    exact (all_pushTape (s := s.setMem r.1) hr).bind fun u hu => all_storeVirt hu

theorem canonical_recordElems {s : State} {x : CtxId} {w : Who} {n : Nat} {l : List (Fin 4 × Nat × List Byte)} (hs : s.mem.canonical) :
    (recordElems s x w n l).1.mem.canonical := by
  induction l generalizing s n with
  | nil => exact hs
  | cons e es ih =>
    unfold recordElems
    split
    · next u hu => exact ih ((all_recordElem hs).ok hu)
    · exact hs
    · exact hs

theorem all_checkCell {s : State} {w : Who} {r : DRegion} {a : Nat} (hs : s.mem.canonical) :
    (checkCell s w r a).All fun t => t.mem.canonical := by
  unfold checkCell
  split
  · trivial
  · refine (all_checkAccess hs).bind fun q hq => ?_
    split
    · exact hq
    · trivial

theorem all_accumCell {s : State} {w : Who} {r : DRegion} {a : Nat} {g : Num} (hs : s.mem.canonical) :
    (accumCell s w r a g).All fun q => q.1.mem.canonical :=
  (all_checkCell hs).bind fun _ h1 => (all_atomicVirt h1).bind fun _ hq => hq

theorem all_checkCells {s : State} {w : Who} {l : List DElem} (hs : s.mem.canonical) :
    (checkCells s w l).All fun t => t.mem.canonical := by
  induction l generalizing s w with
  | nil => exact hs
  | cons a l ih => exact (all_checkCell hs).bind fun _ ht => ih ht

theorem all_accumCells {s : State} {w : Who} {fl : FFlags} {l : List (DElem × Num)} (hs : s.mem.canonical) :
    (accumCells s w fl l).All fun q => q.1.mem.canonical := by
  induction l generalizing s fl with
  | nil => exact hs
  | cons e l ih => exact (all_accumCell hs).bind fun _ hq => ih hq

theorem all_checkPop {s : State} {w : Who} {l : List DElem} (hs : s.mem.canonical) :
    (checkPop s w l).All fun t => t.mem.canonical := by
  induction l generalizing s w with
  | nil => exact hs
  | cons a l ih =>
    exact (all_checkCell hs).bind fun t ht => (all_checkAccess ht).bind fun q hq => ih (s := t.setMem q.1) hq

theorem all_runPop {s : State} {w : Who} {l : List (DElem × Nat)} (hs : s.mem.canonical) :
    (runPop s w l).All fun r => r.2.mem.canonical := by
  induction l generalizing s w with
  | nil => exact hs
  | cons e l ih =>
    exact (all_atomicVirt hs).bind fun _ hq => (all_storeVirt hq).bind fun _ ht => (ih ht).bind fun _ hz => hz

theorem all_popBlock {s : State} {x : CtxId} {w : Who} {l : List DElem} (hs : s.mem.canonical) :
    (popBlock s x w l).All fun r => r.2.mem.canonical := by
  unfold popBlock
  split
  · exact hs
  · dsimp only
    split
    · trivial
    · refine (all_loadVirt hs).bind fun q hq => ?_
      split
      · trivial
      · refine (all_checkPop hq).bind fun t ht => (all_runPop ht).bind fun z hz => ?_
        rw [Got.all_ok]
        dsimp only
        split <;> exact hz

theorem all_checkDregPages {s : State} {w : Who} {va n : Nat} (hs : s.mem.canonical) :
    (checkDregPages s w va n).All fun t => t.mem.canonical := by
  induction n generalizing s va with
  | zero => exact hs
  | succ n ih =>
    refine (all_checkAccess hs).bind fun q hq => ?_
    split
    · exact ih (s := s.setMem q.1) hq
    · trivial

/-! ## Bodies of the control words -/

theorem canonical_srrBody {d : SReg} {n : SysReg} {w : At} {t : State} (ht : t.mem.canonical) : (srrBody d n w t).canonical := by
  unfold srrBody
  split
  · exact ht
  · exact canonical_expose ht

theorem canonical_srwBody {a : SReg} {n : SysReg} {w : At} {t : State} (ht : t.mem.canonical) : (srwBody a n w t).canonical := by
  unfold srwBody
  repeat' split
  all_goals exact ht

theorem canonical_divS {a : At} {t : State} {d : SReg} {r : Nat × FFlags} (ht : t.mem.canonical) : (divS a t d r).canonical := by
  simpa [divS] using ht

theorem canonical_transfer {w : At} {t : State} {link : Option SReg} {b : BReg} {taken : Bool} (ht : t.mem.canonical) :
    (transfer w t link b taken).canonical := by
  simpa [transfer] using ht

theorem canonicalNext_bpt {b : BReg} {i : BitVec 17} {s : State} (hs : s.mem.canonical) : CanonicalNext (execBpt b i s) := by
  refine canonicalNext_issue hs fun w t ht => ?_
  dsimp only
  split
  · exact ht
  · exact canonical_expose ht

theorem canonicalNext_bptr {b : BReg} {a : SReg} {i : BitVec 11} {s : State} (hs : s.mem.canonical) : CanonicalNext (execBptr b a i s) := by
  refine canonicalNext_issue hs fun w t ht => ?_
  dsimp only
  split
  · exact ht
  · split
    · exact ht
    · exact canonical_expose ht

theorem canonicalNext_bjt {b : BReg} {a i : SReg} {s : State} (hs : s.mem.canonical) : CanonicalNext (execBjt b a i s) := by
  refine canonicalNext_issue hs fun w t ht => ?_
  dsimp only
  split
  · exact ht
  · refine (all_loadVirt ht).res ht fun r hr => (all_loadVirt hr).res ht fun q hq => ?_
    split
    · exact ht
    · exact canonical_interlock hq

theorem canonicalNext_waitt {a : SReg} {s : State} (hs : s.mem.canonical) : CanonicalNext (execWaitt a s) := by
  refine canonicalNext_issue hs fun w t ht => ?_
  split
  · exact ht
  · simpa using ht

theorem canonical_dregBody {x : Fin 64} {y : SReg} {w : At} {t : State} (ht : t.mem.canonical) : (dregBody x y w t).canonical := by
  unfold dregBody
  dsimp only
  split
  · exact ht
  · split
    · exact ht
    · refine (all_checkDregPages ht).res ht fun q hq => ?_
      split
      · exact ht
      · exact hq

theorem canonical_dmodeBody {m : DMode} {w : At} {t : State} (ht : t.mem.canonical) : (dmodeBody m w t).canonical := by
  unfold dmodeBody
  repeat' split
  all_goals exact ht

theorem canonicalNext_dunreg {x : Fin 64} {s : State} (hs : s.mem.canonical) : CanonicalNext (execDunreg x s) := by
  refine canonicalNext_issue hs fun w t ht => ?_
  split <;> exact ht

theorem canonicalNext_tlim {x : SReg} {s : State} (hs : s.mem.canonical) : CanonicalNext (execTlim x s) := by
  refine canonicalNext_issue hs fun w t ht => ?_
  dsimp only
  split <;> exact ht

theorem canonicalNext_tset {x : SReg} {s : State} (hs : s.mem.canonical) : CanonicalNext (execTset x s) := by
  refine canonicalNext_issue hs fun w t ht => ?_
  dsimp only
  repeat' split
  all_goals exact ht

/-! ## Loads, stores and atomics of the control engine -/

theorem canonical_loadBody {d a : SReg} {i : BitVec 11} {n : Nat} {sx dev8 : Bool} {w : At} {t : State} (ht : t.mem.canonical) :
    (loadBody d a i n sx dev8 w t).canonical := by
  have load : ∀ who va, ((loadVirt t who .load dev8 va n).res t 0 fun q => w.interlock q.2 (.s d) (loadValue sx q.1)).canonical :=
    fun _ _ => (all_loadVirt ht).res ht fun _ hq => canonical_interlock hq
  unfold loadBody
  dsimp only
  split
  · exact ht
  · exact load _ _
  · split
    · exact ht
    · split
      · exact load _ _
      · refine (all_accumCell ht).res ht fun q hq => ?_
        simpa using hq

theorem canonical_loadPair {d a : SReg} {i : BitVec 11} {w : At} {t : State} (ht : t.mem.canonical) : (loadPair d a i w t).canonical := by
  unfold loadPair
  dsimp only
  split
  · exact ht
  · exact ht
  · refine (all_loadVirt ht).res ht fun q hq => ?_
    simpa using hq

theorem canonical_storeBody {v a : SReg} {i : BitVec 11} {n : Nat} {dev8 : Bool} {w : At} {t : State} (ht : t.mem.canonical) :
    (storeBody v a i n dev8 w t).canonical := by
  unfold storeBody
  dsimp only
  split
  · exact ht
  · exact (all_storeVirt ht).res ht fun _ hq => hq
  · split
    · exact ht
    · split
      · exact (all_recordElem ht).res ht fun _ hq => hq
      · refine (all_popBlock ht).res ht fun q hq => ?_
        simpa using hq

theorem canonical_storePair {v a : SReg} {i : BitVec 11} {w : At} {t : State} (ht : t.mem.canonical) : (storePair v a i w t).canonical := by
  unfold storePair
  dsimp only
  split
  · exact ht
  · exact ht
  · exact (all_storeVirt ht).res ht fun _ hq => hq

theorem canonical_atomicBody {a : SReg} {n : Nat} {f : List Byte → Option (List Byte)} {w : At} {t : State}
    {k : List Byte → Stream → Stream} (ht : t.mem.canonical) : (atomicBody a n f w t k).canonical := by
  have run : ∀ u : State, u.mem.canonical → ∀ who va,
      ((atomicVirt u who va n f).res t 0 fun q => .done (q.2.mapStream w.ref (k q.1))).canonical := by
    intro u hu who va
    refine (all_atomicVirt hu).res ht fun q hq => ?_
    simpa using hq
  unfold atomicBody
  dsimp only
  split
  · exact ht
  · split
    · exact ht
    · exact run t ht _ _
    · split
      · exact ht
      · refine (all_checkAccess ht).res ht fun q hq => ?_
        exact (all_pushTape (s := t.setMem q.1) hq).res ht fun u hu => run u hu _ _

/-! ## Handles, phase cells and rings -/

theorem mem_allocHandle {s t : State} {c : Ctx} {h : HId} {d : HDesc} (e : allocHandle s c h d = .ok t) : t.mem = s.mem := by
  unfold allocHandle at e
  dsimp only at e
  split at e
  · cases e
  split at e
  · split at e <;> cases e
    rfl
  split at e
  · cases e
  split at e <;> cases e
  rfl

@[simp] theorem mem_freeHandle (s : State) (c : Ctx) (h : HId) : (freeHandle s c h).mem = s.mem := by
  unfold freeHandle
  split
  · rfl
  · dsimp only
    split <;> rfl

@[simp] theorem mem_setFmt (s : State) (c : Ctx) (x : Handle) (fmt split : Fin 16) : (setFmt s c x fmt split).mem = s.mem := by
  unfold setFmt
  dsimp only
  split <;> rfl

theorem canonicalNext_halloc {h : HId} {r : SReg} {s : State} (hs : s.mem.canonical) : CanonicalNext (execHalloc h r s) := by
  refine canonicalNext_issue hs fun w t ht => ?_
  split
  · exact ht
  · split
    · next u hu => exact canonical_of_hbm ht (congrArg MemSt.hbm (mem_allocHandle hu))
    · exact ht

theorem canonical_hfreeBody {h : HId} {w : At} {t : State} (ht : t.mem.canonical) : (hfreeBody h w t).canonical := by
  unfold hfreeBody
  repeat' split
  all_goals simpa using ht

theorem canonical_hfmtBody {h : HId} {r : SReg} {w : At} {t : State} (ht : t.mem.canonical) : (hfmtBody h r w t).canonical := by
  unfold hfmtBody
  dsimp only
  repeat' split
  all_goals simpa using ht

theorem canonical_initCell {w : At} {t : State} {i : Instr} {h : HId} {r : HRow} {n : Nat} (ht : t.mem.canonical) :
    (initCell w t i h r n).canonical := by
  unfold initCell
  dsimp only
  repeat' split
  all_goals exact ht

theorem canonicalNext_pinitr {h : HId} {r : HRow} {x : SReg} {s : State} (hs : s.mem.canonical) : CanonicalNext (execPinitr h r x s) := by
  refine canonicalNext_issue hs fun w t ht => ?_
  dsimp only
  split
  · exact ht
  · split
    · exact ht
    · exact canonical_initCell ht

theorem canonical_arriveBody {i : Instr} {h : HId} {r : HRow} {drop : Bool} {w : At} {t : State} (ht : t.mem.canonical) :
    (arriveBody i h r drop w t).canonical := by
  unfold arriveBody
  dsimp only
  repeat' split
  all_goals exact ht

theorem canonical_pwaitBody {h : HId} {r : HRow} {p : Bool} {w : At} {t : State} (ht : t.mem.canonical) : (pwaitBody h r p w t).canonical := by
  unfold pwaitBody
  repeat' split
  all_goals exact ht

/-- A word of a ring keeps memory canonical when what it does with the ring does. -/
theorem canonical_ringBody {i : Instr} {h : HId} {r : HRow} {w : At} {t : State} {f : Handle → Ring → Res} (ht : t.mem.canonical)
    (hf : ∀ x g, (f x g).canonical) : (ringBody i h r w t f).canonical := by
  unfold ringBody
  dsimp only
  split
  · exact ht
  · split
    · exact ht
    · split
      · exact ht
      · exact hf _ _

theorem canonicalNext_rinit {h : HId} {r : HRow} {x : SReg} {s : State} (hs : s.mem.canonical) : CanonicalNext (execRinit h r x s) := by
  refine canonicalNext_issue hs fun w t ht => ?_
  dsimp only
  repeat' split
  all_goals exact ht

theorem canonical_rclaimBody {h : HId} {r : HRow} {x : SReg} {w : At} {t : State} (ht : t.mem.canonical) : (rclaimBody h r x w t).canonical :=
  canonical_ringBody ht fun y g => by split <;> exact ht

theorem canonicalNext_rcommit {h : HId} {r : HRow} {x : SReg} {s : State} (hs : s.mem.canonical) : CanonicalNext (execRcommit h r x s) :=
  canonicalNext_issue hs fun w t ht => canonical_ringBody ht fun y g => by dsimp only; split <;> exact ht

theorem canonical_rwfillBody {h : HId} {r : HRow} {k : Fin 64} {w : At} {t : State} (ht : t.mem.canonical) : (rwfillBody h r k w t).canonical :=
  canonical_ringBody ht fun y g => by repeat' split
                                      all_goals exact ht

theorem canonical_rwfreeBody {h : HId} {r : HRow} {k : Fin 64} {w : At} {t : State} (ht : t.mem.canonical) : (rwfreeBody h r k w t).canonical :=
  canonical_ringBody ht fun y g => by repeat' split
                                      all_goals exact ht

theorem canonicalNext_rfree {h : HId} {r : HRow} {x : SReg} {s : State} (hs : s.mem.canonical) : CanonicalNext (execRfree h r x s) :=
  canonicalNext_issue hs fun w t ht => canonical_ringBody ht fun y g => by split <;> exact ht

/-! ## Belay, guards and forks -/

theorem mem_foldl {α : Type} {f : State → α → State} (hf : ∀ t a, (f t a).mem = t.mem) (l : List α) (s : State) :
    (l.foldl f s).mem = s.mem := by
  induction l generalizing s with
  | nil => rfl
  | cons a l ih => exact (ih (f s a)).trans (hf s a)

@[simp] theorem mem_putTag (s : State) (x : TagSt) : (putTag s x).mem = s.mem := rfl

@[simp] theorem mem_carryOne (tag : Tag) (phase : Nat) (s : State) (e : (StreamRef × Word) × Nat) : (carryOne tag phase s e).mem = s.mem := by
  unfold carryOne
  split <;> rfl

@[simp] theorem mem_settleTags (s : State) : (settleTags s).mem = s.mem := by
  refine mem_foldl (fun t x => ?_) _ s
  dsimp only
  rw [mem_putTag]
  split
  · rfl
  · exact mem_foldl (mem_carryOne _ _) _ t

theorem mem_belayArrive {w : At} {t : State} {tag : Tag} {drop : Bool} {q : State × Nat} (h : belayArrive w t tag drop = some q) :
    q.1.mem = t.mem := by
  unfold belayArrive at h
  split at h
  · cases h
  · dsimp only at h
    split at h <;> cases h
    rfl

theorem canonical_belayWait {tag : Tag} {phase : Nat} {w : At} {t : State} (ht : t.mem.canonical) : (belayWait tag phase w t).canonical := by
  unfold belayWait
  split
  · dsimp only
    split <;> exact ht
  · exact ht

theorem canonicalNext_bara {t : Tag} {s : State} (hs : s.mem.canonical) : CanonicalNext (execBara t s) := by
  refine canonicalNext_issue hs fun w u hu => ?_
  split
  · exact hu
  · next q hq => exact (congrArg MemSt.canonical (mem_belayArrive hq)).mpr hu

theorem canonicalNext_bdrop {t : Tag} {s : State} (hs : s.mem.canonical) : CanonicalNext (execBdrop t s) := by
  refine canonicalNext_issue hs fun w u hu => ?_
  split
  · exact hu
  · next q hq => exact (congrArg MemSt.canonical (mem_belayArrive hq)).mpr hu

theorem canonical_bwaitBody {tag : Tag} {w : At} {t : State} (ht : t.mem.canonical) : (bwaitBody tag w t).canonical := by
  unfold bwaitBody
  split
  · exact canonical_belayWait ht
  · split
    · exact ht
    · split
      · exact ht
      · split
        · split
          · exact canonical_belayWait ht
          · exact canonical_belayWait ht
        · exact canonical_belayWait ht

theorem canonical_barrBody {tag : Tag} {w : At} {t : State} (ht : t.mem.canonical) : (barrBody tag w t).canonical := by
  unfold barrBody
  split
  · exact canonical_belayWait ht
  · split
    · exact ht
    · next q hq => exact canonical_belayWait ((congrArg MemSt.canonical (mem_belayArrive hq)).mpr ht)

theorem canonicalNext_belayCompletion {t : Tag} {die : Option Die} {s : State} (hs : s.mem.canonical) :
    CanonicalNext (execBelayCompletion t die s) := by
  unfold execBelayCompletion
  split
  · split
    · split
      · exact hs
      · trivial
    · trivial
  · trivial

theorem canonicalNext_barrierWatchdog {x : StreamRef} {s : State} (hs : s.mem.canonical) : CanonicalNext (execBarrierWatchdog x s) := by
  unfold execBarrierWatchdog
  dsimp only
  split
  · trivial
  · split
    · split
      · split
        · exact canonical_trapWord hs
        · trivial
      · trivial
    · trivial

theorem canonical_guardBody {g : GSlot} {v : Bool} {w : At} {t : State} (ht : t.mem.canonical) : (guardBody g v w t).canonical := by
  unfold guardBody
  split <;> exact ht

theorem canonical_gclrBody {g : GSlot} {w : At} {t : State} (ht : t.mem.canonical) : (gclrBody g w t).canonical := by
  unfold gclrBody
  repeat' split
  all_goals exact ht

theorem canonical_forkBody {x : ForkStream} {r : ForkRole} {o : BitVec 18} {w : At} {t : State} (ht : t.mem.canonical) :
    (forkBody x r o w t).canonical := by
  unfold forkBody
  dsimp only
  repeat' split
  all_goals exact ht

theorem canonical_rdvBody {w : At} {t : State} (ht : t.mem.canonical) : (rdvBody w t).canonical := by
  unfold rdvBody
  split
  · split <;> exact ht
  · simpa using ht

@[simp] theorem mem_mapCtx (s : State) (x : CtxId) (f : Ctx → Ctx) : (s.mapCtx x f).mem = s.mem := by
  unfold State.mapCtx
  split <;> rfl

/-! ## Memory words of the vector unit -/

theorem canonical_vrow {w : At} {t : State} {i : Instr} {h : HId} {x : SReg} {cv : Bool} {f : Handle → Nat → Nat → Res}
    (ht : t.mem.canonical) (hf : ∀ y row c, (f y row c).canonical) : (vrow w t i h x cv f).canonical := by
  unfold vrow
  dsimp only
  split
  · exact ht
  · generalize (if cv = true then _ else _ : Bool) = bad
    cases bad
    · exact hf _ _ _
    · exact ht

theorem canonical_vldhBody {v : VReg} {x : SReg} {h : HId} {p : Fin 8} {cv : Bool} {w : At} {t : State} (ht : t.mem.canonical) :
    (vldhBody v x h p cv w t).canonical := by
  refine canonical_vrow ht fun y row c => ?_
  split
  · exact ht
  · dsimp only
    split <;> exact ht

theorem canonical_vsthBody {v : VReg} {x : SReg} {h : HId} {p : Fin 8} {cv : Bool} {w : At} {t : State} (ht : t.mem.canonical) :
    (vsthBody v x h p cv w t).canonical := by
  refine canonical_vrow ht fun y row c => ?_
  split
  · exact ht
  · dsimp only
    split
    · exact ht
    · simpa using ht

theorem all_checkPieces {m : MemSt} {h : HubSt} {free : Nat} {w : Who} {k : Kind} {dev8 : Bool} {va len fuel : Nat} (hm : m.canonical) :
    (checkPieces m h free w k dev8 va len fuel).All fun r => r.1.canonical :=
  .of_ok fun _ e => canonical_of_hbm hm (hbm_checkPieces e)

theorem all_checkRunPages {m : MemSt} {h : HubSt} {free : Nat} {w : Who} {k : Kind} {l : List (Nat × Nat)} (hm : m.canonical) :
    (checkRunPages m h free w k l).All fun r => r.1.canonical := by
  induction l generalizing m with
  | nil => exact hm
  | cons r l ih => exact (all_checkPieces hm).bind fun _ hq => (ih hq).bind fun _ hz => hz

theorem all_checkRuns {m : MemSt} {h : HubSt} {free : Nat} {w : Who} {k : Kind} {l : List (Nat × Nat)} (hm : m.canonical) :
    (checkRuns m h free w k l).All fun r => r.1.canonical :=
  (all_checkRunPages hm).bind fun _ hr => Got.all_bind fun _ => hr

theorem canonical_vldmBody {v : VReg} {x : SReg} {i : BitVec 8} {p : Fin 8} {w : At} {t : State} (ht : t.mem.canonical) :
    (vldmBody v x i p w t).canonical := by
  unfold vldmBody
  dsimp only
  split
  · exact ht
  · split
    · exact ht
    · exact (all_checkRuns ht).res ht fun q hq => canonical_readPieces _ _ _ hq
    · split
      · exact (all_checkRuns ht).res ht fun q hq => canonical_readPieces _ _ _ hq
      · refine (all_checkCells ht).res ht fun u hu => (all_accumCells hu).res ht fun q hq => ?_
        simpa using hq

theorem canonical_recordFrom {w : At} {t : State} {who : Who} {es : List (Fin 4 × Nat × List Byte)} {f : State → Res}
    (ht : t.mem.canonical) (hf : ∀ u, u.mem.canonical → (f u).canonical) : (recordFrom w t who es f).canonical := by
  have hu := canonical_recordElems (x := w.ref.ctx) (w := who) (n := w.tapedAt) (l := es.drop w.tapedAt) ht
  unfold recordFrom
  dsimp only
  split
  · next h => rw [h] at hu; exact hf _ (by simpa using hu)
  · next h => rw [h] at hu; simpa using hu
  · trivial

theorem canonical_vstmBody {v : VReg} {x : SReg} {i : BitVec 8} {p : Fin 8} {w : At} {t : State} (ht : t.mem.canonical) :
    (vstmBody v x i p w t).canonical := by
  unfold vstmBody
  dsimp only
  split
  · exact ht
  · split
    · exact ht
    · exact (all_checkRuns ht).res ht fun q hq => canonical_writePieces _ _ _ _ hq
    · split
      · exact (all_checkRuns ht).res ht fun q hq => canonical_recordFrom (t := t.setMem q.1) hq fun _ hu => hu
      · refine (all_popBlock ht).res ht fun q hq => ?_
        simpa using hq

theorem all_checkPlain {t : State} {who : Who} {store : Bool} {m : MemSt} {j a n : Nat} (hm : m.canonical) :
    (checkPlain t who store m j a n).All fun r => r.1.canonical :=
  (all_checkPieces hm).bind fun _ hq => Got.all_bind fun _ => hq

theorem all_checkElem {t : State} {w : At} {who : Who} {store : Bool} {m : MemSt} {j a n : Nat} (hm : m.canonical) :
    (checkElem t w who store m j a n).All fun r => r.1.canonical := by
  unfold checkElem
  split
  · trivial
  · split
    · trivial
    · exact all_checkPlain hm
    · split
      · trivial
      · split
        · exact (all_checkPlain hm).bind fun _ hq => hq
        · exact hm

theorem all_checkElems {t : State} {w : At} {who : Who} {c : VxcCmd} {store : Bool} {m : MemSt} {l : List Nat} (hm : m.canonical) :
    (checkElems t w who c store m l).All fun r => r.1.canonical := by
  induction l generalizing m with
  | nil => exact hm
  | cons j l ih => exact (all_checkElem hm).bind fun _ hq => (ih hq).bind fun _ hz => hz

theorem canonical_notePlaces {m : MemSt} {w : Who} {k : Kind} {l : List VPlace} (hm : m.canonical) : (notePlaces m w k l).1.canonical := by
  refine canonical_foldl_mem (fun m p h => ?_) l hm
  split
  · split
    · exact canonical_of_hbm h (hbm_raceNote _ _ _ _ _)
    · exact h
  · exact h

@[simp] theorem mem_startVxc (w : At) (t : State) (kind : Fin 5) (c : VxcCmd) (places : List VPlace) (result : Option (BitVec 2048))
    (fl : FFlags) : (startVxc w t kind c places result fl).mem = t.mem := mem_mapCtx _ _ _

theorem canonical_vxcMem {kind : Fin 5} {a b : SReg} {w : At} {t : State} (ht : t.mem.canonical) : (vxcMem kind a b w t).canonical := by
  unfold vxcMem
  split
  · trivial
  · split
    · exact ht
    · dsimp only
      refine (all_checkElems ht).res ht fun q hq => ?_
      have hu : ∀ k, (notePlaces q.1 (whoVxc t w.cx) k (plainPlaces q.2)).1.canonical := fun _ => canonical_notePlaces hq
      split
      · simpa using hu _
      · split
        · refine canonical_recordFrom (t := t.setMem _) (hu _) fun x hx => ?_
          simpa using hx
        · split
          · refine (all_popBlock (s := t.setMem _) (hu _)).res ht fun z hz => ?_
            simpa using hz
          · refine (all_checkCells (s := t.setMem _) (hu _)).res ht fun x hx => (all_accumCells hx).res ht fun z hz => ?_
            simpa using hz

theorem canonical_vxcHandle {kind : Fin 5} {a b : SReg} {w : At} {t : State} (ht : t.mem.canonical) :
    (vxcHandle kind a b w t).canonical := by
  unfold vxcHandle
  split
  · trivial
  · split
    · exact ht
    · split
      · exact ht
      · refine Got.All.res (P := fun _ => True) (.of_ok fun _ _ => trivial) ht fun ps _ => ?_
        split
        · exact ht
        · simpa using ht

theorem canonical_vxcTable {a b : SReg} {w : At} {t : State} (ht : t.mem.canonical) : (vxcTable a b w t).canonical := by
  unfold vxcTable
  split
  · trivial
  · split
    · exact ht
    · split
      · exact ht
      · split
        · exact ht
        · simpa using ht

/-! ## Data phases of the vector unit -/

theorem canonical_gatherMem {m : MemSt} {w : Who} {l : List VPlace} (hm : m.canonical) : (gatherMem m w l).2.canonical := by
  induction l generalizing m with
  | nil => exact hm
  | cons p l ih =>
    unfold gatherMem
    split
    · exact ih (canonical_of_hbm hm (hbm_noteRead ..))
    · exact ih hm

theorem canonical_scatterMem {m : MemSt} {w : Who} {n : Nat} {d : BitVec 2048} {l : List VPlace} (hm : m.canonical) :
    (scatterMem m w n d l).canonical := by
  induction l generalizing m with
  | nil => exact hm
  | cons p l ih =>
    unfold scatterMem
    split
    · exact ih (canonical_writePiece _ _ _ _ hm)
    · exact ih hm

theorem canonical_finishVxc {s : State} {c : Ctx} {v : VxcSt} (hs : s.mem.canonical) : (finishVxc s c v).mem.canonical := by
  unfold finishVxc
  dsimp only
  split
  · exact canonical_gatherMem hs
  · exact canonical_scatterMem hs
  · split <;> exact hs
  · split <;> exact hs
  · split <;> exact hs

theorem canonicalNext_vxcDataComplete {x : CtxId} {s : State} (hs : s.mem.canonical) : CanonicalNext (execVxcDataComplete x s) := by
  unfold execVxcDataComplete
  split
  · split
    · split
      · exact canonical_finishVxc hs
      · exact canonical_takeTrap hs
      · trivial
    · trivial
  · trivial

theorem canonical_vfenceBody {w : At} {t : State} (ht : t.mem.canonical) : (vfenceBody w t).canonical := by
  unfold vfenceBody
  split <;> exact ht

/-! ## The tensor table -/

theorem all_tableCheck {s : State} {c : Ctx} {w : Who} {k : Kind} {obj : Nat} {last : Option Nat} (hs : s.mem.canonical) :
    (tableCheck s c w k obj last).All fun t => t.mem.canonical := by
  unfold tableCheck
  dsimp only
  split
  · trivial
  · refine (all_checkAccess hs).bind fun h hh => ?_
    split
    · trivial
    · split
      · exact hh
      · split
        · trivial
        · refine (all_checkAccess hh).bind fun q hq => ?_
          split
          · exact hq
          · trivial

theorem all_checkPair {s : State} {w : Who} {va n : Nat} (hs : s.mem.canonical) : (checkPair s w va n).All fun q => q.1.mem.canonical :=
  (all_checkAccess hs).bind fun _ hq => hq

theorem all_scaleChecks {s : State} {c : Ctx} {w : Who} {tgt : Bool} {o e n : Nat} (hs : s.mem.canonical) :
    (scaleChecks s c w tgt o e n).All fun t => t.mem.canonical := by
  induction n generalizing s w e with
  | zero => exact (all_checkPair hs).bind fun _ hq => hq
  | succ n ih =>
    refine (all_tableCheck hs).bind fun t ht => (all_checkPair ht).bind fun q hq => Got.All.bind (P := fun r => r.1.canonical) ?_
      fun r hr => ih (s := q.1.setMem r.1) hr
    split
    · exact all_checkAccess hq
    · exact hq

theorem all_entryUpdate {s : State} {c : Ctx} {w : Who} {tgt : Bool} {e : Nat} {f : Nat → Nat} (hs : s.mem.canonical) :
    (entryUpdate s c w tgt e f).All fun t => t.mem.canonical := by
  refine Got.All.bind (P := fun r => r.2.mem.canonical) ?_ fun t ht => (all_atomicVirt ht).bind fun q hq => hq
  split
  · exact all_loadVirt hs
  · exact hs

theorem all_entryUpdates {s : State} {c : Ctx} {w : Who} {tgt : Bool} {f : Nat → Nat} {e n : Nat} (hs : s.mem.canonical) :
    (entryUpdates s c w tgt f e n).All fun t => t.mem.canonical := by
  induction n generalizing s e with
  | zero => exact hs
  | succ n ih => exact (all_entryUpdate hs).bind fun _ ht => ih ht

theorem all_headerCount {s : State} {c : Ctx} {w : Who} {o : Nat} (hs : s.mem.canonical) :
    (headerCount s c w o).All fun t => t.mem.canonical :=
  (all_atomicVirt hs).bind fun _ hq => hq

theorem all_tableExp {s : State} {c : Ctx} {w : Who} {obj e : Nat} (hs : s.mem.canonical) :
    (tableExp s c w obj e).All fun q => q.2.mem.canonical :=
  (all_tableCheck hs).bind fun _ ht => (all_loadVirt ht).bind fun _ hq => hq

theorem canonicalNext_sread {x y : SReg} {s : State} (hs : s.mem.canonical) : CanonicalNext (execSread x y s) := by
  refine canonicalNext_issue hs fun w t ht => ?_
  dsimp only
  split
  · exact ht
  · split
    · exact (all_tableCheck ht).res ht fun u hu => (all_loadVirt hu).res ht fun q hq => canonical_interlock hq
    · exact (all_tableCheck ht).res ht fun u hu => (all_loadVirt hu).res ht fun q hq => canonical_interlock hq

theorem canonical_scaleBody {i : Instr} {x : SReg} {f : Nat → Nat} {tgt : Bool} {o : Nat} {w : At} {t : State} (ht : t.mem.canonical) :
    (scaleBody i x f tgt o w t).canonical := by
  unfold scaleBody
  dsimp only
  split
  · exact ht
  · split
    · exact ht
    · exact (all_scaleChecks ht).res ht fun u hu => (all_entryUpdates hu).res ht fun q hq => (all_headerCount hq).res ht fun r hr => hr

/-! ## Queues -/

theorem canonical_enqueue {w : At} {t : State} {d : Cmd} (ht : t.mem.canonical) : (enqueue w t d).canonical := by
  unfold enqueue
  split
  · trivial
  · exact ht

@[simp] theorem mem_putCmd (s : State) (x : CtxId) (d : Cmd) : (s.putCmd x d).mem = s.mem := mem_mapCtx _ _ _

@[simp] theorem mem_mapCmd (s : State) (x : CtxId) (seq : Nat) (f : Cmd → Cmd) : (s.mapCmd x seq f).mem = s.mem := mem_mapCtx _ _ _

@[simp] theorem mem_returnGrants (s : State) (x : CtxId) (q : Queue) : (returnGrants s x q).mem = s.mem := by
  unfold returnGrants
  split
  · split <;> rfl
  · rfl

@[simp] theorem mem_dropCmd (s : State) (x : CtxId) (d : Cmd) : (dropCmd s x d).mem = s.mem := by simp [dropCmd]

@[simp] theorem mem_releaseOnPaths (s : State) (k : CoreId) (paths : BitVec 5) (seq : Nat) (c : Clock) :
    (releaseOnPaths s k paths seq c).mem = s.mem := by
  unfold releaseOnPaths
  split <;> rfl

@[simp] theorem mem_completeCmd (s : State) (x : CtxId) (d : Cmd) : (completeCmd s x d).mem = s.mem := by
  unfold completeCmd
  split
  · exact mem_dropCmd s x d
  · simp only [mem_dropCmd, mem_releaseOnPaths, State.putCtx_mem]

theorem canonical_cmdTrap {s : State} {x : CtxId} {d : Cmd} {c : Cause} (hs : s.mem.canonical) : (cmdTrap s x d c).mem.canonical :=
  canonical_takeTrap hs

theorem canonical_chainBody {i : Instr} {q : Queue} {h : HId} {x : SReg} {w : At} {t : State} (ht : t.mem.canonical) :
    (chainBody i q h x w t).canonical := by
  unfold chainBody
  dsimp only
  split
  · exact ht
  · split
    · exact ht
    · exact canonical_enqueue ht

/-! ## Copies -/

theorem all_readSide {s : State} {x : CtxId} {w : Who} {f : Fin 16} {cols : Nat} {sd : Side} {r : Nat} (hs : s.mem.canonical) :
    (readSide s x w f cols sd r).All fun q => q.2.mem.canonical := by
  unfold readSide
  split
  · exact all_loadVirt hs
  · split <;> exact hs

theorem all_checkSide {s : State} {w : Who} {f : Fin 16} {sd : Side} {r c n : Nat} (hs : s.mem.canonical) :
    (checkSide s w f sd r c n).All fun t => t.mem.canonical := by
  unfold checkSide
  split
  · exact (all_checkAccess hs).bind fun _ hq => hq
  · exact hs

theorem all_writeSide {s : State} {x : CtxId} {w : Who} {f : Fin 16} {sd : Side} {r c : Nat} {bs : List Byte} (hs : s.mem.canonical) :
    (writeSide s x w f sd r c bs).All fun t => t.mem.canonical := by
  unfold writeSide
  split
  · exact all_storeVirt hs
  · simpa using hs

theorem all_copyRow {s : State} {x : CtxId} {w : Who} {e : Xfer} {r : Nat} (hs : s.mem.canonical) :
    (copyRow s x w e r).All fun q => q.2.2.mem.canonical :=
  (all_readSide hs).bind fun _ hq => (all_writeSide hq).bind fun _ ht => ht

theorem all_readBand {s : State} {x : CtxId} {w : Who} {e : Xfer} {r n : Nat} (hs : s.mem.canonical) :
    (readBand s x w e r n).All fun q => q.2.mem.canonical := by
  induction n generalizing s r with
  | zero => exact hs
  | succ n ih => exact (all_readSide hs).bind fun _ hq => (ih hq).bind fun _ hz => hz

theorem all_checkBand {s : State} {w : Who} {e : Xfer} {rows : List (List Byte)} {r c n : Nat} (hs : s.mem.canonical) :
    (checkBand s w e rows r c n).All fun t => t.mem.canonical := by
  induction n generalizing s c with
  | zero => exact hs
  | succ n ih => exact (all_checkSide hs).bind fun _ ht => ih ht

theorem all_writeBand {s : State} {x : CtxId} {w : Who} {e : Xfer} {rows : List (List Byte)} {r c : Nat} {fl : FFlags} {n : Nat}
    (hs : s.mem.canonical) : (writeBand s x w e rows r c fl n).All fun q => q.2.mem.canonical := by
  induction n generalizing s c fl with
  | zero => exact hs
  | succ n ih => exact (all_writeSide hs).bind fun _ ht => ih ht

theorem all_copyBand {s : State} {x : CtxId} {w : Who} {e : Xfer} {r n : Nat} (hs : s.mem.canonical) :
    (copyBand s x w e r n).All fun q => q.2.2.mem.canonical :=
  (all_readBand hs).bind fun _ hq => (all_checkBand hq).bind fun _ ht => (all_writeBand ht).bind fun _ hz => hz

theorem all_checkElemsAt {s : State} {w : Who} {k : Kind} {n : Nat} {l : List (Nat × Nat)} (hs : s.mem.canonical) :
    (checkElemsAt s w k n l).All fun t => t.mem.canonical := by
  induction l generalizing s with
  | nil => exact hs
  | cons a l ih => exact (all_checkAccess hs).bind fun q hq => ih (s := s.setMem q.1) hq

theorem all_storeElems {s : State} {w : Who} {n : Nat} {bs : List Byte} {l : List (Nat × Nat)} (hs : s.mem.canonical) :
    (storeElems s w n bs l).All fun t => t.mem.canonical := by
  induction l generalizing s with
  | nil => exact hs
  | cons a l ih => exact (all_storeVirt hs).bind fun _ ht => ih ht

theorem all_loadElems {s : State} {w : Who} {n : Nat} {l : List (Nat × Nat)} (hs : s.mem.canonical) :
    (loadElems s w n l).All fun q => q.2.mem.canonical := by
  induction l generalizing s with
  | nil => exact hs
  | cons a l ih => exact (all_loadVirt hs).bind fun _ hq => (ih hq).bind fun _ hz => hz

theorem all_popRow {s : State} {c : Ctx} {w : Who} {e : Xfer} {h : HId} {row col r split : Nat} {ks : List (Option DRegion)}
    {as : List Nat} (hs : s.mem.canonical) : (popRow s c w e h row col r split ks as).All fun q => q.2.mem.canonical := by
  refine (all_checkElemsAt hs).bind fun t ht => (all_popBlock ht).bind fun q hq => (all_readSide hq).bind fun b hb =>
    (all_storeElems hb).bind fun u hu => ?_
  dsimp only
  split <;> exact hu

theorem all_accumRow {s : State} {c : Ctx} {w : Who} {e : Xfer} {h : HId} {row col r : Nat} {ks : List (Option DRegion)}
    {as : List Nat} (hs : s.mem.canonical) : (accumRow s c w e h row col r ks as).All fun q => q.2.mem.canonical := by
  refine (all_checkCells hs).bind fun t ht => (all_loadElems ht).bind fun q hq => (all_accumCells hq).bind fun z hz => ?_
  split
  · split
    · exact canonical_if hz hz
    · exact hz
  · exact hz

theorem canonical_recordRow {s : State} {x : CtxId} {w : Who} {n : Nat} {l : List (Option DRegion × Nat × List Byte)}
    (hs : s.mem.canonical) : (recordRow s x w n l).1.mem.canonical := by
  induction l generalizing s n with
  | nil => exact hs
  | cons e es ih =>
    unfold recordRow
    split
    · next u hu =>
      split at hu
      · exact ih ((all_recordElem hs).ok hu)
      · exact ih ((all_storeVirt hs).ok hu)
    · exact hs
    · exact hs

/-! ## What the units of a command leave -/

/-- The state that a move leaves, if it may be made, has a canonical memory. -/
def CanonicalSome : Option State → Prop
  | some s => s.mem.canonical
  | none => True

/-- The state in which a unit of a record ends has a canonical memory. -/
def Ran.canonical : Ran → Prop
  | .ok s _ _ => s.mem.canonical
  | .trap s _ _ _ _ _ => s.mem.canonical
  | .stall => True

/-- The state in which a row of a `DRAINM` ends has a canonical memory. -/
def MRow.canonical : MRow → Prop
  | .ok s _ _ => s.mem.canonical
  | .trap s _ _ _ _ _ => s.mem.canonical
  | .stall => True

/-- The state in which a `DRAINM` ends has a canonical memory. -/
def MRan.canonical : MRan → Prop
  | .ok s _ _ => s.mem.canonical
  | .trap s _ _ _ _ _ _ _ _ => s.mem.canonical
  | .stall => True

@[simp] theorem canonicalSome_some (s : State) : CanonicalSome (some s) ↔ s.mem.canonical := Iff.rfl

theorem CanonicalSome.of_eq {o : Option State} {t : State} (h : CanonicalSome o) (e : o = some t) : t.mem.canonical := by subst e; exact h

/-! ## Copy walks -/

theorem canonical_plainUnit {s : State} {c : Ctx} {w : Who} {e : Xfer} {k : WalkSt} {r n : Nat} (hs : s.mem.canonical) :
    (plainUnit s c w e k r n).canonical := by
  unfold plainUnit
  split
  · next q hq =>
    split at hq
    · exact (all_copyBand hs).ok hq
    · exact (all_copyRow hs).ok hq
  · exact hs
  · trivial

theorem canonical_inverseUnit {s : State} {c : Ctx} {w : Who} {e : Xfer} {k : WalkSt} {r : Nat} {as : List Nat}
    {ks : List (Option DRegion)} (hs : s.mem.canonical) : (inverseUnit s c w e k r as ks).canonical := by
  unfold inverseUnit
  split
  · split
    · next hq => exact (all_accumRow hs).ok hq
    · exact hs
    · trivial
  · split
    · split
      · next hq => exact (all_popRow hs).ok hq
      · exact hs
      · trivial
    · split
      · next q hq =>
        obtain ⟨b, hb, hq⟩ := Got.bind_ok hq
        obtain ⟨t, ht, hq⟩ := Got.bind_ok hq
        cases hq
        have ht := (all_checkElemsAt ((all_readSide hs).ok hb)).ok ht
        have hrec : ∀ ws, (recordRow t c.id w k.elemsDone ws).1.mem.canonical := fun _ => canonical_recordRow ht
        dsimp only
        split
        · next heq => exact (congrArg (fun z => z.1.mem.canonical) heq).mp (hrec _)
        · next heq => exact (congrArg (fun z => z.1.mem.canonical) heq).mp (hrec _)
        · trivial
      · exact hs
      · trivial
  · trivial

theorem canonical_runUnit {s : State} {c : Ctx} {w : Who} {e : Xfer} {k : WalkSt} {held : Bool} (hs : s.mem.canonical) :
    (runUnit s c w e k held).canonical := by
  unfold runUnit
  dsimp only
  split
  · exact canonical_plainUnit hs
  · split
    · exact hs
    · split
      · exact canonical_plainUnit hs
      · split
        · trivial
        · exact canonical_inverseUnit hs

theorem all_readLayout {s : State} {c : Ctx} {w : Who} {h : HId} {r : DataRec} (hs : s.mem.canonical) :
    (readLayout s c w h r).All fun q => q.2.mem.canonical := by
  unfold readLayout
  split
  · exact hs
  · split
    · trivial
    · refine (all_loadVirt hs).bind fun q hq => ?_
      split
      · exact hq
      · trivial

theorem all_cmdArrive {s : State} {x : CtxId} {d : Cmd} {cell : HId × Nat} (hs : s.mem.canonical) :
    (cmdArrive s x d cell).All fun q => q.1.mem.canonical := by
  unfold cmdArrive
  split
  · exact hs
  · split
    · trivial
    · dsimp only
      split
      · trivial
      · split
        · trivial
        · exact hs

@[simp] theorem mem_markKept (s : State) (x : CtxId) (i : Instr) (r : DataRec) (so dof : Int) : (markKept s x i r so dof).mem = s.mem := by
  unfold markKept
  split
  · exact mem_mapCtx _ _ _
  · rfl

theorem all_beginRecord {s : State} {c : Ctx} {d : Cmd} {h : HId} {v : Nat} {k : WalkSt} (hs : s.mem.canonical) :
    (beginRecord s c d h v k).All fun q => q.2.2.mem.canonical := by
  unfold beginRecord
  dsimp only
  split
  · trivial
  · split
    · exact hs
    · refine (all_readLayout hs).bind fun q hq => ?_
      split
      · trivial
      · refine Got.All.bind (P := fun z => z.2.mem.canonical) ?_ fun z hz => Got.All.bind (P := fun u => u.mem.canonical) ?_ fun u hu => hu
        · split
          · split
            · exact all_tableExp hq
            · exact hq
          · exact hq
        · split
          · exact all_tableCheck hz
          · exact hz

theorem canonical_copyTrap {s : State} {c : Ctx} {d : Cmd} {k : WalkSt} {fl : FFlags} {a b e : Nat} (hs : s.mem.canonical) :
    (copyTrap s c d k fl a b e).mem.canonical :=
  canonical_cmdTrap (by simpa using hs)

theorem canonical_copyUnit {s : State} {c : Ctx} {d : Cmd} {h : HId} {k : WalkSt} (hs : s.mem.canonical) :
    CanonicalSome (copyUnit s c d h k) := by
  unfold copyUnit
  split
  · exact canonical_copyTrap hs
  · split
    · exact canonical_copyTrap hs
    · split
      · split
        · split
          · trivial
          · simpa using hs
        · exact canonical_copyTrap hs
        · simpa using hs
        · dsimp only
          split
          · next hz => simpa using (all_beginRecord hs).ok hz
          · exact canonical_copyTrap (by simpa using hs)
          · trivial
      · split
        · trivial
        · have hr : ∀ e, (runUnit s c (whoCmd s c d) e k (invertersBefore s c d.seq)).canonical := fun _ => canonical_runUnit hs
          split
          · next heq => simpa [Ran.canonical] using (congrArg Ran.canonical heq).mp (hr _)
          · next heq => exact canonical_copyTrap ((congrArg Ran.canonical heq).mp (hr _))
          · trivial

theorem canonical_completeRecord {s : State} {c : Ctx} {d : Cmd} {h : HId} {k : WalkSt} (hs : s.mem.canonical) :
    CanonicalSome (completeRecord s c d h k) := by
  unfold completeRecord
  split
  · split
    · trivial
    · split
      · exact canonical_copyTrap hs
      · trivial
      · next u hu =>
        have hu : u.mem.canonical := by
          split at hu
          · exact (all_entryUpdate hs).ok hu
          · cases hu; exact hs
        dsimp only
        split
        · split
          · next hq => simpa using (all_cmdArrive (by simpa using hu)).ok hq
          · exact canonical_copyTrap (by simpa using hu)
          · trivial
        · simpa using hu
  · trivial

/-! ## Ranges -/

theorem canonical_fillPieces {m : MemSt} {w : Who} {l : List Piece} (hm : m.canonical) : (fillPieces m w l).canonical := by
  induction l generalizing m with
  | nil => exact hm
  | cons p l ih =>
    unfold fillPieces
    refine ih ?_
    split
    · split
      · exact hm
      · exact canonical_of_hbm hm (hbm_dieFills ..)
    · exact hm

theorem canonical_prefRows {s : State} {w : Who} {va pitch n r k : Nat} (hs : s.mem.canonical) :
    (prefRows s w va pitch n r k).mem.canonical := by
  induction k generalizing s r with
  | zero => exact hs
  | succ k ih =>
    unfold prefRows
    refine ih ?_
    split
    · next hq => exact canonical_fillPieces ((all_checkAccess hs).ok hq)
    · exact hs

theorem all_runPref {s : State} {c : Ctx} {d : Cmd} {h : HId} {v : Nat} (hs : s.mem.canonical) :
    (runPref s c d h v).All fun t => t.mem.canonical := by
  unfold runPref
  split
  · trivial
  · split
    · trivial
    · refine (all_readLayout hs).bind fun q hq => ?_
      split
      · trivial
      · split
        · trivial
        · exact canonical_prefRows hq

theorem canonical_rangeLines {m : MemSt} {d : Die} {drop : Bool} {line n : Nat} (hm : m.canonical) :
    (rangeLines m d drop line n).canonical := by
  induction n generalizing m line with
  | zero => exact hm
  | succ n ih =>
    refine ih ?_
    split
    · exact canonical_dropLine _ _ (canonical_writeBack _ _ hm)
    · exact canonical_writeBack _ _ hm

theorem canonical_rangeGo {s : State} {w : Who} {drop l2 : Bool} {lo i last n : Nat} (hs : s.mem.canonical) :
    (rangeGo s w drop l2 lo i last n).1.mem.canonical := by
  induction n generalizing s i with
  | zero => exact hs
  | succ n ih =>
    unfold rangeGo
    split
    · exact hs
    · dsimp only
      split
      · next q hq =>
        have hq := (all_checkAccess hs).ok hq
        refine ih ?_
        rw [State.setMem_mem]
        split
        · split
          · split
            · exact canonical_rangeLines hq
            · exact hq
          · exact hq
        · exact hq
      · exact hs
      · exact hs

theorem canonical_startRange {s : State} {c : Ctx} {d : Cmd} {h : HId} {v : Nat} {drop l2 : Bool} {from_ : Option Nat}
    (hs : s.mem.canonical) : CanonicalSome (startRange s c d h v drop l2 from_) := by
  have hgo : ∀ {w lo i last n}, (rangeGo s w drop l2 lo i last n).1.mem.canonical := canonical_rangeGo hs
  unfold startRange
  dsimp only
  split
  · exact canonical_cmdTrap (by simpa using hs)
  · split
    · next heq => simpa using (congrArg (fun z => z.1.mem.canonical) heq).mp hgo
    · next heq => exact canonical_cmdTrap (by simpa using (congrArg (fun z => z.1.mem.canonical) heq).mp hgo)
    · trivial

theorem canonical_startCopy {s : State} {c : Ctx} {d : Cmd} {h : HId} (hs : s.mem.canonical) : CanonicalSome (startCopy s c d h) := by
  unfold startCopy
  dsimp only
  split
  · split
    · next hq => simpa using (all_runPref hs).ok hq
    · exact canonical_cmdTrap hs
    · trivial
  · exact canonical_startRange hs
  · exact canonical_startRange hs
  · split
    · trivial
    · simpa using hs

theorem canonical_waitpBody {p : Path} {w : At} {t : State} (ht : t.mem.canonical) : (waitpBody p w t).canonical := by
  unfold waitpBody
  dsimp only
  split
  · exact ht
  · simpa using ht

theorem canonical_treadBody {x : SReg} {w : At} {t : State} (ht : t.mem.canonical) : (treadBody x w t).canonical := by
  unfold treadBody
  split
  · exact ht
  · exact canonical_interlock ht

/-! ## Array commands -/

theorem all_runDrain {s : State} {c : Ctx} {w : Who} {satfp : Bool} {x : Handle} {f : Fin 16} {sv : Nat} {fn : BitVec 4}
    (hs : s.mem.canonical) : (runDrain s c w satfp x f sv fn).All fun q => q.1.mem.canonical := by
  unfold runDrain
  split
  · trivial
  · split
    · trivial
    · refine Got.All.bind (P := fun q => q.2.mem.canonical) ?_ fun q hq => hq
      split
      · split
        · exact all_tableExp hs
        · exact hs
      · exact hs

theorem all_tileOf {α : Type} {P : α → Prop} {c : Ctx} {h : HId} {f : Handle → Got α} (hf : ∀ x, (f x).All P) : (tileOf c h f).All P := by
  unfold tileOf
  split
  · split
    · exact hf _
    · trivial
  · trivial

theorem all_runArray {s : State} {c : Ctx} {w : Who} {satfp : Bool} {i : Instr} {sv : Nat} (hs : s.mem.canonical) :
    (runArray s c w satfp i sv).All fun q => q.1.mem.canonical := by
  have put : ∀ g : Got Ctx, (g.bind fun d => .ok (s.putCtx d, fNone, []) : Got ARan).All fun q => q.1.mem.canonical :=
    fun _ => Got.all_bind fun _ => hs
  unfold runArray
  dsimp only
  split
  · exact all_tileOf fun _ => put _
  · exact all_tileOf fun _ => put _
  · exact all_tileOf fun _ => put _
  · exact all_tileOf fun _ => all_runDrain hs
  · exact all_tileOf fun _ => put _
  · exact all_tileOf fun _ => put _
  · exact all_tileOf fun _ => put _
  · exact hs
  · exact hs

theorem all_mdrainSetup {s : State} {c : Ctx} {w : Who} {h : HId} {fn : BitVec 4} {r : DataRec} (hs : s.mem.canonical) :
    (mdrainSetup s c w h fn r).All fun q => q.2.mem.canonical := by
  unfold mdrainSetup
  dsimp only
  split
  · trivial
  · split
    · trivial
    · split
      · split
        · split
          · exact hs
          · trivial
        · trivial
      · refine (all_readLayout hs).bind fun q hq => ?_
        split
        · trivial
        · split
          · trivial
          · split
            · trivial
            · split
              · split
                · exact (all_tableExp hq).bind fun z hz => hz
                · exact hq
              · exact hq

theorem canonical_mrowOf {s : State} {n : Nat} {olds : List Byte} {g : Got (State × FFlags × BitVec 4)} (hs : s.mem.canonical)
    (hg : g.All fun q => q.1.mem.canonical) : (mrowOf s n olds g).canonical := by
  unfold mrowOf
  split
  · exact hg
  · exact hs
  · trivial

theorem all_mrowPlain {s : State} {c : Ctx} {w : Who} {fn : BitVec 4} {m : MDrain} {satfp : Bool} {i va : Nat} (hs : s.mem.canonical) :
    (mrowPlain s c w fn m satfp i va).All fun q => q.1.mem.canonical := by
  unfold mrowPlain
  dsimp only
  split
  · exact (all_atomicVirt hs).bind fun _ hq => hq
  · exact (all_storeVirt hs).bind fun _ ht => ht

theorem all_accElem {s : State} {x : CtxId} {w : Who} {r : DRegion} {a : Nat} {bs : List Byte} (hs : s.mem.canonical) :
    (accElem s x w r a bs).All fun t => t.mem.canonical := by
  unfold accElem
  split
  · trivial
  · exact (all_checkAccess hs).bind fun q hq => (all_pushTape (s := s.setMem q.1) hq).bind fun t ht =>
      (all_atomicVirt ht).bind fun z hz => hz

theorem canonical_accRow {s : State} {x : CtxId} {w : Who} {n : Nat} {l : List (Option DRegion × Nat × List Byte)} (hs : s.mem.canonical) :
    (accRow s x w n l).1.mem.canonical := by
  induction l generalizing s n with
  | nil => exact hs
  | cons e es ih =>
    unfold accRow
    split
    · next u hu =>
      split at hu
      · exact ih ((all_accElem hs).ok hu)
      · obtain ⟨z, hz, hu⟩ := Got.bind_ok hu
        cases hu
        exact ih ((all_atomicVirt hs).ok hz)
    · exact hs
    · exact hs

theorem canonical_mrowRecord {s : State} {c : Ctx} {w : Who} {fn : BitVec 4} {m : MDrain} {satfp : Bool} {i va n : Nat}
    {olds : List Byte} {as : List Nat} {ks : List (Option DRegion)} (hs : s.mem.canonical) :
    (mrowRecord s c w fn m satfp i va n olds as ks).canonical := by
  unfold mrowRecord
  split
  · exact hs
  · trivial
  · next q hq =>
    have hq : q.2.mem.canonical := by
      split at hq
      · exact (all_loadVirt hs).ok hq
      · cases hq; exact hs
    have hrow : ∀ ws, (if fn.getLsbD 3 then accRow q.2 c.id w n ws else recordRow q.2 c.id w n ws).1.mem.canonical := by
      intro ws
      split
      · exact canonical_accRow hq
      · exact canonical_recordRow hq
    dsimp only
    split
    · next heq => exact (congrArg (fun z => z.1.mem.canonical) heq).mp (hrow _)
    · next heq => exact (congrArg (fun z => z.1.mem.canonical) heq).mp (hrow _)
    · trivial

theorem all_mrowPop {s : State} {c : Ctx} {w : Who} {fn : BitVec 4} {m : MDrain} {satfp : Bool} {i : Nat} {as : List Nat}
    {ks : List (Option DRegion)} (hs : s.mem.canonical) : (mrowPop s c w fn m satfp i as ks).All fun q => q.1.mem.canonical := by
  refine (all_checkElemsAt hs).bind fun t ht => (all_popBlock ht).bind fun q hq => (all_storeElems hq).bind fun u hu => ?_
  simpa using hu

theorem canonical_mdrainRow {s : State} {c : Ctx} {w : Who} {fn : BitVec 4} {m : MDrain} {satfp : Bool} {i n : Nat} {olds : List Byte}
    (hs : s.mem.canonical) : (mdrainRow s c w fn m satfp i n olds).canonical := by
  unfold mdrainRow
  split
  · split <;> exact hs
  · dsimp only
    split
    · exact canonical_mrowOf hs (all_mrowPlain hs)
    · split
      · exact hs
      · split
        · exact canonical_mrowOf hs (all_mrowPlain hs)
        · split
          · exact canonical_mrowRecord hs
          · split
            · exact hs
            · exact canonical_mrowOf hs (all_mrowPop hs)

theorem canonical_mdrainRows {s : State} {x : CtxId} {w : Who} {fn : BitVec 4} {m : MDrain} {satfp : Bool} {i n : Nat} {olds : List Byte}
    {fl : FFlags} {st : List (Fin 32 × BitVec 4)} {left : Nat} (hs : s.mem.canonical) :
    (mdrainRows s x w fn m satfp i n olds fl st left).canonical := by
  induction left generalizing s i n olds fl st with
  | zero => exact hs
  | succ left ih =>
    unfold mdrainRows
    split
    · exact hs
    · next c _ =>
      have hr : (mdrainRow s c w fn m satfp (mdrainAt c m i) n olds).canonical := canonical_mdrainRow hs
      split
      · next heq => exact ih ((congrArg MRow.canonical heq).mp hr)
      · next heq => exact (congrArg MRow.canonical heq).mp hr
      · trivial

theorem canonical_runDrainm {s : State} {c : Ctx} {d : Cmd} {h : HId} {fn : BitVec 4} {sv i n : Nat} {olds : List Byte}
    (hs : s.mem.canonical) : (runDrainm s c d h fn sv i n olds).canonical := by
  unfold runDrainm
  dsimp only
  split
  · exact hs
  · split
    · exact hs
    · split
      · exact hs
      · split
        · exact hs
        · next r _ =>
          split
          · exact hs
          · trivial
          · next q hq =>
            have hr : ∀ satfp n left, (mdrainRows q.2 c.id (whoCmd s c d) fn q.1 satfp i n olds fNone [] left).canonical :=
              fun _ _ _ => canonical_mdrainRows ((all_mdrainSetup hs).ok hq)
            split
            · next t fl st heq =>
              have ht : t.mem.canonical := (congrArg MRan.canonical heq).mp (hr _ _ _)
              split
              · split
                · next hz => simpa [MRan.canonical] using (all_cmdArrive ht).ok hz
                · exact ht
                · trivial
              · exact ht
            · exact hr _ _ _

theorem canonical_aBody {i : Instr} {hk : Option (HId × HKind)} {x : Option SReg} {sets : Nat → List RowSet × List RowSet}
    {paths : BitVec 5} {w : At} {t : State} (ht : t.mem.canonical) : (aBody i hk x sets paths w t).canonical := by
  have go : ∀ d : Cmd, (if !w.cx.card.arr then .trap t (protection i 19 0) else enqueue w t d).canonical := by
    intro d
    split
    · exact ht
    · exact canonical_enqueue ht
  unfold aBody
  dsimp only
  split
  · exact go _
  · split
    · exact ht
    · exact go _

theorem canonicalNext_dtt {g : Guard} {x : SReg} {s : State} (hs : s.mem.canonical) : CanonicalNext (execDtt g x s) := by
  refine canonicalNext_issue hs fun w t ht => ?_
  split
  · exact ht
  · exact canonical_aBody ht

theorem canonicalNext_drainm {g : Guard} {h : HId} {x : SReg} {f : BitVec 4} {s : State} (hs : s.mem.canonical) :
    CanonicalNext (execDrainm g h x f s) := by
  refine canonicalNext_issue hs fun w t ht => ?_
  split
  · exact ht
  · split
    · exact ht
    · split
      · exact ht
      · exact canonical_enqueue ht

theorem canonical_statRead {i : Instr} {d : Dst} {w : At} {t : State} (ht : t.mem.canonical) : (statRead i d w t).canonical := by
  unfold statRead
  split
  · exact ht
  · exact canonical_enqueue ht

/-! ## Transforms -/

theorem canonical_runTransform {s : State} {c : Ctx} {i : Instr} {sv : Nat} (hs : s.mem.canonical) :
    (runTransform s c i sv).1.mem.canonical := by
  unfold runTransform
  dsimp only
  repeat' split
  all_goals exact hs

/-! ## Leases -/

@[simp] theorem mem_putArray (s : State) (a : ArraySt) : (putArray s a).mem = s.mem := rfl

@[simp] theorem mem_requestLease (s : State) (x : CtxId) : (requestLease s x).mem = s.mem := by
  unfold requestLease
  split
  · split <;> rfl
  · rfl

@[simp] theorem mem_releaseLease (s : State) (x : CtxId) : (releaseLease s x).mem = s.mem := by
  unfold releaseLease
  split
  · split <;> rfl
  · rfl

@[simp] theorem mem_countArray (s : State) (x : CtxId) : (countArray s x).mem = s.mem := by
  unfold countArray
  split <;> rfl

theorem canonicalNext_leaseGrant {cl : Fin 64} {s : State} (hs : s.mem.canonical) : CanonicalNext (execLeaseGrant cl s) := by
  unfold execLeaseGrant
  split
  · trivial
  · split
    · trivial
    · split
      · trivial
      · split
        · trivial
        · exact hs

theorem canonicalNext_leaseBound {cl : Fin 64} {s : State} (hs : s.mem.canonical) : CanonicalNext (execLeaseBound cl s) := by
  unfold execLeaseBound
  split
  · trivial
  · split
    · trivial
    · split
      · trivial
      · split
        · simpa using hs
        · exact hs

theorem canonical_macroTrap {s : State} {c : Ctx} {d : Cmd} {m : MacroSt} {x : Cause} (hs : s.mem.canonical) :
    (macroTrap s c d m x).mem.canonical := by
  have ht : ∀ f, (s.mapCmd c.id d.seq f).mem.canonical := fun f => by simpa using hs
  exact canonical_if (canonical_cmdTrap (ht _)) (ht _)

theorem canonicalNext_leaseTimeout {cl : Fin 64} {s : State} (hs : s.mem.canonical) : CanonicalNext (execLeaseTimeout cl s) := by
  unfold execLeaseTimeout
  split
  · trivial
  · split
    · split
      · split
        · exact canonical_macroTrap hs
        · trivial
      · trivial
    · trivial

@[simp] theorem mem_leaseTick (s : State) (a : ArraySt) : (leaseTick s a).mem = s.mem := by
  unfold leaseTick
  split
  · rfl
  · split
    · exact mem_releaseLease _ _
    · split <;> rfl

/-! ## Micro-ops -/

/-- A micro-op keeps memory canonical when what it does does. -/
theorem canonicalNext_uop {s : State} {name : String} {last : Bool} {f : Uop → Option State} (hs : s.mem.canonical)
    (hf : ∀ u, CanonicalSome (f u)) : CanonicalNext (uop s name last f) := by
  unfold uop
  split
  · trivial
  · split
    · trivial
    · split
      · trivial
      · split
        · exact canonical_macroTrap hs
        · split
          · next h => exact (hf _).of_eq h
          · trivial

theorem canonicalNext_uopFault {s : State} (hs : s.mem.canonical) : CanonicalNext (uopFault s) :=
  canonicalNext_uop hs fun _ => canonical_macroTrap hs

@[simp] theorem mem_uop_go (u : Uop) (s : State) (m : MacroSt) : (u.go s m).mem = s.mem := mem_putCmd _ _ _

@[simp] theorem mem_uop_ran (u : Uop) (s : State) (array : Bool) (fl : FFlags) (st : List (Fin 32 × BitVec 4)) :
    (u.ran s array fl st).mem = s.mem := by
  unfold Uop.ran
  dsimp only
  split
  · simp only [mem_countArray, mem_mapCtx]
  · exact mem_mapCtx _ _ _

theorem canonical_uop_arr {u : Uop} {s : State} {i : Instr} {sv : Nat} (hs : s.mem.canonical) : CanonicalSome (u.arr s i sv) := by
  unfold Uop.arr
  dsimp only
  split
  · split
    · trivial
    · next h _ fn _ =>
      have hr : (runDrainm s u.cx u.d h fn sv u.m.rows u.m.elems u.m.olds).canonical := canonical_runDrainm hs
      split
      · next heq => simpa [MRan.canonical] using (congrArg MRan.canonical heq).mp hr
      · next heq => exact canonical_macroTrap ((congrArg MRan.canonical heq).mp hr)
      · trivial
  · split
    all_goals
      split
      · exact canonical_macroTrap hs
      · split
        · next hq => simpa using (all_runArray hs).ok hq
        · exact canonical_macroTrap hs
        · trivial

theorem canonicalNext_uopArr {op : ArrOp} {fn : BitVec 4} {ka kb : KReg} {s : State} (hs : s.mem.canonical) :
    CanonicalNext (execUopArr op fn ka kb s) := by
  refine canonicalNext_uop hs fun u => ?_
  split
  · exact canonical_macroTrap hs
  · exact canonical_uop_arr hs

/-- A micro-op that sets a register, or the place of the next one, leaves memory alone. -/
theorem canonical_uop_go {u : Uop} {s : State} {m : MacroSt} (hs : s.mem.canonical) : CanonicalSome (some (u.go s m)) := by
  simpa using hs

theorem canonicalNext_uopEnd {s : State} (hs : s.mem.canonical) : CanonicalNext (execUopEnd s) :=
  canonicalNext_uop hs fun u => by simpa using hs

/-! ## Ports, lanes and announcements -/

theorem canonicalNext_if {p : Prop} [Decidable p] {a b : Host.Outcome State Fault Refusal} (ha : CanonicalNext a) (hb : CanonicalNext b) :
    CanonicalNext (if p then a else b) := by
  split
  · exact ha
  · exact hb

theorem canonicalNext_noEvent {name : String} : CanonicalNext (noEvent name) := trivial

theorem canonical_gangSet {s : State} {g hi lo x : Nat} (hs : s.mem.canonical) : (gangSet s g hi lo x).mem.canonical :=
  canonical_physStore hs

@[simp] theorem mem_gangPut (s : State) (x : GangSt) : (gangPut s x).mem = s.mem := rfl
@[simp] theorem mem_putLane (s : State) (p : Port) (l : Lane) (y : LaneSt) : (putLane s p l y).mem = s.mem := rfl
@[simp] theorem mem_countRetry (s : State) (p : Port) : (countRetry s p).mem = s.mem := rfl
@[simp] theorem mem_hearFrom (s : State) (f : Fid) : (hearFrom s f).mem = s.mem := rfl
@[simp] theorem mem_tuned (s : State) (p : Port) (slot : Bool) : (tuned s p slot).mem = s.mem := rfl

theorem canonical_putLane {s : State} {p : Port} {l : Lane} {y : LaneSt} (hs : s.mem.canonical) : (putLane s p l y).mem.canonical := hs
theorem canonical_countRetry {s : State} {p : Port} (hs : s.mem.canonical) : (countRetry s p).mem.canonical := hs

@[simp] theorem mem_retune (s : State) (p : Port) (mask : Nat) (slot : Bool) (c : Option (Fin 8)) : (retune s p mask slot c).mem = s.mem := by
  refine mem_foldl (fun t l => ?_) _ s
  split <;> rfl

theorem canonicalNext_flitReceived {p : Port} {l : Lane} {crcOk : Bool} {s : State} (hs : s.mem.canonical) :
    CanonicalNext (execFlitReceived p l crcOk s) :=
  canonicalNext_if (canonical_putLane hs) canonicalNext_noEvent

theorem canonicalNext_nakReceived {p : Port} {l : Lane} {passed : Bool} {s : State} (hs : s.mem.canonical) :
    CanonicalNext (execNakReceived p l passed s) := by
  have hl : ∀ st, CanonicalNext (.next (setLane s p l st)) := fun _ => canonical_setLane hs
  have hp : ∀ y, CanonicalNext (.next (putLane s p l y)) := fun _ => canonical_putLane hs
  have hr : ∀ y, CanonicalNext (.next (putLane (countRetry s p) p l y)) := fun _ => canonical_putLane (canonical_countRetry hs)
  unfold execNakReceived
  dsimp only
  exact canonicalNext_if (canonicalNext_if canonicalNext_noEvent (canonical_setLane (canonical_countRetry hs)))
    (canonicalNext_if (canonicalNext_if (canonicalNext_if canonicalNext_noEvent (hp _)) (canonicalNext_if (hl 5) (hr _)))
    (canonicalNext_if (canonicalNext_if canonicalNext_noEvent (hl 5))
    (canonicalNext_if (canonicalNext_if (hl 2) (canonicalNext_if (hl 5) (hr _))) canonicalNext_noEvent)))

theorem canonicalNext_rxLightLoss {p : Port} {l : Lane} {s : State} (hs : s.mem.canonical) : CanonicalNext (execRxLightLoss p l s) :=
  canonicalNext_if (canonical_if (canonical_putLane (canonical_setLane hs)) (canonical_setLane hs)) canonicalNext_noEvent

theorem canonicalNext_rxLightReturn {p : Port} {l : Lane} {s : State} (hs : s.mem.canonical) : CanonicalNext (execRxLightReturn p l s) :=
  canonicalNext_if (canonical_setLane hs) canonicalNext_noEvent

theorem canonicalNext_laneTrained {p : Port} {l : Lane} {s : State} (hs : s.mem.canonical) : CanonicalNext (execLaneTrained p l s) :=
  canonicalNext_if (canonical_setLane hs) canonicalNext_noEvent

theorem canonicalNext_laneUnlit {p : Port} {l : Lane} {s : State} (hs : s.mem.canonical) : CanonicalNext (execLaneUnlit p l s) :=
  canonicalNext_if (canonical_setLane hs) canonicalNext_noEvent

theorem canonicalNext_supplyLightLoss {p : Port} {s : State} (hs : s.mem.canonical) : CanonicalNext (execSupplyLightLoss p s) :=
  canonicalNext_if (canonical_foldl (fun _ _ => canonical_setLane) _ (canonical_rasLog (canonical_setHub hs))) canonicalNext_noEvent

theorem canonicalNext_supplyLightReturn {p : Port} {s : State} (hs : s.mem.canonical) : CanonicalNext (execSupplyLightReturn p s) :=
  canonicalNext_if canonicalNext_noEvent (canonical_relight (canonical_setHub hs))

theorem canonicalNext_announcementReceived {p : Port} {l : Lane} {c : Fin 8} {pending : Bool} {passes : BitVec 8} {s : State}
    (hs : s.mem.canonical) : CanonicalNext (execAnnouncementReceived p l c pending passes s) := by
  refine canonicalNext_if canonicalNext_noEvent ?_
  rw [canonicalNext_next]
  split
  · exact canonical_foldl (f := hearFrom) (fun _ _ h => h) _ (canonical_setHub hs)
  · exact canonical_setHub hs

theorem canonicalNext_filterSettled {p : Port} {slot : Bool} {s : State} (hs : s.mem.canonical) :
    CanonicalNext (execFilterSettled p slot s) := by
  refine canonicalNext_if ?_ canonicalNext_noEvent
  rw [canonicalNext_next, mem_tuned]
  refine canonical_foldl (fun t l ht => ?_) _ hs
  split
  · split <;> exact ht
  · exact ht

theorem canonicalNext_slot0Retune {p : Port} {s : State} (hs : s.mem.canonical) : CanonicalNext (execSlot0Retune p s) := by
  refine canonicalNext_if canonicalNext_noEvent ?_
  split
  · trivial
  · rw [canonicalNext_next, mem_retune]
    exact canonical_setHub hs

@[simp] theorem mem_sendPacket (s : State) (dst : Fid) (vc : Fin 8) (gang : Fin 4096) (region : Nat) (body : PacketBody) :
    (sendPacket s dst vc gang region body).mem = s.mem := by
  unfold sendPacket
  dsimp only
  split
  · rfl
  · split
    · rfl
    · split <;> rfl

@[simp] theorem mem_sendJob (s : State) (c : Ctx) (dst : Fid) (vc : Fin 8) (body : PacketBody) : (sendJob s c dst vc body).mem = s.mem :=
  mem_sendPacket ..

theorem canonicalNext_portGrant {p : Port} {s : State} (hs : s.mem.canonical) : CanonicalNext (execPortGrant p s) := by
  unfold execPortGrant
  dsimp only
  split
  · trivial
  · split
    · trivial
    · exact canonical_setRouter (canonical_setHub hs)

theorem canonical_logPacket {s : State} {kind : Nat} {k : Packet} (hs : s.mem.canonical) : (logPacket s kind k).mem.canonical :=
  canonical_rasLog hs

/-! ## Collectives -/

@[simp] theorem mem_nPut (s : State) (x : CtxId) (h : HId) (row off : Nat) (bs : List Byte) : (nPut s x h row off bs).mem = s.mem :=
  mem_mapCtx _ _ _

@[simp] theorem mem_putStatus (s : State) (x : CtxId) (d : Cmd) (code rank : Nat) : (putStatus s x d code rank).mem = s.mem := by
  unfold putStatus
  split
  · exact mem_nPut ..
  · rfl

theorem canonical_gotCmd {g : Got State} {s : State} {x : CtxId} {d : Cmd} (hs : s.mem.canonical) (hg : g.All fun t => t.mem.canonical) :
    CanonicalSome (g.cmd s x d) := by
  unfold Got.cmd
  split
  · exact hg
  · exact canonical_cmdTrap hs
  · trivial

theorem canonical_endCollective {s : State} {x : CtxId} {d : Cmd} {code rank : Nat} {fl : FFlags} {cell : Option (HId × Nat)}
    (hs : s.mem.canonical) : CanonicalSome (endCollective s x d code rank fl cell) := by
  have ht : ∀ f, (putStatus (s.mapCtx x f) x d code rank).mem.canonical := fun f => by simpa using hs
  unfold endCollective
  dsimp only
  split
  · simpa using hs
  · refine canonical_gotCmd (ht _) ((all_cmdArrive (ht _)).bind fun r hr => ?_)
    simpa using hr

theorem all_endLoad {s : State} {c : Ctx} {w : Who} {n : Nat} {e : EndPoint} (hs : s.mem.canonical) :
    (endLoad s c w n e).All fun q => q.2.mem.canonical := by
  unfold endLoad
  split
  · exact all_loadVirt hs
  · exact hs

theorem all_endStore {s : State} {x : CtxId} {w : Who} {e : EndPoint} {bs : List Byte} (hs : s.mem.canonical) :
    (endStore s x w e bs).All fun t => t.mem.canonical := by
  unfold endStore
  split
  · exact all_storeVirt hs
  · simpa using hs

theorem all_startPush {s : State} {c : Ctx} {d : Cmd} {h : HId} {o : PushOp} (hs : s.mem.canonical) :
    (startPush s c d h o).All fun t => t.mem.canonical := by
  refine Got.all_bind fun bs => ?_
  dsimp only
  split
  · trivial
  · refine Got.all_bind fun src => Got.all_bind fun dst => Got.all_bind fun _ => (all_endLoad hs).bind fun r hr => ?_
    simpa using hr

theorem canonical_pushSend {s : State} {c : Ctx} {d : Cmd} {p : PushSt} (hs : s.mem.canonical) : CanonicalSome (pushSend s c d p) := by
  unfold pushSend
  split
  · trivial
  · simpa using hs

theorem all_writePush {s : State} {c : Ctx} {d : Cmd} {p : PushSt} (hs : s.mem.canonical) :
    (writePush s c d p).All fun t => t.mem.canonical := by
  unfold writePush
  split
  · split
    · exact hs
    · exact all_endStore hs
  · exact hs

theorem canonical_finishPush {s : State} {c : Ctx} {d : Cmd} {p : PushSt} (hs : s.mem.canonical) : CanonicalSome (finishPush s c d p) := by
  unfold finishPush
  dsimp only
  split
  · next ht => exact canonical_endCollective (by simpa using (all_writePush hs).ok ht)
  · exact canonical_cmdTrap hs
  · trivial

theorem canonicalNext_pushrComplete {x : CmdRef} {s : State} (hs : s.mem.canonical) : CanonicalNext (execPushrComplete x s) := by
  unfold execPushrComplete
  split
  · split
    · split
      · trivial
      · split
        · next h => exact (canonical_finishPush hs).of_eq h
        · trivial
    · trivial
  · trivial

/-! ## Reduction groups -/

@[simp] theorem mem_sendResult (s : State) (g : Group) (ps : List (List Byte)) (i : Nat) (l : List (List Byte)) :
    (sendResult s g ps i l).mem = s.mem := by
  induction l generalizing s i with
  | nil => rfl
  | cons p l ih => exact (ih _ _).trans (mem_foldl (fun _ _ => mem_sendPacket ..) _ s)

@[simp] theorem mem_putGroup (s : State) (g : Group) : (putGroup s g).mem = s.mem := rfl

theorem canonical_groupMove {s : State} {g : Group} (hs : s.mem.canonical) : CanonicalSome (groupMove s g) := by
  unfold groupMove
  split
  · trivial
  · split
    · split
      · trivial
      · simpa using hs
    · split
      · trivial
      · exact hs

@[simp] theorem mem_rejectContrib (s : State) (k : Packet) (key : GroupKey) (frm : CtxId) (rank : Nat) :
    (rejectContrib s k key frm rank).mem = s.mem := mem_sendPacket ..

theorem canonical_arriveContrib {s : State} {k : Packet} {key : GroupKey} {frm : CtxId} {dst : List (Fid × CtxId)}
    {rank need count part parts : Nat} (hs : s.mem.canonical) : CanonicalSome (arriveContrib s k key frm dst rank need count part parts) := by
  have hr : CanonicalSome (some (rejectContrib s k key frm rank)) := by simpa using hs
  unfold arriveContrib
  split
  · exact hr
  · split
    · dsimp only
      split
      · trivial
      · exact hs
    · split
      · exact hr
      · split
        · trivial
        · dsimp only
          split
          · trivial
          · exact hs

theorem canonicalNext_pushKeyReopen {k : GroupKey} {s : State} (hs : s.mem.canonical) : CanonicalNext (execPushKeyReopen k s) := by
  unfold execPushKeyReopen
  split
  · exact canonicalNext_if hs canonicalNext_noEvent
  · trivial

@[simp] theorem mem_endGroup (s : State) (g : Group) (lost : Fid × CtxId → Bool) : (endGroup s g lost).mem = s.mem := by
  refine (mem_foldl (fun u m => ?_) _ _).trans rfl
  split
  · rfl
  · exact mem_sendPacket ..

@[simp] theorem mem_groupLost (s : State) (g : Group) (lost : Fid × CtxId → Bool) : (groupLost s g lost).mem = s.mem := by
  unfold groupLost
  split
  · exact mem_endGroup s g lost
  · split
    · rfl
    · dsimp only
      split <;> rfl

/-! ## Welt combines -/

@[simp] theorem mem_combOne (s : State) (x : CtxId) (q : CombDesc) (satfp : Bool) (t : Nat) : (combOne s x q satfp t).1.mem = s.mem := by
  unfold combOne
  split
  · split
    · exact mem_nPut ..
    · rfl
  · rfl

theorem all_startComb {s : State} {c : Ctx} {d : Cmd} {h : HId} (hs : s.mem.canonical) :
    (startComb s c d h).All fun t => t.mem.canonical := by
  refine Got.all_bind fun bs => ?_
  split
  · trivial
  · refine Got.all_bind fun _ => ?_
    simpa using hs

theorem canonical_combStep {s : State} {c : Ctx} {d : Cmd} {bs : List Byte} {start token : Nat} {fl : FFlags} (hs : s.mem.canonical) :
    CanonicalSome (combStep s c d bs start token fl) := by
  unfold combStep
  dsimp only
  split
  · trivial
  · simpa using hs

theorem canonicalNext_ncombComplete {x : CmdRef} {s : State} (hs : s.mem.canonical) : CanonicalNext (execNcombComplete x s) := by
  unfold execNcombComplete
  split
  · split
    · dsimp only
      split
      · trivial
      · split
        · next h => exact (canonical_endCollective hs).of_eq h
        · trivial
    · trivial
  · trivial

theorem canonical_nBody {i : Instr} {h : HId} {x : SReg} {sets : Ctx → Nat → List RowSet × List RowSet} {paths : BitVec 5} {w : At}
    {t : State} (ht : t.mem.canonical) : (nBody i h x sets paths w t).canonical := by
  unfold nBody
  dsimp only
  split
  · exact ht
  · exact canonical_enqueue ht

/-! ## Traverses -/

theorem canonical_pagesLoad {s : State} {w : Who} {va n fuel : Nat} {acc : List Byte} (hs : s.mem.canonical) :
    (pagesLoad s w va n acc fuel).2.1.mem.canonical := by
  induction fuel generalizing s va n acc with
  | zero => exact hs
  | succ fuel ih =>
    unfold pagesLoad
    split
    · exact hs
    · dsimp only
      split
      · next r h => exact ih ((all_loadVirt hs).ok h)
      · exact hs
      · exact hs

theorem all_elemLoad {s : State} {c : Ctx} {w : Who} {q : TravDesc} {e : Nat} {pl : Nat × Nat} (hs : s.mem.canonical) :
    (elemLoad s c w q e pl).All fun r => r.2.mem.canonical := by
  unfold elemLoad
  split
  · exact all_loadVirt hs
  · exact hs
  · exact hs

theorem canonical_elemsLoad {s : State} {c : Ctx} {w : Who} {q : TravDesc} {e me : Nat} {acc : List Byte} {l : List (List Nat)}
    (hs : s.mem.canonical) : (elemsLoad s c w q e me acc l).2.1.mem.canonical := by
  induction l generalizing s acc with
  | nil => exact hs
  | cons g l ih =>
    unfold elemsLoad
    split
    · next r h => exact ih ((all_elemLoad hs).ok h)
    · exact hs
    · exact hs

theorem all_elemsCheck {s : State} {c : Ctx} {w : Who} {q : TravDesc} {e me : Nat} {l : List (List Nat)} (hs : s.mem.canonical) :
    (elemsCheck s c w q e me l).All fun t => t.mem.canonical := by
  induction l generalizing s with
  | nil => exact hs
  | cons g l ih =>
    unfold elemsCheck
    split
    · exact Got.all_bind fun _ => (all_checkAccess hs).bind fun r hr => ih (canonical_setMem hr)
    · exact ih hs

theorem all_elemsStore {s : State} {x : CtxId} {w : Who} {q : TravDesc} {e me : Nat} {bs : List Byte} {l : List (List Nat)}
    (hs : s.mem.canonical) : (elemsStore s x w q e me bs l).All fun t => t.mem.canonical := by
  induction l generalizing s bs with
  | nil => exact hs
  | cons g l ih =>
    refine Got.All.bind (P := fun t => t.mem.canonical) ?_ fun t ht => ih ht
    split
    · simpa using hs
    · exact all_storeVirt hs
    · exact hs

theorem all_elemsWrite {s : State} {c : Ctx} {w : Who} {q : TravDesc} {e me : Nat} {bs : List Byte} {l : List (List Nat)}
    (hs : s.mem.canonical) : (elemsWrite s c w q e me bs l).All fun t => t.mem.canonical :=
  (all_elemsCheck hs).bind fun _ ht => all_elemsStore ht

@[simp] theorem mem_travCount (s : State) (c : Ctx) (id : Nat) : (travCount s c id).mem = s.mem := rfl

theorem canonical_strayAnnounce {s : State} {k : Packet} {orig : CtxId} {id inst a b rank : Nat} (hs : s.mem.canonical) :
    (strayAnnounce s k orig id inst a b rank).mem.canonical := by
  unfold strayAnnounce
  split
  · exact hs
  · simpa using canonical_logPacket hs

theorem canonical_hearHeralds {s : State} {x : CtxId} {q : TravDesc} {t : TravSt} {l : List Packet} (hs : s.mem.canonical) :
    (hearHeralds s x q t l).1.mem.canonical := by
  induction l generalizing s t with
  | nil => exact hs
  | cons k l ih =>
    unfold hearHeralds
    dsimp only
    split
    · split
      · exact ih hs
      · split
        · exact ih (canonical_strayAnnounce hs)
        · exact ih hs
    · split
      · exact ih hs
      · exact ih hs
    · exact ih hs

theorem canonical_travBegin {s : State} {c : Ctx} {d : Cmd} {r : TravRead} {ents : List Nat} {me : Nat} (hs : s.mem.canonical) :
    (travBegin s c d r ents me).mem.canonical := by
  unfold travBegin
  dsimp only
  rw [mem_putCmd]
  exact canonical_hearHeralds (canonical_setRouter hs)

theorem canonical_travGoOn {s : State} {c : Ctx} {d : Cmd} {h : HId} {r : TravRead} (hs : s.mem.canonical) :
    CanonicalSome (travGoOn s c d h r) := by
  have hstop : ∀ (t : State) (e : Cmd) (x : Cause), t.mem.canonical → (cmdTrap (t.putCmd c.id e) c.id e x).mem.canonical :=
    fun t e x ht => canonical_cmdTrap (by simpa using ht)
  unfold travGoOn
  split
  · trivial
  · dsimp only
    generalize hp : pagesLoad _ _ _ _ _ _ = p
    have hp' : p.2.1.mem.canonical := hp ▸ canonical_pagesLoad hs
    obtain ⟨bs, t, g⟩ := p
    cases g with
    | ok =>
      dsimp only
      split
      · exact hstop _ _ _ hp'
      · generalize he : elemsLoad _ _ _ _ _ _ _ _ = z
        have he' : z.2.1.mem.canonical := he ▸ canonical_elemsLoad hp'
        obtain ⟨all, u, g⟩ := z
        cases g with
        | ok => exact canonical_travBegin he'
        | fail a b e => exact hstop _ _ _ he'
        | stall => trivial
    | fail a b e => exact hstop _ _ _ hp'
    | stall => trivial

theorem canonical_startTrav {s : State} {c : Ctx} {d : Cmd} {h : HId} (hs : s.mem.canonical) : CanonicalSome (startTrav s c d h) := by
  unfold startTrav
  split
  · exact canonical_travGoOn hs
  · split
    · split
      · exact canonical_gotCmd hs trivial
      · exact canonical_travGoOn (by simpa using hs)
    · exact canonical_cmdTrap hs
    · trivial

theorem all_announceTrav {s : State} {c : Ctx} {d : Cmd} {t : TravSt} (hs : s.mem.canonical) :
    (announceTrav s c d t).All fun u => u.mem.canonical := by
  unfold announceTrav
  dsimp only
  split
  · trivial
  · refine (all_elemsCheck hs).bind fun s1 h1 => Got.All.bind (P := fun u => u.mem.canonical) ?_ fun s2 h2 => ?_
    · split
      · exact h1
      · exact all_elemsWrite h1
    · rw [Got.all_ok, mem_putCmd, mem_foldl fun _ _ => mem_sendJob ..]
      exact h2

theorem canonicalNext_travAnnounce {x : CmdRef} {s : State} (hs : s.mem.canonical) : CanonicalNext (execTravAnnounce x s) := by
  unfold execTravAnnounce
  split
  · split
    · split
      · trivial
      · split
        · next h => exact (canonical_gotCmd hs (all_announceTrav hs)).of_eq h
        · trivial
    · trivial
  · trivial

theorem canonicalNext_travComplete {x : CmdRef} {s : State} (hs : s.mem.canonical) : CanonicalNext (execTravComplete x s) := by
  unfold execTravComplete
  split
  · split
    · split
      · trivial
      · split
        · next h => exact (canonical_endCollective hs).of_eq h
        · trivial
    · trivial
  · trivial

/-! ## Packets of Traverses -/

/-- Every state in which the arrival of a packet ends has a canonical memory. -/
def Arrive.canonical : Arrive → Prop
  | .taken s => s.mem.canonical
  | .waits => True
  | .part s _ => s.mem.canonical
  | .traps s => s.mem.canonical

@[simp] theorem mem_keepHerald (s : State) (k : Packet) : (keepHerald s k).mem = s.mem := rfl

theorem canonical_arriveAnnounce {s : State} {k : Packet} {dst orig : CtxId} {id inst a b : Nat} (hs : s.mem.canonical) :
    (arriveAnnounce s k dst orig id inst a b).mem.canonical := by
  unfold arriveAnnounce
  split
  · exact hs
  · exact canonical_strayAnnounce hs
  · exact canonical_if (canonical_logPacket hs) hs

theorem canonical_travSend {s : State} {seen l : List SendSt} (hs : s.mem.canonical) : CanonicalSome (travSend s seen l) := by
  induction l generalizing seen with
  | nil => trivial
  | cons o l ih =>
    unfold travSend
    split
    · split
      · simpa using hs
      · exact ih
    · exact ih

theorem canonical_arriveRelay {s : State} {k : Packet} {dst : CtxId} {hop : Fid × CtxId} {id inst : Nat} {body : PacketBody}
    (hs : s.mem.canonical) : (arriveRelay s k dst hop id inst body).canonical := by
  unfold arriveRelay
  dsimp only
  split
  · trivial
  · split
    · split
      · exact canonical_logPacket hs
      · trivial
    · simpa [Arrive.canonical] using hs

theorem canonical_writePart {s : State} {c : Ctx} {d : Cmd} {t : TravSt} {a part : Nat} {fl : FFlags} {bs : List Byte}
    (hs : s.mem.canonical) : (writePart s c d t a part fl bs).canonical := by
  unfold writePart
  dsimp only
  split
  · exact hs
  · split
    · next u h => simpa [Arrive.canonical] using (all_elemsWrite hs).ok h
    · exact canonical_cmdTrap hs
    · trivial

theorem canonical_dropPiece {s : State} {k : Packet} {orig : Fid × CtxId} {id inst a b : Nat} (hs : s.mem.canonical) :
    (dropPiece s k orig id inst a b).canonical := by
  simpa [dropPiece, Arrive.canonical] using canonical_logPacket hs

theorem canonical_arrivePiece {s : State} {k : Packet} {dst : CtxId} {orig : Fid × CtxId} {id inst a b part : Nat} {bs : List Byte}
    (hs : s.mem.canonical) : (arrivePiece s k dst orig id inst a b part bs).canonical := by
  unfold arrivePiece
  split
  · split
    · trivial
    · split
      · exact canonical_logPacket hs
      · exact canonical_dropPiece hs
  · split
    · trivial
    · split
      · exact canonical_dropPiece hs
      · split
        · exact hs
        · exact canonical_writePart hs

theorem canonical_arriveTravResult {s : State} {k : Packet} {dst : CtxId} {id inst b box code lost part : Nat} {fl : FFlags} {bs : List Byte}
    (hs : s.mem.canonical) : (arriveTravResult s k dst id inst b box code lost part fl bs).canonical := by
  unfold arriveTravResult
  split
  · split
    · trivial
    · exact canonical_logPacket hs
  · dsimp only
    split
    · trivial
    · split
      · rw [Arrive.canonical, mem_foldl fun _ _ => mem_sendPacket ..]
        exact canonical_logPacket hs
      · split
        · exact hs
        · exact canonical_writePart hs

@[simp] theorem mem_losePeers (s : State) (isLost : Fid × CtxId → Bool) (home : Fid → Bool) (only : Ctx → Bool) :
    (losePeers s isLost home only).mem = s.mem := rfl

@[simp] theorem mem_arriveTravReject (s : State) (k : Packet) (dst : CtxId) (id inst rank code : Nat) :
    (arriveTravReject s k dst id inst rank code).mem = s.mem := by
  unfold arriveTravReject
  dsimp only
  split
  · rfl
  · split <;> rfl

/-! ## Arrival of packets -/

theorem Arrive.canonical_if {p : Prop} [Decidable p] {a b : Arrive} (ha : a.canonical) (hb : b.canonical) : (if p then a else b).canonical := by
  split
  · exact ha
  · exact hb

theorem canonical_logLostRec {s : State} {it : SaveItem} (hs : s.mem.canonical) : (logLostRec s it).mem.canonical := by
  cases it with
  | packet k => exact canonical_logPacket hs
  | group g => exact canonical_foldl (fun _ _ => canonical_logPacket) _ (canonical_rasLog hs)
  | entry => exact canonical_rasLog hs

theorem canonical_saveItem {s : State} {g : Nat} {it : SaveItem} (hs : s.mem.canonical) : (saveItem s g it).mem.canonical := by
  unfold saveItem
  dsimp only
  split
  · exact canonical_logLostRec (by simpa using hs)
  · refine canonical_gangSet (canonical_gangSet ?_)
    rw [mem_gangPut]
    exact canonical_physStore hs

theorem canonical_latePacket {s : State} {k : Packet} (hs : s.mem.canonical) : (latePacket s k).mem.canonical := by
  unfold latePacket
  dsimp only
  refine canonical_gangSet ?_
  rw [mem_gangPut]
  exact canonical_logPacket hs

theorem canonical_deliverLate {s : State} (hs : s.mem.canonical) : (deliverLate s).mem.canonical := by
  unfold deliverLate
  split
  · exact canonical_if hs (canonical_takeTrap hs)
  · exact hs

theorem canonical_arriveEntry {s : State} {k : Packet} {dst : CtxId} {z : ZReg} {bs : List Byte} (hs : s.mem.canonical) :
    (arriveEntry s k dst z bs).canonical := by
  unfold arriveEntry
  split
  · split
    · exact canonical_logPacket hs
    · trivial
  · dsimp only
    split
    · exact hs
    · trivial

@[simp] theorem mem_noteRequest (s : State) (k : Packet) (dst : CtxId) (z : ZReg) : (noteRequest s k dst z).mem = s.mem := by
  unfold noteRequest; split <;> rfl

theorem canonical_memberResult {s : State} {k : Packet} {key : GroupKey} {m : CtxId × Nat} {code lost part parts : Nat} {fl : FFlags}
    {bs : List Byte} (hs : s.mem.canonical) : (memberResult s k key m code lost part parts fl bs).canonical := by
  unfold memberResult
  split
  · exact canonical_arriveTravResult hs
  · split
    · trivial
    · split
      · exact hs
      · simpa [Arrive.canonical] using hs

theorem canonical_memberResults {s : State} {k : Packet} {key : GroupKey} {code lost part parts : Nat} {fl : FFlags} {bs : List Byte}
    {kept : List (CtxId × Nat)} {moved : Bool} {l : List (CtxId × Nat)} (hs : s.mem.canonical) :
    (memberResults s k key code lost part parts fl bs kept moved l).1.mem.canonical := by
  induction l generalizing s kept moved with
  | nil => exact hs
  | cons m l ih =>
    have hm : (memberResult s k key m code lost part parts fl bs).canonical := canonical_memberResult hs
    unfold memberResults
    split
    · next h => exact ih ((congrArg Arrive.canonical h).mp hm)
    · next h => exact ih ((congrArg Arrive.canonical h).mp hm)
    · exact ih hs
    · next h => exact ih ((congrArg Arrive.canonical h).mp hm)

theorem canonical_arriveResult {s : State} {k : Packet} {key : GroupKey} {ms : List (CtxId × Nat)} {code lost part parts : Nat}
    {fl : FFlags} {bs : List Byte} (hs : s.mem.canonical) : (arriveResult s k key ms code lost part parts fl bs).canonical := by
  have hr := canonical_memberResults (k := k) (key := key) (code := code) (lost := lost) (part := part) (parts := parts) (fl := fl)
    (bs := bs) (kept := []) (moved := false) (l := ms) hs
  unfold arriveResult
  split
  · next h => exact (congrArg (fun z => z.1.mem.canonical) h).mp hr
  · next h => exact (congrArg (fun z => z.1.mem.canonical) h).mp hr
  · trivial

@[simp] theorem mem_arriveReject (s : State) (k : Packet) (key : GroupKey) (dst : CtxId) (rank code : Nat) :
    (arriveReject s k key dst rank code).mem = s.mem := by
  cases key with
  | trav => exact mem_arriveTravReject ..
  | push => rfl

@[simp] theorem mem_arriveRankLost (s : State) (key : GroupKey) (rank : Nat) : (arriveRankLost s key rank).mem = s.mem := by
  unfold arriveRankLost
  split
  · exact mem_groupLost ..
  · rfl

theorem canonical_arrivePart {s : State} {k : Packet} {key : GroupKey} {frm : CtxId} {dst : List (Fid × CtxId)}
    {rank need count part parts : Nat} (hs : s.mem.canonical) : (arrivePart s k key frm dst rank need count part parts).canonical := by
  have hr : (rejectContrib (logPacket s 5 k) k key frm rank).mem.canonical := by simpa using canonical_logPacket hs
  refine Arrive.canonical_if hr ?_
  split
  · next h => exact (canonical_arriveContrib hs).of_eq h
  · trivial

theorem canonical_deliverBody {s : State} {k : Packet} (hs : s.mem.canonical) : (deliverBody s k).canonical := by
  unfold deliverBody
  split
  · exact canonical_arriveEntry hs
  · exact canonical_arrivePart hs
  · exact canonical_arriveResult hs
  · split
    · exact canonical_arrivePiece hs
    · exact canonical_arriveRelay hs
  · exact canonical_arriveAnnounce hs
  · simpa [Arrive.canonical] using hs
  · simpa [Arrive.canonical] using hs
  · simpa [Arrive.canonical] using hs
  · simpa [Arrive.canonical] using hs
  · simpa [Arrive.canonical] using hs

theorem canonical_deliver {s : State} {k : Packet} (hs : s.mem.canonical) : (deliver s k).canonical := by
  unfold deliver
  dsimp only
  split
  · exact canonical_deliverBody hs
  · split
    · split
      · exact canonical_latePacket hs
      · split
        · simpa [Arrive.canonical] using hs
        · exact canonical_saveItem hs
    · exact canonical_latePacket hs
    · split
      · exact canonical_deliverBody hs
      · trivial
    · exact canonical_deliverBody hs

@[simp] theorem mem_parkPacket (s : State) (k : Packet) : (parkPacket s k).mem = s.mem := rfl

theorem canonical_deliverOrWait {s : State} {k : Packet} (hs : s.mem.canonical) : (deliverOrWait s k).mem.canonical := by
  have hd : (deliver s k).canonical := canonical_deliver hs
  unfold deliverOrWait
  split
  · exact hs
  · split
    · next h => exact (congrArg Arrive.canonical h).mp hd
    · exact hs
    · next h => exact (congrArg Arrive.canonical h).mp hd
    · next h => exact (congrArg Arrive.canonical h).mp hd

theorem canonical_deliverFrom {s : State} {k : Packet} {n : Nat} (hs : s.mem.canonical) : (deliverFrom s k n).mem.canonical := by
  induction n generalizing s k with
  | zero => exact hs
  | succ n ih =>
    unfold deliverFrom
    dsimp only
    split
    · exact ih (canonical_setRouter (canonical_deliverOrWait (canonical_setRouter hs)))
    · exact canonical_deliverOrWait (canonical_setRouter hs)

theorem canonical_receive {s : State} {k : Packet} (hs : s.mem.canonical) : (receive s k).mem.canonical :=
  canonical_if (canonical_deliverFrom hs) (canonical_if (canonical_if hs hs) hs)

theorem canonical_retryPacket {s : State} {k : Packet} (hs : s.mem.canonical) : CanonicalSome (retryPacket s k) := by
  have hd : (deliver s k).canonical := canonical_deliver hs
  unfold retryPacket
  split
  · trivial
  · split
    · next h => exact (congrArg Arrive.canonical h).mp hd
    · next h => exact (congrArg Arrive.canonical h).mp hd
    · trivial
    · next h => exact (congrArg Arrive.canonical h).mp hd

theorem canonical_forward {s : State} {k : Packet} (hs : s.mem.canonical) : (forward s k).mem.canonical :=
  canonical_if (canonical_logPacket hs) hs

theorem canonicalNext_packetArrival {k : Packet} {s : State} (hs : s.mem.canonical) : CanonicalNext (execPacketArrival k s) := by
  have hd : (deliverBody s k).canonical := canonical_deliverBody hs
  refine canonicalNext_if canonicalNext_noEvent (canonicalNext_if ?_ (canonicalNext_if (canonical_receive hs)
    (canonicalNext_if canonicalNext_noEvent (canonicalNext_if ?_ (canonicalNext_if canonicalNext_noEvent
      (canonicalNext_if (canonical_receive hs) (canonical_forward hs)))))))
  · split
    · next h => exact (canonical_retryPacket hs).of_eq h
    · trivial
  · split
    · next h => exact (congrArg Arrive.canonical h).mp hd
    · trivial

/-! ## Lost modules -/

theorem canonical_loseModule {s : State} {f : Fid} (hs : s.mem.canonical) : (loseModule s f).mem.canonical := by
  unfold loseModule
  dsimp only
  split
  · exact hs
  · rw [mem_foldl fun _ _ => mem_groupLost ..]
    exact canonical_foldl (fun _ _ => canonical_logPacket) _ (canonical_rasLog hs)

theorem canonicalNext_hubLostWrite {v : Word} {s : State} (hs : s.mem.canonical) : CanonicalNext (execHubLostWrite v s) :=
  canonical_loseModule hs

theorem canonicalNext_moduleLostTimeout {f : Fid} {s : State} (hs : s.mem.canonical) : CanonicalNext (execModuleLostTimeout f s) := by
  unfold execModuleLostTimeout
  split
  · exact canonicalNext_if (canonical_loseModule hs) canonicalNext_noEvent
  · trivial

theorem canonical_actLost {s : State} (hs : s.mem.canonical) : (actLost s).mem.canonical :=
  canonical_foldl (fun _ _ => canonical_loseModule) _ (canonical_setRouter hs)

/-! ## Entries of the N streams -/

theorem all_startZpop {s : State} {c : Ctx} {d : Cmd} {h : HId} {z : ZReg} (hs : s.mem.canonical) :
    (startZpop s c d h z).All CanonicalSome := by
  unfold startZpop
  dsimp only
  split
  · trivial
  · refine Got.all_bind fun p => ?_
    split
    · simpa using hs
    · split
      · trivial
      · simpa using hs

theorem all_startZpush {s : State} {c : Ctx} {d : Cmd} {h : HId} {z : ZReg} (hs : s.mem.canonical) :
    (startZpush s c d h z).All CanonicalSome := by
  unfold startZpush
  split
  · trivial
  · refine Got.all_bind fun p => ?_
    split
    · trivial
    · simpa using hs

theorem all_startZopen {s : State} {c : Ctx} {d : Cmd} {h : HId} {z : ZReg} (hs : s.mem.canonical) :
    (startZopen s c d h z).All CanonicalSome := by
  refine Got.all_bind fun bs => ?_
  dsimp only
  split
  · trivial
  · split
    · trivial
    · simpa using hs

@[simp] theorem mem_startZclose (s : State) (c : Ctx) (d : Cmd) (z : ZReg) : (startZclose s c d z).mem = s.mem := mem_putCmd ..

theorem all_startTune {s : State} {c : Ctx} {d : Cmd} {h : HId} (hs : s.mem.canonical) : (startTune s c d h).All CanonicalSome := by
  refine Got.all_bind fun bs => ?_
  dsimp only
  split
  · trivial
  · split
    · trivial
    · simpa using hs

theorem canonical_lendCredit {s : State} {q : ZReq} (hs : s.mem.canonical) : CanonicalSome (lendCredit s q) := by
  unfold lendCredit
  split
  · trivial
  · cases roomAt s q.core q.z with
    | none => trivial
    | some j => exact hs

@[simp] theorem mem_pushEntry (s : State) (c : Ctx) (d : Cmd) (x : ZState) (h : HId) : (pushEntry s c d x h).mem = s.mem :=
  (mem_sendJob ..).trans (mem_putCmd ..)

theorem canonicalNext_creditGrant {x : CmdRef} {s : State} (hs : s.mem.canonical) : CanonicalNext (execCreditGrant x s) := by
  unfold execCreditGrant
  split
  · split
    · refine canonicalNext_if canonicalNext_noEvent (canonicalNext_if ?_ ?_)
      · simpa using hs
      · split
        · trivial
        · refine canonicalNext_if canonicalNext_noEvent ?_
          simpa using hs
    · trivial
  · trivial

theorem canonicalNext_zWatchdog {name : String} {x : CmdRef} {s : State} {detail : Ctx → Cmd → Option Nat} (hs : s.mem.canonical) :
    CanonicalNext (zWatchdog name x s detail) := by
  unfold zWatchdog
  split
  · split
    · exact canonicalNext_if (canonical_cmdTrap (by simpa using hs)) canonicalNext_noEvent
    · trivial
  · trivial

/-! ## Start and completion of commands -/

@[simp] theorem mem_endCmd (s : State) (x : CtxId) (d : Cmd) : (endCmd s x d).mem = s.mem := mem_putCmd ..
@[simp] theorem mem_statLands (s : State) (x : CtxId) (d : Cmd) (v : Word) : (statLands s x d v).mem = s.mem := by simp [statLands]
@[simp] theorem mem_statGone (s : State) (x : CtxId) (d : Cmd) : (statGone s x d).mem = s.mem := mem_mapCtx ..

@[simp] theorem mem_discard (s : State) (x : CtxId) (d : Cmd) : (discard s x d).mem = s.mem := by
  unfold discard
  dsimp only
  split <;> simp

theorem CanonicalSome.map {o : Option State} {f : State → State} (h : CanonicalSome o) (hf : ∀ t, (f t).mem = t.mem) :
    CanonicalSome (o.map f) := by
  cases o with
  | none => trivial
  | some t =>
    rw [Option.map_some, canonicalSome_some, hf]
    exact h

theorem canonicalSome_if {p : Prop} [Decidable p] {a b : Option State} (ha : CanonicalSome a) (hb : CanonicalSome b) :
    CanonicalSome (if p then a else b) := by
  split
  · exact ha
  · exact hb

theorem canonical_startPlain {s : State} {c : Ctx} {d : Cmd} (hs : s.mem.canonical) : CanonicalSome (startPlain s c d) := by
  unfold startPlain
  split
  · next q h => simpa using (all_runArray hs).ok h
  · exact canonical_cmdTrap hs
  · trivial

theorem canonical_startArray {s : State} {c : Ctx} {d : Cmd} (hs : s.mem.canonical) : CanonicalSome (startArray s c d) :=
  (canonical_startPlain hs).map fun t => mem_countArray t c.id

theorem canonical_startDrainm {s : State} {c : Ctx} {d : Cmd} {h : HId} {fn : BitVec 4} (hs : s.mem.canonical) :
    CanonicalSome (startDrainm s c d h fn) := by
  unfold startDrainm
  dsimp only
  refine canonicalSome_if trivial ?_
  generalize hr : runDrainm _ _ _ _ _ _ _ _ _ = r
  have hc : r.canonical := hr ▸ canonical_runDrainm hs
  cases r with
  | ok t fl st =>
    have ht : t.mem.canonical := hc
    simpa using ht
  | trap t r n o fl st a b e =>
    have ht : t.mem.canonical := hc
    simpa using canonical_cmdTrap (s := t.putCmd _ _) (by simpa using ht)
  | stall => trivial

theorem canonical_startTransform {s : State} {c : Ctx} {d : Cmd} (hs : s.mem.canonical) : CanonicalSome (startTransform s c d) := by
  have hr : (runTransform s c d.word d.sval.toNat).1.mem.canonical := canonical_runTransform hs
  unfold startTransform
  split
  · next t fl h =>
    have ht : t.mem.canonical := (congrArg (fun z => z.1.mem.canonical) h).mp hr
    dsimp only
    split
    · simpa using ht
    · simpa using ht
  · next h => exact canonical_cmdTrap ((congrArg (fun z => z.1.mem.canonical) h).mp hr)
  · trivial

theorem canonical_startLayer {s : State} {c : Ctx} {d : Cmd} {h : HId} {kind : Nat} (hs : s.mem.canonical) :
    CanonicalSome (startLayer s c d h kind) := by
  unfold startLayer
  split
  · split
    · simpa using hs
    · exact canonical_cmdTrap hs
    · trivial
  · exact canonical_cmdTrap hs

theorem canonical_startA {s : State} {c : Ctx} {d : Cmd} (hs : s.mem.canonical) : CanonicalSome (startA s c d) := by
  unfold startA
  split
  · exact canonicalSome_if (by simpa using hs) trivial
  · exact canonicalSome_if trivial (by simpa using hs)
  · simpa using hs
  · simpa using hs
  · simpa using hs
  · exact canonicalSome_if (canonical_startDrainm hs) trivial
  · exact canonical_startTransform hs
  · exact canonical_startTransform hs
  · exact canonical_startTransform hs
  · exact canonical_startTransform hs
  · exact canonical_startTransform hs
  · split
    · exact canonicalSome_if (canonical_startLayer hs) trivial
    · exact canonicalSome_if (canonicalSome_if (canonical_startArray hs) trivial) (canonical_startPlain hs)

theorem canonical_gotStart {g : Got (Option State)} {s : State} {x : CtxId} {d : Cmd} (hs : s.mem.canonical) (hg : g.All CanonicalSome) :
    CanonicalSome (g.start s x d) := by
  cases g with
  | ok o => exact hg
  | fail a b e => exact canonical_cmdTrap hs
  | stall => trivial

theorem canonical_startN {s : State} {c : Ctx} {d : Cmd} (hs : s.mem.canonical) : CanonicalSome (startN s c d) := by
  unfold startN
  split
  · exact canonical_gotStart hs (all_startZpop hs)
  · exact canonical_gotStart hs (all_startZpush hs)
  · exact canonical_gotStart hs (all_startZopen hs)
  · simpa using hs
  · exact canonical_gotStart hs (all_startTune hs)
  · exact canonicalSome_if trivial (canonical_startTrav hs)
  · exact canonicalSome_if trivial (canonical_gotCmd hs (all_startPush hs))
  · exact canonicalSome_if trivial (canonical_gotCmd hs (all_startComb hs))
  · trivial

theorem canonical_startHead {s : State} {c : Ctx} {d : Cmd} (hs : s.mem.canonical) : CanonicalSome (startHead s c d) := by
  unfold startHead
  split
  · exact canonical_startA hs
  · exact canonical_startN hs
  · cases chainOf d.word with
    | none => trivial
    | some h => exact canonical_startCopy hs

theorem canonicalNext_commandStart {x : CtxId} {q : Queue} {s : State} (hs : s.mem.canonical) : CanonicalNext (execCommandStart x q s) := by
  unfold execCommandStart
  split
  · trivial
  · refine canonicalNext_if canonicalNext_noEvent ?_
    split
    · trivial
    · simpa using hs
    · refine canonicalNext_if canonicalNext_noEvent (canonicalNext_if (canonical_cmdTrap hs) ?_)
      split
      · next h => exact (canonical_startHead hs).of_eq h
      · trivial

theorem canonicalNext_dataRecordComplete {x : CmdRef} {s : State} (hs : s.mem.canonical) : CanonicalNext (execDataRecordComplete x s) := by
  unfold execDataRecordComplete
  split
  · trivial
  · split
    · split
      · next h => exact (canonical_completeRecord hs).of_eq h
      · trivial
    · trivial

theorem canonical_retireCmd {s : State} {c : Ctx} {d : Cmd} (hs : s.mem.canonical) : CanonicalSome (retireCmd s c d) := by
  unfold retireCmd
  split
  · refine canonicalSome_if trivial ?_
    dsimp only
    split
    · simpa using hs
    · simpa using hs
  · simpa using hs

theorem canonicalNext_commandComplete {x : CmdRef} {s : State} (hs : s.mem.canonical) : CanonicalNext (execCommandComplete x s) := by
  unfold execCommandComplete
  split
  · trivial
  · split
    · refine canonicalNext_if canonicalNext_noEvent ?_
      split
      · next h => exact (canonical_retireCmd hs).of_eq h
      · trivial
    · refine canonicalNext_if canonicalNext_noEvent ?_
      split
      · simpa using hs
      · exact canonical_cmdTrap hs
    · trivial

/-! ## K words of the supervisor -/

theorem canonicalNext_eret {s : State} (hs : s.mem.canonical) : CanonicalNext (execEret s) :=
  canonicalNext_issue hs fun w t ht => by
    split
    · exact ht
    · simpa using ht

theorem canonical_landNow {w : At} {t : State} {d : SReg} {v : Word} (ht : t.mem.canonical) : (w.landNow t d v).canonical := by
  simpa [At.landNow] using ht

theorem canonical_csrrBody {d a : SReg} {n : SysReg} {w : At} {t : State} (ht : t.mem.canonical) : (csrrBody d a n w t).canonical := by
  unfold csrrBody
  split
  · exact canonical_landNow ht
  · split
    · exact canonical_landNow ht
    · split
      · exact ht
      · exact canonical_landNow ht
  · exact ht
  · exact ht
  · exact ht

theorem canonical_csrwBody {d a : SReg} {n : SysReg} {w : At} {t : State} (ht : t.mem.canonical) : (csrwBody d a n w t).canonical := by
  unfold csrwBody
  split
  · exact ht
  · split
    · exact ht
    · split
      · exact ht
      · exact ht
  · exact ht
  · exact ht
  · exact ht

theorem canonical_flushKey {m : MemSt} {k : Nat} (hm : m.canonical) : (flushKey m k).canonical :=
  canonical_foldl_mem (fun _ _ hn => canonical_dropLine _ _ (canonical_writeBack _ _ hn)) _ hm

theorem canonical_setKey {m : MemSt} {k : Nat} {v : Option KeyPair} (hm : m.canonical) : (setKey m k v).canonical := by
  cases v with
  | none => exact canonical_flushKey hm
  | some p => exact canonical_flushKey hm

theorem canonicalNext_keyset {a : SReg} {s : State} (hs : s.mem.canonical) : CanonicalNext (execKeyset a s) :=
  canonicalNext_issue hs fun w t ht => by
    dsimp only
    split
    · exact ht
    · refine (all_loadVirt ht).res ht fun r hr => ?_
      split
      · trivial
      · exact canonical_setKey hr

theorem canonicalNext_mbx {d a : SReg} {m : Fin 64} {s : State} (hs : s.mem.canonical) : CanonicalNext (execMbx d a m s) :=
  canonicalNext_issue hs fun w t ht => by
    dsimp only
    split
    · exact ht
    · split
      · exact canonical_landNow ht
      · exact (all_storeVirt ht).res ht fun u hu => canonical_landNow (canonical_setHub hu)

theorem canonical_mcloadBody {a : SReg} {g : Fin 256} {w : At} {t : State} (ht : t.mem.canonical) : (mcloadBody a g w t).canonical := by
  unfold mcloadBody
  dsimp only
  split
  · exact ht
  · split
    · exact ht
    · refine (all_loadVirt ht).res ht fun r hr => ?_
      rw [Res.canonical_done]
      split
      · exact canonical_putCore (canonical_setHub hr)
      · exact canonical_setHub hr

theorem canonicalNext_halt {i : BitVec 11} {s : State} (hs : s.mem.canonical) : CanonicalNext (execHalt i s) :=
  canonicalNext_issue hs fun _ _ ht => ht

/-! ## Graphs of Cairn -/

theorem all_readDecls {s : State} {region v : Nat} (hs : s.mem.canonical) : (readDecls s region v).All fun q => q.2.mem.canonical := by
  unfold readDecls
  dsimp only
  split
  · trivial
  · exact hs
  · next r h => exact (all_loadVirt hs).ok h

theorem all_readNodes {s : State} {who : Who} {region : Nat} {recs : List (BitVec 2048)} {decls : List (List (BitVec 128))} {a n : Nat}
    (hs : s.mem.canonical) : (readNodes s who region recs decls a n).All fun q => q.2.mem.canonical := by
  induction n generalizing s recs decls a with
  | zero => exact hs
  | succ n ih =>
    refine (all_loadVirt hs).bind fun r hr => ?_
    dsimp only
    split
    · exact hr
    · refine (all_readDecls hr).bind fun q hq => ?_
      split
      · exact hq
      · split
        · exact hq
        · exact ih hq

theorem canonical_graphErr {s : State} {a e : Nat} (hs : s.mem.canonical) : (graphErr s a e).mem.canonical := canonical_cairnStore hs
theorem canonical_graphStep {s : State} {a n : Nat} (hs : s.mem.canonical) : (graphStep s a n).mem.canonical := canonical_cairnStore hs

@[simp] theorem mem_putGraph (s : State) (g : Graph) : (putGraph s g).mem = s.mem := rfl

theorem all_loadGraph {s : State} {who : Who} {a : Nat} (hs : s.mem.canonical) : (loadGraph s who a).All fun q => q.2.mem.canonical := by
  refine (all_loadVirt hs).bind fun r hr => ?_
  dsimp only
  split
  · exact hr
  · split
    · exact hr
    · split
      · exact hr
      · refine (all_readNodes hr).bind fun q hq => ?_
        split
        · exact hq
        · exact canonical_writeGraphState hq

theorem canonical_graphWord {a : SReg} {w : At} {t : State} {f : Nat → Res} (ht : t.mem.canonical) (hf : ∀ va, (f va).canonical) :
    (graphWord a w t f).canonical := by
  unfold graphWord
  dsimp only
  split
  · exact ht
  · exact hf _

theorem canonicalNext_graphLoad {a : SReg} {s : State} (hs : s.mem.canonical) : CanonicalNext (execGraphLoad a s) :=
  canonicalNext_issue hs fun w t ht => canonical_graphWord ht fun va => by
    split
    · exact canonical_graphErr ht
    · split
      · trivial
      · exact (all_loadGraph ht).res ht fun r hr => canonical_graphErr hr

@[simp] theorem mem_configTag (s : State) (t : Tag × Nat) : (configTag s t).mem = s.mem := rfl

@[simp] theorem mem_resetTags (s : State) (mask : BitVec 8) : (resetTags s mask).mem = s.mem := by
  refine mem_foldl (fun u t => ?_) _ _
  split
  · split <;> rfl
  · rfl

@[simp] theorem mem_resetIdle (s : State) : (resetIdle s).mem = s.mem := by
  unfold resetIdle
  split
  · exact mem_resetTags ..
  · rfl

@[simp] theorem mem_joinTags (s : State) (k : CoreId) (mask : BitVec 8) : (joinTags s k mask).mem = s.mem := rfl
@[simp] theorem mem_leaveTags (s : State) (k : CoreId) (mask : BitVec 8) : (leaveTags s k mask).mem = s.mem := rfl

theorem canonical_startGraph {s : State} {g : Graph} (hs : s.mem.canonical) : (startGraph s g).mem.canonical := by
  unfold startGraph
  dsimp only
  rw [mem_foldl mem_configTag]
  exact canonical_writeGraphState (canonical_if (canonical_graphStep hs) hs)

theorem canonicalNext_graphStart {a : SReg} {s : State} (hs : s.mem.canonical) : CanonicalNext (execGraphStart a s) :=
  canonicalNext_issue hs fun w t ht => canonical_graphWord ht fun va => by
    split
    · split
      · exact canonical_graphErr (canonical_startGraph ht)
      · exact canonical_graphErr ht
    · exact canonical_graphErr ht

@[simp] theorem mem_unplace (s : State) (c : Ctx) : (unplace s c).mem = s.mem := by
  unfold unplace
  dsimp only
  split <;> split <;> simp

@[simp] theorem mem_dropRetiredOf (s : State) (k : CoreId) : (dropRetiredOf s k).mem = s.mem := by
  cases k with
  | core d n => exact mem_dropRetired ..
  | sup => rfl

@[simp] theorem mem_vacate (s : State) (c : Ctx) : (vacate s c).mem = s.mem := by simp [vacate]

theorem canonical_reportDone {s : State} {c : Ctx} (hs : s.mem.canonical) : (reportDone s c).mem.canonical := by
  unfold reportDone
  split
  · exact hs
  · have hu := fun (g : Graph) p [Decidable p] a n =>
      canonical_if (p := p) (s := putGraph s g) (t := graphStep (putGraph s g) a n) hs (canonical_graphStep hs)
    dsimp only
    split
    · exact canonical_cairnStore (canonical_writeGraphState (hu ..))
    · exact hu ..

theorem canonical_endJob {s : State} {c : Ctx} (hs : s.mem.canonical) : (endJob s c).mem.canonical :=
  canonical_reportDone (by simpa using hs)

theorem canonical_rdvFinBody {w : At} {t : State} (ht : t.mem.canonical) : (rdvFinBody w t).canonical := by
  unfold rdvFinBody
  split
  · exact ht
  · split
    · exact ht
    · split
      · simpa using ht
      · exact canonical_endJob ht

theorem canonical_stopGraph {t : State} {g : Graph} (ht : t.mem.canonical) : (stopGraph t g).canonical := by
  unfold stopGraph
  split
  · exact ht
  · exact canonical_graphErr (canonical_if ht (canonical_writeGraphState ht))

theorem canonical_graphStopBody {a : SReg} {w : At} {t : State} (ht : t.mem.canonical) : (graphStopBody a w t).canonical :=
  canonical_graphWord ht fun va => by
    split
    · split
      · exact canonical_stopGraph ht
      · exact canonical_graphErr ht
    · exact canonical_graphErr ht

/-! ## Jobs that are discarded -/

@[simp] theorem mem_loseRanks (s : State) (c : Ctx) : (loseRanks s c).mem = s.mem := by
  unfold loseRanks
  dsimp only
  refine (mem_foldl (fun u d => ?_) _ _).trans (mem_foldl (fun u t => mem_foldl (fun v r => ?_) _ _) _ _)
  · split
    · exact mem_sendJob ..
    · rfl
  · split <;> split <;> simp

@[simp] theorem mem_forgetSaved (s : State) (c : Ctx) : (forgetSaved s c).mem = s.mem := mem_resetTags ..

@[simp] theorem mem_discardJobs (s : State) (a : Nat) : (discardJobs s a).mem = s.mem := by
  unfold discardJobs
  dsimp only
  exact (mem_foldl (fun _ _ => by simp) _ _).trans (mem_foldl (fun _ _ => by simp) _ _)

theorem canonicalNext_graphUnload {a : SReg} {s : State} (hs : s.mem.canonical) : CanonicalNext (execGraphUnload a s) :=
  canonicalNext_issue hs fun w t ht => canonical_graphWord ht fun va => by
    split
    · split
      · split
        · trivial
        · exact canonical_graphErr (canonical_writeGraphState (by simpa using ht))
      · exact canonical_graphErr ht
    · exact canonical_graphErr ht

/-! ## Dispatch and restore -/

@[simp] theorem mem_fillPool (s : State) : (fillPool s).mem = s.mem := by
  refine mem_foldl (fun t g => ?_) _ _
  split
  · dsimp only
    split <;> rfl
  · rfl

theorem all_allocDecls {s : State} {x : CtxId} {l : List (BitVec 128)} (hs : s.mem.canonical) :
    (allocDecls s x l).All fun t => t.mem.canonical := by
  induction l generalizing s with
  | nil => exact hs
  | cons d l ih =>
    unfold allocDecls
    split
    · split
      · exact ih hs
      · next t h =>
        have ht : t.mem.canonical := mem_allocHandle h ▸ hs
        dsimp only
        split
        · exact ih ht
        · exact (all_loadVirt ht).bind fun r hr => ih (by simpa using hr)
    · exact ih hs

@[simp] theorem mem_toRunning (s : State) (g : Graph) (st i : Nat) : (toRunning s g st i).mem = s.mem := rfl

theorem canonical_dispatchNew {s : State} {g : Graph} {st i : Nat} {x : CtxId} (hs : s.mem.canonical) :
    CanonicalSome (dispatchNew s g st i x) := by
  unfold dispatchNew
  dsimp only
  split
  · next t h =>
    rw [canonicalSome_some, mem_joinTags, mem_toRunning]
    refine Got.All.ok (P := fun u : State => u.mem.canonical) ?_ h
    exact all_allocDecls hs
  · exact canonical_writeGraphState hs
  · trivial

@[simp] theorem mem_placeHandles (s : State) (c : Ctx) (l : List Handle) : (placeHandles s c l).mem = s.mem := by
  induction l generalizing s with
  | nil => rfl
  | cons h l ih =>
    refine (ih _).trans ?_
    split
    · rfl
    · split <;> rfl

@[simp] theorem mem_restore (s : State) (c : Ctx) (x : CtxId) : (restore s c x).mem = s.mem := by
  unfold restore
  dsimp only
  split <;> split <;> simp

theorem canonical_thaw {s : State} {x : CtxId} (hs : s.mem.canonical) : (thaw s x).mem.canonical := by
  unfold thaw
  split
  · exact hs
  · dsimp only
    split
    · exact canonical_takeTrap hs
    · exact hs

theorem canonical_dispatchOne {s : State} {l : List (Graph × Nat × Nat)} (hs : s.mem.canonical) : CanonicalSome (dispatchOne s l) := by
  induction l with
  | nil => trivial
  | cons e l ih =>
    obtain ⟨g, st, i⟩ := e
    unfold dispatchOne
    split
    · exact canonical_writeGraphState hs
    · split
      · exact ih
      · split
        · exact canonical_thaw (by simpa using hs)
        · exact canonical_dispatchNew hs

theorem canonicalNext_cairnDispatch {s : State} (hs : s.mem.canonical) : CanonicalNext (execCairnDispatch s) := by
  refine canonicalNext_if canonicalNext_noEvent (canonicalNext_if (canonical_fatalError hs) ?_)
  split
  · simpa using hs
  · have ht : (fillPool s).mem.canonical := by simpa using hs
    dsimp only
    split
    · next h => exact (canonical_dispatchOne ht).of_eq h
    · exact canonicalNext_if canonicalNext_noEvent ht

/-! ## Pre-emption and the quiescent core -/

@[simp] theorem mem_saveCtx (s : State) (c : Ctx) : (saveCtx s c).mem = s.mem :=
  (mem_dropRetiredOf ..).trans (mem_unplace ..)

theorem canonicalNext_preEmption {x : CtxId} {s : State} (hs : s.mem.canonical) : CanonicalNext (execPreEmption x s) := by
  unfold execPreEmption
  split
  · trivial
  · refine canonicalNext_if canonicalNext_noEvent ?_
    dsimp only
    rw [canonicalNext_next]
    split
    · simpa using hs
    · simpa using hs

theorem canonical_deadlocked {s : State} {k : CoreId} (hs : s.mem.canonical) : (deadlocked s k).mem.canonical :=
  canonical_foldl (fun _ _ => canonical_takeTrap) _ hs

theorem canonicalNext_quiescenceTimeout {k : CoreId} {s : State} (hs : s.mem.canonical) : CanonicalNext (execQuiescenceTimeout k s) := by
  unfold execQuiescenceTimeout
  split
  · trivial
  · refine canonicalNext_if canonicalNext_noEvent ?_
    split
    · exact canonical_deadlocked hs
    · split
      · trivial
      · exact canonicalNext_if hs (canonical_takeTrap hs)

/-! ## Gang switches -/

@[simp] theorem mem_sendMark (g : Nat) (body : PacketBody) (s : State) (m : Fid × Fin 8) : (sendMark g body s m).mem = s.mem :=
  mem_sendPacket ..

theorem canonical_gangEnter {s : State} {g : Nat} {st : Fin 5} (hs : s.mem.canonical) : (gangEnter s g st).mem.canonical :=
  canonical_gangSet (by simpa using hs)

theorem canonical_gangStart {s : State} {g : Nat} {h : GangHold} (hs : s.mem.canonical) : (gangStart s g h).mem.canonical :=
  canonical_foldl (fun _ _ => canonical_writeGraphState) _
    (canonical_gangSet (canonical_gangSet (canonical_gangSet (canonical_gangSet (by simpa using hs)))))

theorem canonical_settleLocals {s : State} (hs : s.mem.canonical) : (settleLocals s).mem.canonical :=
  canonical_foldl (fun _ _ => canonical_receive) _ (canonical_setRouter hs)

@[simp] theorem mem_clearGang (s : State) (g : Nat) : (clearGang s g).mem = s.mem := by simp [clearGang]

theorem canonical_gangLift {s : State} {g : Nat} (hs : s.mem.canonical) : (gangLift s g).mem.canonical := by
  refine canonical_foldl (fun _ _ => canonical_saveItem) _ ?_
  rw [mem_clearGang]
  dsimp only
  rw [mem_gangPut, mem_foldl mem_saveCtx]
  refine canonical_settleLocals ?_
  rw [mem_foldl fun _ _ => mem_foldl (fun _ _ => mem_sendMark ..) _ _]
  exact hs

theorem canonical_gangBegin {s : State} {g : Nat} {h : GangHold} (hs : s.mem.canonical) : (gangBegin s g h).mem.canonical :=
  canonical_if (canonical_gangLift (canonical_gangStart hs)) (canonical_gangStart hs)

theorem canonical_gangBody {a : SReg} {w : At} {t : State} (ht : t.mem.canonical) : (gangBody a w t).canonical := by
  unfold gangBody
  dsimp only
  split
  · split
    · split
      · exact canonical_gangLift ht
      · exact ht
    · simpa using ht
  · split
    · trivial
    · exact Got.All.res (P := fun _ => True) (.of_ok fun _ _ => trivial) ht fun _ _ => canonical_gangBegin ht

@[simp] theorem mem_gangDone (s : State) (g : Nat) : (gangDone s g).mem = s.mem := by
  unfold gangDone
  dsimp only
  split
  · rfl
  · split
    · rfl
    · split
      · split <;> split <;> simp
      · rfl

@[simp] theorem mem_sendLater (s : State) (g : Nat) : (sendLater s g).mem = s.mem :=
  mem_foldl (fun _ _ => mem_sendPacket ..) _ _

theorem canonicalNext_gangSweepClose {g : Fin 4096} {s : State} (hs : s.mem.canonical) : CanonicalNext (execGangSweepClose g s) := by
  refine canonicalNext_if ?_ canonicalNext_noEvent
  have hu : ∀ st : Fin 5, ∀ x, (gangEnter (gangSet (gangPut (takeSeq s).2 x) g.val 447 384 (takeSeq s).1) g.val st).mem.canonical :=
    fun st x => canonical_gangEnter (canonical_gangSet (by simpa using hs))
  rw [canonicalNext_next, mem_gangDone]
  exact canonical_if (by simpa using hu _ _) (hu _ _)

theorem mem_reinject {s t : State} {g : Nat} {it : SaveItem} (h : reinject s g it = some t) : t.mem = s.mem := by
  unfold reinject at h
  split at h
  · cases h; rfl
  · split at h
    · cases h; exact mem_putGroup ..
    · cases h
  · split at h <;> cases h <;> rfl

@[simp] theorem mem_reinjectAll (s : State) (g base : Nat) (l : List (Nat × SaveItem)) : (reinjectAll s g base l).2.mem = s.mem := by
  induction l generalizing s with
  | nil => rfl
  | cons it l ih =>
    unfold reinjectAll
    split
    · next t h => exact (ih t).trans (mem_reinject h)
    · rfl

@[simp] theorem mem_gresGo (s : State) (g : Nat) : (gresGo s g).mem = s.mem := by
  unfold gresGo
  dsimp only
  split
  · refine (mem_foldl (fun _ _ => mem_sendMark ..) _ _).trans ?_
    simp
  · simp

theorem canonical_gresBody {a : SReg} {w : At} {t : State} (ht : t.mem.canonical) : (gresBody a w t).canonical := by
  have hres : ∀ {α : Type} {q : Got α} {f : α → Res}, (∀ b, (f b).canonical) → (q.res t 7 f).canonical := fun hf =>
    Got.All.res (P := fun _ => True) (.of_ok fun _ _ => trivial) ht fun b _ => hf b
  unfold gresBody
  dsimp only
  split
  · split
    · split
      · split
        · exact ht
        · exact hres fun _ => by simpa using ht
      · exact ht
    · simpa using ht
  · split
    · trivial
    · exact hres fun _ => canonical_gangEnter (by simpa using ht)

theorem canonicalNext_gresResume {g : Fin 4096} {s : State} (hs : s.mem.canonical) : CanonicalNext (execGresResume g s) := by
  refine canonicalNext_if ?_ canonicalNext_noEvent
  rw [canonicalNext_next, mem_gangDone, mem_sendLater]
  refine canonical_gangEnter (canonical_gangSet ?_)
  rw [mem_gangPut, mem_takeSeq]
  exact canonical_foldl (fun _ _ => canonical_writeGraphState) _ (canonical_foldl (fun _ _ => canonical_thaw) _ hs)

/-! ## Events of the module -/

theorem canonicalNext_lineEviction {die : Die} {line : Nat} {s : State} (hs : s.mem.canonical) : CanonicalNext (execLineEviction die line s) := by
  unfold execLineEviction
  split
  · exact canonicalNext_if canonicalNext_noEvent (canonical_dropLine _ _ (canonical_writeBack _ _ hs))
  · trivial

theorem canonicalNext_hostDoorbell {m : Fin 64} {value : Word} {buffer : List Byte} {s : State} (hs : s.mem.canonical) :
    CanonicalNext (execHostDoorbell m value buffer s) := canonicalNext_if canonicalNext_noEvent (canonical_setHub hs)

theorem canonicalNext_repairCmd {s : State} {f : State → State} (hs : s.mem.canonical) (hf : (f s).mem.canonical) :
    CanonicalNext (repairCmd s f) := canonical_if hs hf

theorem canonical_wakeStalled {s : State} (hs : s.mem.canonical) : (wakeStalled s).mem.canonical := hs

theorem canonicalNext_hbmRepairDone {j : Fin 8} {s : State} (hs : s.mem.canonical) : CanonicalNext (execHbmRepairDone j s) :=
  canonicalNext_if (canonical_wakeStalled (canonical_setHub (canonical_setHub hs))) canonicalNext_noEvent

theorem canonicalNext_quoteReady {s : State} (hs : s.mem.canonical) : CanonicalNext (execQuoteReady s) :=
  canonicalNext_if (canonical_setHub hs) canonicalNext_noEvent

theorem canonicalNext_powerUp {firmware : List Byte} {s : State} : CanonicalNext (execPowerUp firmware s) :=
  canonicalNext_if canonicalNext_noEvent canonical_reset

theorem canonical_loadBootKey {s : State} (hs : s.mem.canonical) : (loadBootKey s).mem.canonical := canonical_if hs hs

theorem canonical_setReady {s : State} {f : ReadyFn} (hs : s.mem.canonical) : (setReady s f).mem.canonical := by
  cases f with
  | hub b => exact canonical_wakeStalled (canonical_setHub (canonical_if (canonical_loadBootKey hs) hs))
  | cluster c => exact canonical_setHub hs
  | core d k => exact canonical_setHub hs
  | port p => exact canonical_relight (canonical_setHub hs)

theorem canonicalNext_functionReady {f : ReadyFn} {s : State} (hs : s.mem.canonical) : CanonicalNext (execFunctionReady f s) :=
  canonicalNext_if (canonical_setReady hs) canonicalNext_noEvent

theorem canonicalNext_bootDoorbell {value : Word} {image : List Byte} {s : State} (hs : s.mem.canonical) :
    CanonicalNext (execBootDoorbell value image s) :=
  canonicalNext_if (canonicalNext_if hs canonicalNext_noEvent)
    (canonicalNext_if (canonical_physStore hs) (canonical_setHub (canonical_physStore hs)))

theorem canonical_setCtxs {s : State} {l : List Ctx} (hs : s.mem.canonical) : { s with ctxs := l }.mem.canonical := hs

theorem canonicalNext_supervisorStart {s : State} (hs : s.mem.canonical) : CanonicalNext (execSupervisorStart s) :=
  canonicalNext_if canonicalNext_noEvent
    (canonicalNext_if (canonical_fatalError hs) (canonicalNext_if (canonical_setHub hs) (canonical_setCtxs (canonical_setHub hs))))

theorem canonical_poisonLine {s : State} {pa : Nat} (hs : s.mem.canonical) : (poisonLine s pa).mem.canonical := hs

theorem canonicalNext_uncorrectableEcc {site : EccSite} {s : State} (hs : s.mem.canonical) : CanonicalNext (execUncorrectableEcc site s) := by
  have hp : ∀ k addr loc n pa, (poisonLine (rasLog s k addr loc n) pa).mem.canonical := fun _ _ _ _ _ => canonical_poisonLine (canonical_rasLog hs)
  cases site with
  | vital => exact canonical_fatalError (canonical_rasLog hs)
  | line pa => exact canonical_if (canonical_fatalError (hp ..)) (hp ..)
  | handle x h row off =>
    unfold execUncorrectableEcc
    dsimp only
    split
    · trivial
    · split
      · trivial
      · exact canonicalNext_if canonicalNext_noEvent (canonical_putCtx (canonical_rasLog hs))
  | access x va pa =>
    exact canonicalNext_if (canonical_if (canonical_fatalError (hp ..)) (canonical_trapWord (hp ..))) canonicalNext_noEvent

theorem canonicalNext_powerCapExceeded {watts : BitVec 16} {s : State} (hs : s.mem.canonical) : CanonicalNext (execPowerCapExceeded watts s) :=
  canonicalNext_if (canonical_rasLog (canonical_setHub hs)) canonicalNext_noEvent

theorem canonical_powerOff {s : State} (hs : s.mem.canonical) : (powerOff s).mem.canonical :=
  canonical_setHub (canonical_foldl (fun _ _ hu => canonical_foldl (fun _ _ => canonical_setLane) _ hu) _ hs)

theorem canonical_thermalTrip {temp : BitVec 16} {s : State} (hs : s.mem.canonical) : (thermalTrip temp s).mem.canonical :=
  canonical_powerOff (canonical_fatalError (canonical_setHub hs))

theorem canonicalNext_thermalTrip {temp : BitVec 16} {s : State} (hs : s.mem.canonical) : CanonicalNext (execThermalTrip temp s) :=
  canonicalNext_if (canonical_thermalTrip hs) canonicalNext_noEvent

theorem canonicalNext_thermalThrottle {temp : BitVec 16} {s : State} (hs : s.mem.canonical) : CanonicalNext (execThermalThrottle temp s) :=
  canonicalNext_if (canonical_thermalTrip hs) (canonicalNext_if (canonical_rasLog (canonical_setHub hs)) canonicalNext_noEvent)

theorem canonicalNext_throttlingEnds {watts temp : BitVec 16} {s : State} (hs : s.mem.canonical) :
    CanonicalNext (execThrottlingEnds watts temp s) := canonicalNext_if (canonical_setHub hs) canonicalNext_noEvent

theorem canonicalNext_supplyVoltageOut {s : State} (hs : s.mem.canonical) : CanonicalNext (execSupplyVoltageOut s) :=
  canonical_powerOff (canonical_fatalError hs)

theorem canonicalNext_registerWrite {off : Nat} {v : Word} {manager : Bool} {s : State} (hs : s.mem.canonical) :
    CanonicalNext (execRegisterWrite off v manager s) := canonicalNext_if (canonical_hubWrite hs) canonicalNext_noEvent

/-! ## Fetched words, landings and held words -/

theorem canonicalNext_illegalWord {why : DecodeFail} {s : State} (hs : s.mem.canonical) : CanonicalNext (execIllegalWord why s) := by
  unfold execIllegalWord
  split
  · trivial
  · next a t h => exact canonical_trapWord (mem_at h ▸ hs)

theorem canonicalNext_fetchFault {cause : FetchCause} {s : State} (hs : s.mem.canonical) : CanonicalNext (execFetchFault cause s) := by
  unfold execFetchFault
  split
  · trivial
  · next a t h => exact canonical_trapWord (mem_at h ▸ hs)

theorem canonical_fetchWord {s : State} {c : Ctx} {x : StreamId} (hs : s.mem.canonical) : (fetchWord s c x).2.mem.canonical := by
  unfold fetchWord
  dsimp only
  split
  · exact hs
  · exact hs
  · next r h => exact canonical_readPieces _ _ _ ((all_checkAccess hs).ok h)

@[simp] theorem mem_countAged (s : State) (rs : List Ready) (p : Ready) : (countAged s rs p).mem = s.mem :=
  mem_foldl (fun _ _ => mem_mapStream ..) _ _

@[simp] theorem mem_issuing (s : State) (k : CoreSt) (rs : List Ready) (p : Ready) : (issuing s k rs p).mem = p.after.mem := by
  simp [issuing]

theorem canonicalNext_landAt {name : String} {x : StreamRef} {seq : Nat} {ok : Flight → Bool} {s : State} (hs : s.mem.canonical) :
    CanonicalNext (landAt name x seq ok s) := by
  unfold landAt
  split
  · trivial
  · split
    · exact hs
    · trivial

theorem canonicalNext_waittDeadline {x : StreamRef} {s : State} (hs : s.mem.canonical) : CanonicalNext (execWaittDeadline x s) := by
  unfold execWaittDeadline
  split
  · trivial
  · dsimp only
    split
    · refine canonicalNext_if ?_ canonicalNext_noEvent
      simpa using hs
    · trivial

@[simp] theorem mem_released (s : State) (x : StreamRef) (i : Instr) : (released s x i).mem = s.mem := mem_mapStream ..

/-! ## Every word and event -/

theorem canonical_timeStepBy {s : State} {v : Word} (hs : s.mem.canonical) : (timeStepBy s v).mem.canonical := hs

/-- What every meaning keeps, but that of a wait that has ended, which takes up another word. -/
theorem canonicalNext_exec_other {i : Instr} {s : State} (hi : ∀ x, i ≠ .waitSatisfied x) (hs : s.mem.canonical) : CanonicalNext (exec i s) := by
  unfold exec
  cases i <;> dsimp only
  case waitSatisfied x => exact absurd rfl (hi x)
  case nop | fence | trap | vadd | vsub | vmul | vmin | vmax | vfma | vfms | vabs | vneg | vdiv | vrem | vsqrt | vrcp | vrsq | vexp2 |
      vlog2 | vsin | vcos | vtanh | vand | vor | vxor | vsll | vsrl | vsra | vcvt | vcmpeq | vcmplt | vcmple | vcmpun | vsel | vpand |
      vpor | vpxor | vpnot | vperm | vredadd | vredmax | vredmin | vscan | vsplat | vins | vmov | tlbiPage | tlbiKey | tlbiAll =>
    exact canonicalNext_issue hs fun _ _ ht => ht
  case add | sub | and | or | xor | sll | srl | sra | slt | sltu | min | minu | max | maxu | mul | mulh | mulhu | addi | andi | ori |
      xori | slli | srli | srai | slti | sltiu | li | lsi | cmpeq | cmpne | cmplt | cmpltu | cmpge | cmpgeu | cand | cor | cxor | candn |
      vany | vall | rdtime => exact canonicalNext_issue hs fun _ _ ht => canonical_expose ht
  case divs | rems | divn | remn => exact canonicalNext_issue hs fun _ _ ht => canonical_divS ht
  case srr => exact canonicalNext_issue hs fun _ _ ht => canonical_srrBody ht
  case srw => exact canonicalNext_issue hs fun _ _ ht => canonical_srwBody ht
  case bpt => exact canonicalNext_bpt hs
  case bptr => exact canonicalNext_bptr hs
  case bjt => exact canonicalNext_bjt hs
  case btr | btrFalse | btrAlways | btrl | btrlFalse | btrlAlways => exact canonicalNext_issue hs fun _ _ ht => canonical_transfer ht
  case lb | lbu | lh | lhu | lw | lwu | ld => exact canonicalNext_issue hs fun _ _ ht => canonical_loadBody ht
  case sb | sh | sw | sd => exact canonicalNext_issue hs fun _ _ ht => canonical_storeBody ht
  case lq => exact canonicalNext_issue hs fun _ _ ht => canonical_loadPair ht
  case sq => exact canonicalNext_issue hs fun _ _ ht => canonical_storePair ht
  case amow | amod | casw | casd | casq => exact canonicalNext_issue hs fun _ _ ht => canonical_atomicBody ht
  case waitt => exact canonicalNext_waitt hs
  case vext => exact canonicalNext_issue hs fun _ _ ht => by simpa using ht
  case vldh => exact canonicalNext_issue hs fun _ _ ht => canonical_vldhBody ht
  case vsth => exact canonicalNext_issue hs fun _ _ ht => canonical_vsthBody ht
  case vldm => exact canonicalNext_issue hs fun _ _ ht => canonical_vldmBody ht
  case vstm => exact canonicalNext_issue hs fun _ _ ht => canonical_vstmBody ht
  case vxcGather | vxcScatter => exact canonicalNext_issue hs fun _ _ ht => canonical_vxcMem ht
  case vxcHandleGather | vxcHandleScatter => exact canonicalNext_issue hs fun _ _ ht => canonical_vxcHandle ht
  case vxcTableLookup => exact canonicalNext_issue hs fun _ _ ht => canonical_vxcTable ht
  case vxcDataComplete => exact canonicalNext_vxcDataComplete hs
  case vfence => exact canonicalNext_issue hs fun _ _ ht => canonical_vfenceBody ht
  case lacq | lrel | bload | mma | drain | dbias | dact | dclamp | statg | fft | ifft | shtf | shti | plan | mma3 | layerf | layerd |
      layerw | layeru => exact canonicalNext_issue hs fun _ _ ht => canonical_aBody ht
  case dtt => exact canonicalNext_dtt hs
  case drainm => exact canonicalNext_drainm hs
  case stats | statc => exact canonicalNext_issue hs fun _ _ ht => canonical_statRead ht
  case uopArr => exact canonicalNext_uopArr hs
  case uopSet | uopAdd | uopLoop | uopSafe => exact canonicalNext_uop hs fun _ => canonical_uop_go hs
  case uopEnd => exact canonicalNext_uopEnd hs
  case copy | chain | pref | retn | invr | copyo | chaino | copya | chaina | offl | wbr =>
    exact canonicalNext_issue hs fun _ _ ht => canonical_chainBody ht
  case dataRecordComplete => exact canonicalNext_dataRecordComplete hs
  case zpop | zpush | zopen | tune | trav | pushr | ncomb => exact canonicalNext_issue hs fun _ _ ht => canonical_nBody ht
  case zclose => exact canonicalNext_issue hs fun _ _ ht => canonical_enqueue ht
  case pinit => exact canonicalNext_issue hs fun _ _ ht => canonical_initCell ht
  case pinitr => exact canonicalNext_pinitr hs
  case parrive | pdrop => exact canonicalNext_issue hs fun _ _ ht => canonical_arriveBody ht
  case pwait => exact canonicalNext_issue hs fun _ _ ht => canonical_pwaitBody ht
  case rinit => exact canonicalNext_rinit hs
  case rclaim => exact canonicalNext_issue hs fun _ _ ht => canonical_rclaimBody ht
  case rcommit => exact canonicalNext_rcommit hs
  case rwfill => exact canonicalNext_issue hs fun _ _ ht => canonical_rwfillBody ht
  case rwfree => exact canonicalNext_issue hs fun _ _ ht => canonical_rwfreeBody ht
  case rfree => exact canonicalNext_rfree hs
  case barr => exact canonicalNext_issue hs fun _ _ ht => canonical_barrBody ht
  case bara => exact canonicalNext_bara hs
  case bwait => exact canonicalNext_issue hs fun _ _ ht => canonical_bwaitBody ht
  case bdrop => exact canonicalNext_bdrop hs
  case belayCompletion => exact canonicalNext_belayCompletion hs
  case barrierWatchdog => exact canonicalNext_barrierWatchdog hs
  case gset | gseti => exact canonicalNext_issue hs fun _ _ ht => canonical_guardBody ht
  case gclr => exact canonicalNext_issue hs fun _ _ ht => canonical_gclrBody ht
  case fork => exact canonicalNext_issue hs fun _ _ ht => canonical_forkBody ht
  case rdv => exact canonicalNext_issue hs fun _ _ ht => canonical_rdvBody ht
  case rdvFin => exact canonicalNext_issue hs fun _ _ ht => canonical_rdvFinBody ht
  case waitp => exact canonicalNext_issue hs fun _ _ ht => canonical_waitpBody ht
  case halloc => exact canonicalNext_halloc hs
  case hfree => exact canonicalNext_issue hs fun _ _ ht => canonical_hfreeBody ht
  case hfmt => exact canonicalNext_issue hs fun _ _ ht => canonical_hfmtBody ht
  case dreg => exact canonicalNext_issue hs fun _ _ ht => canonical_dregBody ht
  case dunreg => exact canonicalNext_dunreg hs
  case dmode => exact canonicalNext_issue hs fun _ _ ht => canonical_dmodeBody ht
  case tread => exact canonicalNext_issue hs fun _ _ ht => canonical_treadBody ht
  case tlim => exact canonicalNext_tlim hs
  case tset => exact canonicalNext_tset hs
  case sread => exact canonicalNext_sread hs
  case sstep | sskip => exact canonicalNext_issue hs fun _ _ ht => canonical_scaleBody ht
  case eret => exact canonicalNext_eret hs
  case csrr => exact canonicalNext_issue hs fun _ _ ht => canonical_csrrBody ht
  case csrw => exact canonicalNext_issue hs fun _ _ ht => canonical_csrwBody ht
  case keyset => exact canonicalNext_keyset hs
  case gang => exact canonicalNext_issue hs fun _ _ ht => canonical_gangBody ht
  case gres => exact canonicalNext_issue hs fun _ _ ht => canonical_gresBody ht
  case graphLoad => exact canonicalNext_graphLoad hs
  case graphStart => exact canonicalNext_graphStart hs
  case graphStop => exact canonicalNext_issue hs fun _ _ ht => canonical_graphStopBody ht
  case graphUnload => exact canonicalNext_graphUnload hs
  case mbx => exact canonicalNext_mbx hs
  case mcload => exact canonicalNext_issue hs fun _ _ ht => canonical_mcloadBody ht
  case halt => exact canonicalNext_halt hs
  case interlockedResultLands | exposedResultLands => exact canonicalNext_landAt hs
  case waittDeadline => exact canonicalNext_waittDeadline hs
  case commandStart => exact canonicalNext_commandStart hs
  case commandComplete => exact canonicalNext_commandComplete hs
  case leaseGrant => exact canonicalNext_leaseGrant hs
  case leaseBound => exact canonicalNext_leaseBound hs
  case leaseTimeout => exact canonicalNext_leaseTimeout hs
  case quiescenceTimeout => exact canonicalNext_quiescenceTimeout hs
  case cairnDispatch => exact canonicalNext_cairnDispatch hs
  case lineEviction => exact canonicalNext_lineEviction hs
  case creditGrant => exact canonicalNext_creditGrant hs
  case zpushWatchdog | zpopWatchdog => exact canonicalNext_zWatchdog hs
  case filterSettled => exact canonicalNext_filterSettled hs
  case slot0Retune => exact canonicalNext_slot0Retune hs
  case portGrant => exact canonicalNext_portGrant hs
  case packetArrival => exact canonicalNext_packetArrival hs
  case travAnnounce => exact canonicalNext_travAnnounce hs
  case travComplete => exact canonicalNext_travComplete hs
  case pushrComplete => exact canonicalNext_pushrComplete hs
  case ncombComplete => exact canonicalNext_ncombComplete hs
  case pushKeyReopen => exact canonicalNext_pushKeyReopen hs
  case flitReceived => exact canonicalNext_flitReceived hs
  case nakReceived => exact canonicalNext_nakReceived hs
  case rxLightLoss => exact canonicalNext_rxLightLoss hs
  case rxLightReturn => exact canonicalNext_rxLightReturn hs
  case moduleLostTimeout => exact canonicalNext_moduleLostTimeout hs
  case gangSweepClose => exact canonicalNext_gangSweepClose hs
  case gresResume => exact canonicalNext_gresResume hs
  case hostDoorbell => exact canonicalNext_hostDoorbell hs
  case chkmapWrite => exact canonical_chkMap hs
  case chkunmapWrite => exact canonical_chkUnmap hs
  case hubLostWrite => exact canonicalNext_hubLostWrite hs
  case retireCore => exact canonicalNext_repairCmd hs (canonical_retireCore hs)
  case retireBank => exact canonicalNext_repairCmd hs (canonical_retireBank hs)
  case retireLane => exact canonicalNext_repairCmd hs (canonical_retireLane hs)
  case repairHbmRow => exact canonicalNext_repairCmd hs (canonical_repairRow hs)
  case hbmRepairDone => exact canonicalNext_hbmRepairDone hs
  case lightRequestWrite => exact canonical_writeLightReq hs
  case lightGrantWrite => exact canonical_writeLightGrant hs
  case laneTrained => exact canonicalNext_laneTrained hs
  case laneUnlit => exact canonicalNext_laneUnlit hs
  case supplyLightLoss => exact canonicalNext_supplyLightLoss hs
  case timeStepWrite => exact canonical_timeStepBy hs
  case ptpEventRx | ptpEventTx | rasLenWrite | rasBaseWrite | rasTailWrite | nonceWrite => exact canonical_setHub hs
  case quoteReady => exact canonicalNext_quoteReady hs
  case bootDoorbell => exact canonicalNext_bootDoorbell hs
  case supervisorStart => exact canonicalNext_supervisorStart hs
  case powerUp => exact canonicalNext_powerUp
  case functionReady => exact canonicalNext_functionReady hs
  case correctedEcc => exact canonical_rasLog hs
  case uncorrectableEcc => exact canonicalNext_uncorrectableEcc hs
  case powerCapExceeded => exact canonicalNext_powerCapExceeded hs
  case thermalThrottle => exact canonicalNext_thermalThrottle hs
  case thermalTrip => exact canonicalNext_thermalTrip hs
  case supplyVoltageOut => exact canonicalNext_supplyVoltageOut hs
  case registerWrite => exact canonicalNext_registerWrite hs
  case illegalWord => exact canonicalNext_illegalWord hs
  case fetchFault => exact canonicalNext_fetchFault hs
  case preEmption => exact canonicalNext_preEmption hs
  case portConfigWrite => exact canonical_writePortCfg hs
  case supplyLightReturn => exact canonicalNext_supplyLightReturn hs
  case announcementReceived => exact canonicalNext_announcementReceived hs
  case throttlingEnds => exact canonicalNext_throttlingEnds hs

/-- A held word takes up its own meaning again. -/
theorem heldMeaning_eq_exec {i : Instr} {f : State → Host.Outcome State Fault Refusal} (h : heldMeaning i = some f) : f = exec i := by
  unfold heldMeaning at h
  cases i <;> cases h <;> rfl

theorem not_waitSatisfied_of_heldMeaning {i : Instr} {f : State → Host.Outcome State Fault Refusal} (h : heldMeaning i = some f)
    (x : StreamRef) : i ≠ .waitSatisfied x := by
  rintro rfl
  have hn : heldMeaning (.waitSatisfied x) = none := rfl
  exact Option.some_ne_none f (h.symm.trans hn)

theorem canonicalNext_reLook {s : State} {x : StreamRef} {h : Hold} (hs : s.mem.canonical) : CanonicalNext (reLook s x h) := by
  unfold reLook
  split
  · next f hf =>
    obtain rfl := heldMeaning_eq_exec hf
    have hn : CanonicalNext (exec h.word { s with cur := some x }) := canonicalNext_exec_other (not_waitSatisfied_of_heldMeaning hf) hs
    split
    · next u hu =>
      refine canonicalNext_if canonicalNext_noEvent ?_
      have hu' : u.mem.canonical := (congrArg CanonicalNext hu).mp hn
      simpa using hu'
    · exact hn
  · trivial

theorem canonicalNext_waitSatisfied {x : StreamRef} {s : State} (hs : s.mem.canonical) : CanonicalNext (execWaitSatisfied x s) := by
  unfold execWaitSatisfied
  split
  · trivial
  · dsimp only
    split
    · refine canonicalNext_if canonicalNext_noEvent (canonicalNext_if (canonicalNext_reLook hs) (canonicalNext_if canonicalNext_noEvent ?_))
      simpa using hs
    · trivial

/-- Every word and event keeps memory canonical. -/
theorem canonicalNext_exec {i : Instr} {s : State} (hs : s.mem.canonical) : CanonicalNext (exec i s) := by
  by_cases hi : ∃ x, i = .waitSatisfied x
  · obtain ⟨x, rfl⟩ := hi
    exact canonicalNext_waitSatisfied hs
  · exact canonicalNext_exec_other (fun x e => hi ⟨x, e⟩) hs

/-! ## Moves of a cycle -/

/-- The state that an event leaves, if it happens, has a canonical memory. -/
def Try.canonical (a : Try) : Prop := CanonicalNext (a.run ())

/-- The state that a move leaves has a canonical memory. -/
def Cand.canonical (c : Cand) : Prop := c.st.mem.canonical

theorem CanonicalNext.moveOf {o : Outcome} (h : CanonicalNext o) : CanonicalSome (moveOf o) := by
  cases o with
  | next t => exact h
  | fault => trivial
  | refused => trivial

theorem Try.canonical_cand {a : Try} {c : Cand} (ha : a.canonical) (h : a.cand = some c) : c.canonical := by
  obtain ⟨t, ht, rfl⟩ := Option.map_eq_some_iff.mp h
  exact ha.moveOf.of_eq ht

theorem canonical_filterMap_cand {l : List Try} (hl : ∀ a ∈ l, a.canonical) : ∀ c ∈ l.filterMap Try.cand, c.canonical := by
  intro c hc
  obtain ⟨a, ha, h⟩ := List.mem_filterMap.mp hc
  exact Try.canonical_cand (hl a ha) h

theorem canonical_firstMove {l : List Try} {c : Cand} (hl : ∀ a ∈ l, a.canonical) (h : firstMove l = some c) : c.canonical := by
  induction l with
  | nil => cases h
  | cons a l ih =>
    unfold firstMove at h
    split at h
    · next t ht =>
      cases h
      exact Try.canonical_cand (hl a List.mem_cons_self) ht
    · exact ih (fun b hb => hl b (List.mem_cons_of_mem _ hb)) h

theorem canonicalNext_moving {o : Option State} (h : CanonicalSome o) : CanonicalNext (moving o) := by
  cases o with
  | none => trivial
  | some t => exact h

/-- Of the moves that raise a trap earlier, the state of each is canonical, so the earliest one's is. -/
theorem canonical_earlierTrap {s : State} {x : CtxId} {best : Nat × Option State} {c : Cand} (hb : CanonicalSome best.2)
    (hc : c.canonical) : CanonicalSome (earlierTrap s x best c).2 := by
  unfold earlierTrap
  induction c.jobs generalizing best with
  | nil => exact hb
  | cons j l ih =>
    refine ih ?_
    dsimp only
    split
    · exact hc
    · exact hb

theorem canonical_earliestTrap {s : State} {x : CtxId} {l : List Cand} {best : Nat × Option State} (hl : ∀ c ∈ l, c.canonical)
    (hb : CanonicalSome best.2) : CanonicalSome (l.foldl (earlierTrap s x) best).2 := by
  induction l generalizing best with
  | nil => exact hb
  | cons c l ih =>
    exact ih (fun d hd => hl d (List.mem_cons_of_mem _ hd)) (canonical_earlierTrap hb (hl c List.mem_cons_self))

theorem canonical_settle {s : State} {others : State → List Cand} {c : Cand} (hc : c.canonical) (ho : ∀ d ∈ others s, d.canonical) :
    (c.settle s others).mem.canonical := by
  unfold Cand.settle
  generalize hf : List.findSome? _ _ = o
  cases o with
  | none => exact hc
  | some t =>
    obtain ⟨j, -, hj⟩ := List.exists_of_findSome?_eq_some hf
    split at hj
    · exact (canonical_earliestTrap (best := (j.2, none)) ho trivial).of_eq hj
    · cases hj

theorem mem_pair {α : Type} {a b c : α} : a ∈ [b, c] ↔ a = b ∨ a = c := by
  rw [List.mem_cons, List.mem_singleton]

/-! ## What is due -/

theorem canonical_dueLandings {s : State} (hs : s.mem.canonical) : ∀ a ∈ dueLandings s, a.canonical := by
  intro a ha
  obtain ⟨r, -, rfl⟩ := List.mem_map.mp ha
  exact canonicalNext_landAt hs

theorem canonical_dueTags {s : State} (hs : s.mem.canonical) : ∀ a ∈ dueTags s, a.canonical := by
  intro a ha
  obtain ⟨x, -, rfl⟩ := List.mem_map.mp ha
  exact canonicalNext_belayCompletion hs

theorem canonical_dueWords {s : State} (hs : s.mem.canonical) : ∀ a ∈ dueWords s, a.canonical := by
  intro a ha
  obtain ⟨c, -, ha⟩ := List.mem_flatMap.mp ha
  rcases List.mem_append.mp ha with ha | ha
  · obtain ⟨r, -, h⟩ := List.mem_filterMap.mp ha
    split at h <;> cases h
    · exact canonicalNext_waittDeadline hs
    · exact canonicalNext_barrierWatchdog hs
  · obtain ⟨d, -, h⟩ := List.mem_filterMap.mp ha
    split at h <;> cases h
    exact canonicalNext_commandComplete hs

theorem canonical_dueFilters {s : State} (hs : s.mem.canonical) : ∀ a ∈ dueFilters s, a.canonical := by
  intro a ha
  obtain ⟨p, -, ha⟩ := List.mem_flatMap.mp ha
  rcases mem_pair.mp ha with rfl | rfl
  · exact canonicalNext_filterSettled hs
  · exact canonicalNext_filterSettled hs

theorem canonical_dueLeases {s : State} (hs : s.mem.canonical) : ∀ a ∈ dueLeases s, a.canonical := by
  intro a ha
  obtain ⟨x, -, ha⟩ := List.mem_flatMap.mp ha
  simp only [List.mem_cons, List.not_mem_nil, or_false] at ha
  rcases ha with rfl | rfl | rfl
  · exact canonicalNext_leaseTimeout hs
  · exact canonicalNext_leaseBound hs
  · exact canonicalNext_leaseGrant hs

theorem canonical_dueRouter {s : State} (hs : s.mem.canonical) : ∀ a ∈ dueRouter s, a.canonical := by
  intro a ha
  simp only [dueRouter, List.mem_append, List.mem_map] at ha
  rcases ha with (⟨k, -, rfl⟩ | ⟨h, -, rfl⟩) | ⟨k, -, rfl⟩
  · exact canonicalNext_pushKeyReopen hs
  · exact canonicalNext_moduleLostTimeout hs
  · exact canonicalNext_quiescenceTimeout hs

theorem canonical_flushFrom {s : State} {before l : List WaitStore} (hs : s.mem.canonical) : CanonicalSome (flushFrom s before l) := by
  induction l generalizing before with
  | nil => trivial
  | cons x l ih =>
    unfold flushFrom
    split
    · next t h =>
      split at h
      · cases h
      · have ht : t.mem.canonical := canonical_storeNow hs h
        exact ht
    · exact ih

theorem canonical_dueTries {s : State} (hs : s.mem.canonical) : ∀ a ∈ dueTries s, a.canonical := by
  intro a ha
  simp only [dueTries, List.mem_append] at ha
  rcases ha with (((((h | h) | h) | h) | h) | h) | h
  · exact canonical_dueLandings hs a h
  · exact canonical_dueTags hs a h
  · exact canonical_dueWords hs a h
  · exact canonical_dueFilters hs a h
  · exact canonical_dueLeases hs a h
  · exact canonical_dueRouter hs a h
  · split at h
    · cases h
    · obtain rfl := List.mem_singleton.mp h
      exact canonicalNext_moving (canonical_flushFrom hs)

theorem canonical_heldMoves {s : State} (hs : s.mem.canonical) : ∀ c ∈ heldMoves s, c.canonical := by
  refine canonical_filterMap_cand fun a ha => ?_
  obtain ⟨c, -, ha⟩ := List.mem_flatMap.mp ha
  obtain ⟨r, -, h⟩ := List.mem_filterMap.mp ha
  split at h <;> cases h
  exact canonicalNext_waitSatisfied hs

/-! ## What may go on -/

theorem canonicalNext_microMove {s : State} {c : Ctx} {m : MacroSt} (hs : s.mem.canonical) : CanonicalNext (microMove s c m) := by
  unfold microMove
  dsimp only
  generalize (if m.addr < 16384 then decodeUop (microWord m.store m.addr) else none) = i
  cases i with
  | none => exact canonicalNext_uopFault hs
  | some i =>
    cases i
    case uopArr => exact canonicalNext_uopArr hs
    case uopSet | uopAdd | uopLoop | uopSafe => exact canonicalNext_uop hs fun _ => canonical_uop_go hs
    case uopEnd => exact canonicalNext_uopEnd hs
    all_goals exact canonicalNext_uopFault hs

theorem canonical_cmdMoves {s : State} {c : Ctx} {d : Cmd} (hs : s.mem.canonical) : ∀ o ∈ cmdMoves s c d, CanonicalNext o := by
  have hr : ∀ o, CanonicalSome o → CanonicalNext (if cmdsRun c then moving o else noEvent "MOVE") := fun o ho =>
    canonicalNext_if (canonicalNext_moving ho) canonicalNext_noEvent
  intro o ho
  unfold cmdMoves at ho
  dsimp only at ho
  split at ho
  · obtain rfl := List.mem_singleton.mp ho
    exact canonicalNext_commandComplete hs
  · rcases mem_pair.mp ho with rfl | rfl
    · refine hr _ ?_
      cases chainOf d.word with
      | none => trivial
      | some h => exact canonical_copyUnit hs
    · exact canonicalNext_dataRecordComplete hs
  · obtain rfl := List.mem_singleton.mp ho
    exact canonicalNext_microMove hs
  · rcases mem_pair.mp ho with rfl | rfl
    · exact canonicalNext_travAnnounce hs
    · exact canonicalNext_travComplete hs
  · rcases mem_pair.mp ho with rfl | rfl
    · exact hr _ (canonical_pushSend hs)
    · exact canonicalNext_pushrComplete hs
  · rcases mem_pair.mp ho with rfl | rfl
    · exact hr _ (canonical_combStep hs)
    · exact canonicalNext_ncombComplete hs
  · split at ho
    · split at ho
      · obtain rfl := List.mem_singleton.mp ho
        exact canonicalNext_creditGrant hs
      · cases ho
    · cases ho
  · cases ho

theorem canonical_ctxTries {s : State} {c : Ctx} (hs : s.mem.canonical) : ∀ a ∈ ctxTries s c, a.canonical := by
  intro a ha
  simp only [ctxTries, List.mem_append] at ha
  rcases ha with ((h | h) | h) | h
  · obtain ⟨x, -, h⟩ := List.mem_flatMap.mp h
    obtain ⟨f, -, rfl⟩ := List.mem_map.mp h
    exact canonicalNext_landAt hs
  · split at h
    · cases h
    · obtain ⟨q, -, h⟩ := List.mem_filterMap.mp h
      obtain ⟨d, -, rfl⟩ := Option.map_eq_some_iff.mp h
      exact canonicalNext_commandStart hs
  · obtain ⟨d, -, h⟩ := List.mem_flatMap.mp h
    obtain ⟨o, ho, rfl⟩ := List.mem_map.mp h
    exact canonical_cmdMoves hs o ho
  · split at h
    · obtain rfl := List.mem_singleton.mp h
      exact canonicalNext_vxcDataComplete hs
    · cases h

theorem canonical_packetTries {s : State} (hs : s.mem.canonical) : ∀ a ∈ packetTries s, a.canonical := by
  intro a ha
  obtain ⟨k, -, rfl⟩ := List.mem_map.mp ha
  exact canonicalNext_packetArrival hs

theorem canonical_routerMoves {s : State} (hs : s.mem.canonical) : ∀ o ∈ routerMoves s, CanonicalNext o := by
  intro o ho
  simp only [routerMoves, List.mem_append] at ho
  rcases ho with (((((h | h) | h) | h) | h) | h) | h
  · split at h
    · cases h
    · obtain ⟨p, -, rfl⟩ := List.mem_map.mp h
      exact canonicalNext_portGrant hs
  · split at h
    · cases h
    · obtain rfl := List.mem_singleton.mp h
      exact canonicalNext_moving (canonical_travSend hs)
  · obtain ⟨g, -, rfl⟩ := List.mem_map.mp h
    exact canonicalNext_moving (canonical_groupMove hs)
  · obtain ⟨q, -, rfl⟩ := List.mem_map.mp h
    exact canonicalNext_moving (canonical_lendCredit hs)
  · obtain ⟨p, -, rfl⟩ := List.mem_map.mp h
    exact canonicalNext_slot0Retune hs
  · obtain ⟨q, -, rfl⟩ := List.mem_map.mp h
    exact canonicalNext_laneUnlit hs
  · obtain ⟨g, -, h⟩ := List.mem_flatMap.mp h
    rcases mem_pair.mp h with rfl | rfl
    · exact canonicalNext_gangSweepClose hs
    · exact canonicalNext_gresResume hs

theorem canonical_hubMoves {s : State} (hs : s.mem.canonical) : ∀ o ∈ hubMoves s, CanonicalNext o := by
  intro o ho
  simp only [hubMoves, List.mem_append] at ho
  rcases ho with ((h | h) | h) | h
  · split at h
    · cases h
    · obtain rfl := List.mem_singleton.mp h
      exact canonicalNext_cairnDispatch hs
  · obtain ⟨r, -, rfl⟩ := List.mem_map.mp h
    exact canonicalNext_hbmRepairDone hs
  · split at h
    · obtain rfl := List.mem_singleton.mp h
      exact canonicalNext_quoteReady hs
    · cases h
  · split at h
    · obtain rfl := List.mem_singleton.mp h
      exact canonicalNext_supervisorStart hs
    · cases h

theorem canonical_goOn {s : State} (hs : s.mem.canonical) : ∀ c ∈ goOn s, c.canonical := by
  refine canonical_filterMap_cand fun a ha => ?_
  simp only [List.mem_append] at ha
  rcases ha with (h | h) | h
  · obtain ⟨c, -, h⟩ := List.mem_flatMap.mp h
    exact canonical_ctxTries hs a h
  · exact canonical_packetTries hs a h
  · obtain ⟨o, ho, rfl⟩ := List.mem_map.mp h
    exact (List.mem_append.mp ho).elim (canonical_routerMoves hs o) (canonical_hubMoves hs o)

theorem canonical_watchdogs {s : State} (hs : s.mem.canonical) : ∀ a ∈ watchdogs s, a.canonical := by
  intro a ha
  obtain ⟨c, -, ha⟩ := List.mem_flatMap.mp ha
  obtain ⟨d, -, ha⟩ := List.mem_flatMap.mp ha
  split at ha
  · simp only [List.mem_cons, List.not_mem_nil, or_false] at ha
    rcases ha with rfl | rfl
    · exact canonicalNext_zWatchdog hs
    · exact canonicalNext_zWatchdog hs
  · cases ha

theorem canonical_rivals {s : State} (hs : s.mem.canonical) : ∀ c ∈ rivals s, c.canonical := by
  intro c hc
  exact (List.mem_append.mp hc).elim (canonical_filterMap_cand (canonical_watchdogs hs) c) (canonical_goOn hs c)

/-! ## Issue -/

theorem canonical_ready {s : State} {c : Ctx} {x : StreamId} {r : Ready} (hs : s.mem.canonical) (h : ready s c x = some r) :
    r.after.mem.canonical := by
  have hf : (fetchWord s c x).2.mem.canonical := canonical_fetchWord hs
  unfold ready at h
  split at h
  · dsimp only at h
    split at h
    · cases h
    · cases h; exact hf
    · cases h; exact hf
    · split at h <;> cases h
      exact hf
  · cases h

theorem canonical_readyOf {s : State} {k : CoreId} (hs : s.mem.canonical) : ∀ r ∈ readyOf s k, r.after.mem.canonical := by
  intro r hr
  obtain ⟨n, -, hr⟩ := List.mem_flatMap.mp hr
  split at hr
  · obtain ⟨x, -, h⟩ := List.mem_filterMap.mp hr
    exact canonical_ready hs h
  · cases hr

theorem better_eq_or (last : Nat) (a b : Ready) : better last a b = a ∨ better last a b = b := by
  unfold better
  grind

theorem foldl_better_mem (last : Nat) (a : Ready) (l : List Ready) : l.foldl (better last) a ∈ a :: l := by
  induction l generalizing a with
  | nil => exact List.mem_cons_self
  | cons b l ih =>
    refine (List.mem_cons.mp (ih (better last a b))).elim (fun h => ?_) fun h => List.mem_cons_of_mem _ (List.mem_cons_of_mem _ h)
    rw [List.foldl_cons, h]
    rcases better_eq_or last a b with e | e <;> simp [e]

theorem pick_mem {last : Nat} {l : List Ready} {p : Ready} (h : pick last l = some p) : p ∈ l := by
  cases l with
  | nil => cases h
  | cons a l =>
    cases h
    exact foldl_better_mem last a l

theorem canonical_issues {s : State} (hs : s.mem.canonical) : ∀ w ∈ issues s, w.2.mem.canonical := by
  intro w hw
  obtain ⟨k, -, h⟩ := List.mem_filterMap.mp hw
  unfold issueOf at h
  split at h
  · cases h
  · obtain ⟨p, hp, rfl⟩ := Option.map_eq_some_iff.mp h
    rw [mem_issuing]
    exact canonical_readyOf hs p (pick_mem hp)

/-! ## The end of a cycle -/

@[simp] theorem mem_tickLeases (s : State) : (tickLeases s).mem = s.mem := by
  refine (mem_foldl (fun _ _ => mem_requestLease ..) _ _).trans (mem_foldl (fun u a => ?_) _ _)
  split
  · exact mem_leaseTick u a
  · rfl

@[simp] theorem mem_settle (s : State) : (settle s).mem = s.mem := (mem_resetIdle _).trans (mem_settleTags _)

@[simp] theorem mem_measure (s : State) : (measure s).mem = s.mem := by
  unfold measure
  dsimp only
  split <;> rfl

@[simp] theorem mem_tick (s : State) : (tick s).mem = s.mem :=
  (mem_measure _).trans ((mem_settle _).trans (mem_tickLeases _))

theorem canonicalNext_endWith {l : List Instr} {s : State} (hs : s.mem.canonical) : CanonicalNext (endWith exec l s) := by
  induction l generalizing s with
  | nil =>
    rw [endWith, canonicalNext_next, mem_tick]
    exact hs
  | cons i l ih =>
    have hn : CanonicalNext (exec i s) := canonicalNext_exec hs
    unfold endWith
    split
    · next t h => exact ih ((congrArg CanonicalNext h).mp hn)
    · exact hn

theorem canonicalNext_endCycle {s : State} (hs : s.mem.canonical) : CanonicalNext (endCycle exec s) := by
  unfold endCycle
  split
  · next c h => exact canonical_settle (canonical_firstMove (canonical_watchdogs hs) h) (canonical_rivals hs)
  · exact canonicalNext_endWith hs

/-! ## A step -/

theorem chooseMove_mem {α : Type} {n : Nat} {l : List α} {a : α} (h : chooseMove n l = some a) : a ∈ l := by
  unfold chooseMove at h
  split at h
  · cases h
  · cases h
    exact List.mem_cons_self
  · exact List.mem_of_getElem? h

theorem canonicalNext_runFetched {g : Fetched} {s : State} (hs : s.mem.canonical) : CanonicalNext (runFetched exec g s) := by
  cases g with
  | word i => exact canonicalNext_exec hs
  | bad why => exact canonicalNext_illegalWord hs
  | fault c => exact canonicalNext_fetchFault hs
  | waits => exact canonicalNext_noEvent

theorem canonicalNext_carryWord {s : State} {g : Fetched} {t : State} (hs : s.mem.canonical) (ht : t.mem.canonical) :
    CanonicalNext (carryWord exec s g t) := by
  have hn : CanonicalNext (runFetched exec g t) := canonicalNext_runFetched ht
  unfold carryWord
  split
  · next u r hu hr => exact canonical_settle ((congrArg CanonicalNext hu).mp hn) (canonical_rivals hs)
  · exact hn

/-- The state that a move holds has a canonical memory. -/
def Move.canonical : Move → Prop
  | .go c => c.canonical
  | .word _ t => t.mem.canonical
  | .endCycle => True

theorem canonical_moves {s : State} (hs : s.mem.canonical) : ∀ m ∈ moves s, m.canonical := by
  have hg : ∀ m ∈ (goOn s).map Move.go, m.canonical := fun m hm => by
    obtain ⟨c, hc, rfl⟩ := List.mem_map.mp hm
    exact canonical_goOn hs c hc
  intro m hm
  unfold moves at hm
  dsimp only at hm
  split at hm
  · refine (List.mem_append.mp hm).elim (hg m) fun h => ?_
    obtain rfl := List.mem_singleton.mp h
    trivial
  · refine (List.mem_append.mp hm).elim (hg m) fun h => ?_
    obtain ⟨w, hw, rfl⟩ := List.mem_map.mp h
    exact canonical_issues hs w hw

theorem canonicalNext_carryOut {s : State} {m : Move} (hs : s.mem.canonical) (hm : m.canonical) : CanonicalNext (carryOut exec s m) := by
  cases m with
  | go c => exact canonical_settle hm (canonical_rivals hs)
  | word g t => exact canonicalNext_carryWord hs hm
  | endCycle => exact canonicalNext_endCycle hs

@[simp] theorem mem_spend (s : State) (n : Nat) : (spend s n).mem = s.mem := by
  unfold spend; split <;> rfl

theorem canonicalNext_proceed {s : State} (hs : s.mem.canonical) : CanonicalNext (proceed exec s) := by
  have ht : (spend s (moves s).length).mem.canonical := by simpa using hs
  unfold proceed
  dsimp only
  split
  · next m h => exact canonicalNext_carryOut ht (canonical_moves ht m (chooseMove_mem h))
  · simpa using hs

theorem canonical_lateMove {s : State} (hs : s.mem.canonical) : CanonicalSome (lateMove s) := by
  unfold lateMove
  split
  · trivial
  · dsimp only
    split
    · exact canonical_deliverLate hs
    · trivial

theorem canonicalNext_autonomous {s : State} (hs : s.mem.canonical) : CanonicalNext (autonomous exec s) := by
  unfold autonomous
  split
  · next h => exact (canonical_lateMove hs).of_eq h
  · split
    · next c h =>
      refine canonical_settle (canonical_firstMove (canonical_dueTries hs) h) fun d hd => ?_
      simp only [List.mem_append] at hd
      rcases hd with (hd | hd) | hd
      · exact canonical_filterMap_cand (canonical_dueTries hs) d hd
      · exact canonical_heldMoves hs d hd
      · exact canonical_rivals hs d hd
    · have ht : (spend s (heldMoves s).length).mem.canonical := by simpa using hs
      dsimp only
      split
      · next c h =>
        refine canonical_settle (canonical_heldMoves ht c (chooseMove_mem h)) fun d hd => ?_
        exact (List.mem_append.mp hd).elim (canonical_heldMoves ht d) (canonical_rivals ht d)
      · exact canonicalNext_proceed ht

theorem mem_nextInput {s : State} {e : Instr × State} (h : nextInput s = some e) : e.2.mem = s.mem := by
  unfold nextInput at h
  dsimp only at h
  split at h <;> cases h
  rfl

theorem canonicalNext_step {s : State} (hs : s.mem.canonical) : CanonicalNext (step s) := by
  have ht : (if s.router.lostReq = [] then s else actLost s).mem.canonical := canonical_if hs (canonical_actLost hs)
  unfold step cycle
  dsimp only
  split
  · next e h => exact canonicalNext_exec ((mem_nextInput h).symm ▸ ht)
  · exact canonicalNext_autonomous ht

end Sys2Proof.Machine

open Sys2Proof Sys2Proof.Machine

/-- Settles O60: a step ends in the state of an event, of a word that a core issues or of the end of a cycle, and each of them keeps the
memory it starts from canonical. -/
theorem stepsKeepMemoryCanonical : Obligations.StepsKeepMemoryCanonical := by
  intro s t hs h
  have hn : CanonicalNext (step s) := canonicalNext_step hs
  exact (congrArg CanonicalNext h).mp hn
end

section
/-! The values of the machine at power-up and of a job at its start (O55). -/

namespace Sys2Proof.Machine

/-! ## The machine at power-up, a job at its start -/

theorem get_replicate {α : Type} {n : Nat} (a : α) (i : Fin n) : (Vector.replicate n a).get i = a := by
  rw [get_getElem, Vector.getElem_replicate]

theorem mem_reset_arrays {a : ArraySt} (h : a ∈ State.reset.arrays) : ∃ cl, a = ArraySt.reset cl := by
  obtain ⟨cl, -, rfl⟩ := List.mem_map.mp h
  exact ⟨cl, rfl⟩

theorem mem_reset_cores {k : CoreSt} (h : k ∈ State.reset.cores) : ∃ id, k = CoreSt.reset id := by
  obtain ⟨id, -, rfl⟩ := List.mem_map.mp h
  exact ⟨id, rfl⟩

/-- A job starts with every stream in its reset state, in its role of Table 2.7. -/
theorem stream_reset (x : CtxId) (n : Nat) (k : Card) (i : StreamId) : (Ctx.reset x n k).stream i = Stream.reset (defaultRole i) := by
  cases i <;> rfl

end Sys2Proof.Machine

open Sys2Proof Sys2Proof.Machine

/-- Settles O55: every value is a field of `State.reset` or of `Ctx.reset`; the arrays, the cores and the streams are all made from one reset
state each. -/
theorem resetLeavesTheSpecsValues : Obligations.ResetLeavesTheSpecsValues := by
  refine ⟨rfl, rfl, rfl, rfl, rfl, rfl, rfl, rfl, rfl, rfl, rfl, rfl, fun a ha => ?_, fun k hk => ?_, fun x n k i => ?_, rfl⟩
  · obtain ⟨cl, rfl⟩ := mem_reset_arrays ha
    exact ⟨rfl, rfl, get_replicate 0⟩
  · obtain ⟨id, rfl⟩ := mem_reset_cores hk
    exact ⟨rfl, fun b => by simp only [CoreSt.reset, get_replicate]; exact ⟨rfl, rfl, rfl⟩⟩
  · rw [stream_reset]
    exact ⟨rfl, rfl, rfl, rfl, rfl, rfl, rfl, rfl, rfl, rfl, rfl, rfl, rfl⟩
end

section
/-! Power-up, ready bits and the boot (O52). -/

namespace Sys2Proof.Machine

/-! ## What the hub's own writes leave of the hub -/

/-- A write of Cairn or of the hub that is performed touches memory only. -/
theorem hub_storeNow {s t : State} {x : WaitStore} (hx : x.cairn = false) (h : storeNow s x = some t) : t.hub = s.hub := by
  unfold storeNow at h
  rw [hx, if_neg Bool.false_ne_true] at h
  split at h
  · cases h; rfl
  · split at h
    · cases h; rfl
    · cases h

@[simp] theorem hub_physStore (s : State) (pa : Nat) (bs : List Byte) : (physStore s pa bs).hub = s.hub := by
  unfold physStore storeOrWait
  split
  · next t h =>
    split at h
    · cases h
    · exact hub_storeNow rfl h
  · rfl

/-- A record of the log costs a sequence number and its place in the ring, or the count of records lost. -/
theorem hub_rasLog (s : State) (kind addr loc count : Nat) : ∃ n lost head,
    (rasLog s kind addr loc count).hub = { s.hub with mseq := n, rasLost := lost, rasHead := head } := by
  unfold rasLog
  dsimp only
  split
  · exact ⟨_, _, _, rfl⟩
  · exact ⟨_, _, _, rfl⟩

@[simp] theorem rdyPort_setLane (s : State) (p : Port) (l : Lane) (st : Fin 6) : (setLane s p l st).hub.rdyPort = s.hub.rdyPort := by
  unfold setLane
  dsimp only
  split
  · rfl
  · obtain ⟨n, lost, head, h⟩ := hub_rasLog (s.setHub (s.hub.putPort p ((s.hub.port p).putLane l
      { (s.hub.port p).lane l with state := st, fails := 0 }))) 3 0 (laneLoc p l) 1
    rw [h]
    rfl

@[simp] theorem rdyPort_relight (h : HubSt) (p : Port) (s : State) : (relight h p s).hub.rdyPort = s.hub.rdyPort := by
  unfold relight
  induction allLanes generalizing s with
  | nil => rfl
  | cons l ls ih =>
    refine (ih _).trans ?_
    dsimp only
    split
    · exact rdyPort_setLane ..
    · rfl

@[simp] theorem hub_dumpStore (s : State) (bs : List Byte) : (dumpStore s bs).hub = s.hub := by
  unfold dumpStore
  dsimp only
  split <;> rfl

theorem rasFatal_fatalError (s : State) (power : Bool) : (fatalError s power).hub.rasFatal = true := rfl

theorem bootStat_fatalError (s : State) (power : Bool) : (fatalError s power).hub.bootStat = s.hub.bootStat := by
  obtain ⟨n, lost, head, h⟩ := hub_rasLog s 10 0 (2 ^ 40) 1
  have hb : (rasLog s 10 0 (2 ^ 40) 1).hub.bootStat = s.hub.bootStat := by rw [h]
  exact (congrArg HubSt.bootStat (hub_dumpStore ..)).trans hb

/-- Of the ready bits a fatal error keeps bits 0 and 7 only. -/
theorem rdyHub_fatalError (s : State) (power : Bool) : (fatalError s power).hub.rdyHub = s.hub.rdyHub &&& fatalKept := by
  obtain ⟨n, lost, head, h⟩ := hub_rasLog s 10 0 (2 ^ 40) 1
  have hr : (rasLog s 10 0 (2 ^ 40) 1).hub.rdyHub = s.hub.rdyHub := by rw [h]
  exact congrArg (· &&& fatalKept) hr

/-! ## Ready bits and the boot -/

theorem getLsbD_or_twoPow {w : Nat} (x : BitVec w) (k n : Nat) (hn : n < w) :
    (x ||| BitVec.ofNat w (2 ^ k)).getLsbD n = (x.getLsbD n || decide (n = k)) := by
  rw [BitVec.getLsbD_or, BitVec.getLsbD_ofNat, Nat.testBit_two_pow]
  simp [hn, eq_comm]

theorem rdyCore_setReady (s : State) (d : Die) (k : Fin 96) :
    (setReady s (.core d k)).hub.rdyCore.get d = s.hub.rdyCore.get d ||| BitVec.ofNat 96 (2 ^ k.val) := by
  simp [setReady, get_getElem]

theorem rdyPort_setReady (s : State) (p : Port) :
    (setReady s (.port p)).hub.rdyPort = s.hub.rdyPort ||| BitVec.ofNat 64 (2 ^ p.val) := rdyPort_relight ..

theorem toNat_bootStatusRead (s : State) : (bootStatusRead s).toNat = s.hub.bootStat.val := by
  rw [bootStatusRead, BitVec.toNat_ofNat]
  omega

theorem exec_functionReady {s : State} {f : ReadyFn} (h : mayReady s.hub f = true) : exec (.functionReady f) s = .next (setReady s f) :=
  if_pos h

/-- Table 20.8: the entry is a multiple of 4 below 2^52, so that it is the first `pc` as it stands. -/
theorem pcOf_entry {v : Nat} (h : headerOk v = true) : (pcOf (BitVec.ofNat 64 (bitsN v 63 0))).toNat = v % 2 ^ 64 := by
  simp only [headerOk, Bool.and_eq_true, beq_iff_eq, bitsN] at h
  obtain ⟨⟨-, hlow⟩, hhigh⟩ := h
  simp only [pcOf, bitsN, BitVec.toNat_ofNat]
  omega

theorem headerOk_of_bootVerdict {s : State} {n : Nat} (h : bootVerdict s n = 1) : headerOk (bootHeader s) = true := by
  unfold bootVerdict at h
  split at h
  · cases h
  · next hh => simpa using hh

theorem bootVerdict_eq (s : State) (n : Nat) :
    bootVerdict s n = if headerOk (bootHeader s) = false then 3 else if 4096 ≤ n ∧ n ≤ 0x0FFFFFFF then 1 else 4 := by
  unfold bootVerdict lengthOk
  grind

theorem imageBad_iff (s : State) (n : Nat) : imageBad s n = true ↔ ∃ l ∈ s.mem.poison, l * 128 < max n 64 := by
  simp [imageBad]

/-- The state after a start of the supervisor: the image is measured, the roots are set, and supervisor core 0 stands at the entry. -/
def started (s : State) : State :=
  { s with
    hub := { s.hub with
      m1 := extend s.hub.m1 (shake256 (physLoad s 0 s.hub.bootLen))
      sproot := BitVec.ofNat 64 (bitsN (bootHeader s) 127 64), strap := BitVec.ofNat 64 (bitsN (bootHeader s) 191 128)
      rdyHub := s.hub.rdyHub ||| 4, bootStat := 2 }
    ctxs := supStart s (bitsN (bootHeader s) 63 0) :: s.ctxs.filter fun c => !c.id.core.isSup }

theorem exec_supervisorStart_struck {s : State} (hb : s.hub.bootStat = 1) (hw : windowOpen s.hub = true)
    (hi : imageBad s s.hub.bootLen = true) : exec .supervisorStart s = .next (fatalError s true) :=
  (if_neg (by simp [hb, hw])).trans (if_pos hi)

theorem exec_supervisorStart {s : State} (hb : s.hub.bootStat = 1) (hw : windowOpen s.hub = true)
    (hi : ¬ imageBad s s.hub.bootLen = true) (hv : bootVerdict s s.hub.bootLen = 1) : exec .supervisorStart s = .next (started s) :=
  (if_neg (by simp [hb, hw])).trans ((if_neg hi).trans (if_neg (Classical.not_not.mpr hv)))

/-- R333: an uncorrectable error in the image, which holds the trap entry, stops the module. -/
theorem supervisorStart_struck {s : State} (hw : windowOpen s.hub = true) (hb : s.hub.bootStat = 1)
    (hp : ∃ l ∈ s.mem.poison, l * 128 < max s.hub.bootLen 64) :
    ∃ t, exec .supervisorStart s = .next t ∧ t.hub.rasFatal = true ∧ t.hub.rdyHub.getLsbD 2 = false ∧ t.hub.bootStat = 1 := by
  refine ⟨_, exec_supervisorStart_struck hb hw ((imageBad_iff ..).mpr hp), rasFatal_fatalError .., ?_, (bootStat_fatalError ..).trans hb⟩
  rw [rdyHub_fatalError, BitVec.getLsbD_and]
  exact Bool.and_false _

theorem exec_bootDoorbell {s : State} {v : Word} {image : List Byte} (hw : windowOpen s.hub = true) (h1 : s.hub.bootStat ≠ 1)
    (h2 : s.hub.bootStat ≠ 2) :
    exec (.bootDoorbell v image) s = .next ((physStore s 0 (image.take (2 ^ 28))).setHub { (physStore s 0 (image.take (2 ^ 28))).hub with
      bootStat := bootVerdict (physStore s 0 (image.take (2 ^ 28))) v.toNat, bootLen := v.toNat }) := by
  show execBootDoorbell v image s = _
  unfold execBootDoorbell
  rw [hw, if_neg (by simp)]
  exact if_neg (by simp [h1, h2])

/-- R333: the doorbell writes the image and judges it, its header before its length. -/
theorem bootDoorbell_judges {s : State} {v : Word} {image : List Byte} (hw : windowOpen s.hub = true) (h1 : s.hub.bootStat ≠ 1)
    (h2 : s.hub.bootStat ≠ 2) :
    ∃ t u, exec (.bootDoorbell v image) s = .next t ∧ u = physStore s 0 (image.take (2 ^ 28)) ∧ t.mem = u.mem ∧
      t.hub.bootStat = (if headerOk (bootHeader u) = false then 3 else if 4096 ≤ v.toNat ∧ v.toNat ≤ 0x0FFFFFFF then 1 else 4) := by
  exact ⟨_, _, exec_bootDoorbell hw h1 h2, rfl, rfl, bootVerdict_eq ..⟩

/-- R333: supervisor core 0 starts at the entry of the header, in supervisor mode, its other streams off. -/
theorem supervisorStart_runs {s : State} (hb : s.hub.bootStat = 1) (hw : windowOpen s.hub = true)
    (hp : ∀ l ∈ s.mem.poison, max s.hub.bootLen 64 ≤ l * 128) (hv : bootVerdict s s.hub.bootLen = 1) :
    ∃ t c, exec .supervisorStart s = .next t ∧ t.ctx ⟨.sup, 0⟩ = some c ∧ (c.stream .C).pc.toNat = bootHeader s % 2 ^ 64 ∧
      (c.stream .C).mode = true ∧ (c.stream .C).run = .run ∧ (∀ i, i ≠ .C → (c.stream i).run = .off) ∧
      t.hub.sproot.toNat = bootHeader s / 2 ^ 64 % 2 ^ 64 ∧ t.hub.strap.toNat = bootHeader s / 2 ^ 128 % 2 ^ 64 ∧
      t.hub.bootStat = 2 ∧ t.hub.rdyHub.getLsbD 2 = true := by
  have hbad : ¬ imageBad s s.hub.bootLen = true := fun h => by
    obtain ⟨l, hl, hlt⟩ := (imageBad_iff ..).mp h
    exact absurd (hp l hl) (Nat.not_le.mpr hlt)
  refine ⟨started s, supStart s (bitsN (bootHeader s) 63 0), exec_supervisorStart hb hw hbad hv, rfl,
    pcOf_entry (headerOk_of_bootVerdict hv), rfl, rfl, fun i hi => ?_, ?_, ?_, rfl, ?_⟩
  · rw [supStart, Ctx.stream_putStream_other _ _ hi, stream_reset]
    rfl
  · simp [started, bitsN]
  · simp [started, bitsN]
  · simp [started]

end Sys2Proof.Machine

open Sys2Proof Sys2Proof.Machine

/-- Settles O52: what `POWER_UP`, `FUNCTION_READY`, `BOOT_DOORBELL` and `SUPERVISOR_START` do, one clause after the other. -/
theorem powerUpAndBoot : Obligations.PowerUpAndBoot := by
  refine ⟨fun s fw h => ?_, fun s b h => ⟨_, exec_functionReady h, fun n hn => ?_⟩,
    fun s d k h => ⟨_, exec_functionReady h, fun n hn => ?_⟩, fun s b h => ⟨_, exec_functionReady h, fun n hn => ?_⟩, fun s p h => ⟨_, exec_functionReady h, fun n hn => ?_⟩, fun s f h => ?_,
    fun s off n => rfl, fun s => ?_, fun s hw hb hp => supervisorStart_struck hw hb hp, fun s v image hw h1 h2 => bootDoorbell_judges hw h1 h2,
    fun s hb hw hp hv => supervisorStart_runs hb hw hp hv⟩
  · exact ⟨_, if_neg (by simp [h]), rfl, rfl, rfl, rfl, rfl, rfl, rfl, rfl, rfl, rfl⟩
  · exact getLsbD_or_twoPow _ _ _ hn
  · rw [rdyCore_setReady]
    exact getLsbD_or_twoPow _ _ _ hn
  · exact getLsbD_or_twoPow _ _ _ hn
  · rw [rdyPort_setReady]
    exact getLsbD_or_twoPow _ _ _ hn
  · exact if_neg (by simp [h])
  · exact toNat_bootStatusRead s
end

section
/-! Cairn's dispatch and pre-emption (O42). -/

namespace Sys2Proof.Machine

/-! ## What the parts of a dispatch leave -/

@[simp] theorem now_fillPool (s : State) : (fillPool s).now = s.now := by
  refine List.foldlRecOn (motive := fun t : State => t.now = s.now) s.graphs _ rfl fun t ht g _ => ?_
  dsimp only
  split
  · split
    · exact ht
    · exact ht
  · exact ht

/-- A context that a job fits is empty. -/
theorem ctx_eq_none_of_fits {s : State} {g : Graph} {st i : Nat} {x : CtxId} (h : fits s g st i x = true) : s.ctx x = none := by
  unfold fits at h
  dsimp only at h
  split at h
  · cases h
  · simp only [Bool.and_eq_true, ctxOpen] at h
    obtain ⟨⟨⟨⟨-, hopen, -⟩, -⟩, -⟩, -⟩ := h
    exact Option.isNone_iff_eq_none.mp hopen

/-- A context put into an empty place is found there. -/
theorem ctx_append_self {s : State} {c : Ctx} (h : s.ctx c.id = none) : { s with ctxs := s.ctxs ++ [c] }.ctx c.id = some c := by
  simp only [State.ctx] at h
  simp [State.ctx, List.find?_append, h]

/-! ## Allocating the declared handles of a new job -/

/-- The cycle is the same, and so is the job of a context but for its handles. -/
def SameButHandles (x : CtxId) (s t : State) : Prop :=
  t.now = s.now ∧ ∀ c, s.ctx x = some c → ∃ hs, t.ctx x = some { c with handles := hs }

theorem SameButHandles.refl (x : CtxId) (s : State) : SameButHandles x s s := ⟨rfl, fun c h => ⟨c.handles, h⟩⟩

theorem SameButHandles.trans {x : CtxId} {s t u : State} (h : SameButHandles x s t) (k : SameButHandles x t u) : SameButHandles x s u := by
  refine ⟨k.1.trans h.1, fun c hc => ?_⟩
  obtain ⟨_, ht⟩ := h.2 c hc
  obtain ⟨hs, hu⟩ := k.2 _ ht
  exact ⟨hs, hu⟩

theorem sameButHandles_putCtx {x : CtxId} {s : State} {c : Ctx} (hc : s.ctx x = some c) (hs : List Handle) :
    SameButHandles x s (s.putCtx { c with handles := hs }) := by
  refine ⟨rfl, fun d hd => ⟨hs, ?_⟩⟩
  obtain rfl : c = d := Option.some.inj (hc.symm.trans hd)
  have hid : c.id = x := State.ctx_id hc
  exact State.ctx_putCtx_self hc hid

theorem sameButHandles_allocHandle {x : CtxId} {s t : State} {c : Ctx} {h : HId} {d : HDesc} (hc : s.ctx x = some c)
    (e : allocHandle s c h d = .ok t) : SameButHandles x s t := by
  unfold allocHandle at e
  dsimp only at e
  split at e
  · cases e
  · split at e
    · split at e <;> cases e
      exact sameButHandles_putCtx hc _
    · split at e
      · cases e
      · split at e <;> cases e
        exact sameButHandles_putCtx hc _

theorem sameButHandles_mapCtx {x : CtxId} {s : State} {f : Ctx → Ctx} (hf : ∀ c, ∃ hs, f c = { c with handles := hs }) :
    SameButHandles x s (s.mapCtx x f) := by
  unfold State.mapCtx
  split
  · next c hc =>
    obtain ⟨hs, h⟩ := hf c
    rw [h]
    exact sameButHandles_putCtx hc hs
  · exact .refl x s

/-- A load by virtual address touches memory alone. -/
theorem all_loadVirt_setMem (s : State) (w : Who) (k : Kind) (dev8 : Bool) (va n : Nat) :
    (loadVirt s w k dev8 va n).All fun r => ∃ m, r.2 = s.setMem m := by
  unfold loadVirt
  refine Got.all_bind fun r => ?_
  split
  · split <;> exact ⟨_, rfl⟩
  · exact ⟨_, rfl⟩

/-- R16: the declared handles are allocated one after the other, each with its initial bytes. -/
theorem all_allocDecls_sameButHandles (s : State) (x : CtxId) (l : List (BitVec 128)) : (allocDecls s x l).All (SameButHandles x s) := by
  induction l generalizing s with
  | nil => exact .refl x s
  | cons d l ih =>
    have goOn : ∀ {t}, SameButHandles x s t → (allocDecls t x l).All (SameButHandles x s) := fun ht =>
      .of_ok fun _ e => ht.trans ((ih _).ok e)
    unfold allocDecls
    split
    · next c hd hc hdesc =>
      split
      · exact ih s
      · next t h =>
        have ht : SameButHandles x s t := sameButHandles_allocHandle hc h
        dsimp only
        split
        · exact goOn ht
        · refine (all_loadVirt_setMem ..).bind fun r ⟨m, hm⟩ => goOn (ht.trans (.trans ?_ (sameButHandles_mapCtx fun y => ?_)))
          · rw [hm]
            exact .refl x t
          · split
            · exact ⟨_, rfl⟩
            · exact ⟨_, rfl⟩
    · exact ih s

/-! ## A new job -/

/-- R16: a job's C stream at its start. -/
theorem stream_newCtx (s : State) (g : Graph) (st i : Nat) (x : CtxId) : (newCtx s g st i x).stream .C =
    { Stream.reset (defaultRole .C) with
      s := Vector.ofFn fun r => if h : 1 ≤ r.val ∧ r.val ≤ 15 then (cardOf s g st i).args.get ⟨r.val - 1, by omega⟩ else 0
      pc := pcOf (cardOf s g st i).entry, run := .run, firstAt := s.now, laterAt := s.now, clk := edgesOf g i } :=
  Ctx.stream_putStream ..

theorem stream_newCtx_other (s : State) (g : Graph) (st i : Nat) (x : CtxId) {j : StreamId} (hj : j ≠ .C) :
    (newCtx s g st i x).stream j = Stream.reset (defaultRole j) :=
  (Ctx.stream_putStream_other _ _ hj).trans (stream_reset x (s.fresh + 1) (cardOf s g st i) j)

/-- R16: s1 to s15 hold the launch arguments. -/
theorem sreg_newCtx_arg (s : State) (g : Graph) (st i : Nat) (x : CtxId) (j : Fin 15) :
    ((newCtx s g st i x).stream .C).sreg ⟨j.val + 1, by omega⟩ = (cardOf s g st i).args.get j := by
  have h0 : (⟨j.val + 1, by omega⟩ : SReg) ≠ 0 := fun e => absurd (congrArg Fin.val e) (Nat.succ_ne_zero _)
  have hj : 1 ≤ j.val + 1 ∧ j.val + 1 ≤ 15 := by omega
  rw [stream_newCtx, Stream.sreg, if_neg h0, get_getElem, Vector.getElem_ofFn]
  exact dif_pos hj

theorem sreg_newCtx_rest (s : State) (g : Graph) (st i : Nat) (x : CtxId) {n : SReg} (hn : 15 < n.val) :
    ((newCtx s g st i x).stream .C).sreg n = 0 := by
  have h0 : n ≠ 0 := fun e => absurd hn (by rw [e]; decide)
  have h15 : ¬(1 ≤ n.val ∧ n.val ≤ 15) := by omega
  rw [stream_newCtx, Stream.sreg, if_neg h0, get_getElem, Vector.getElem_ofFn]
  exact dif_neg h15

/-- R255: a dispatched entry has left the pool and runs, in every record of its graph. -/
theorem mem_graphs_toRunning {s : State} {g h : Graph} {st i : Nat} (hm : h ∈ (toRunning s g st i).graphs) (ha : h.addr = g.addr) :
    h.running = (st, i) :: g.running ∧ (st, i) ∉ h.pool := by
  obtain ⟨k, -, rfl⟩ := List.mem_map.mp hm
  split at ha
  · next e =>
    rw [if_pos e]
    exact ⟨rfl, by simp⟩
  · next e => exact absurd ha e

/-- R16, R255: what the dispatch of a new job leaves. -/
theorem dispatchNew_starts {u v : State} {g : Graph} {st i : Nat} {x : CtxId} (hx : u.ctx x = none)
    (hv : allocDecls { u with ctxs := u.ctxs ++ [newCtx u g st i x] } x (g.decls.getD i []) = .ok v) :
    ∃ (t : State) (c : Ctx), dispatchNew u g st i x = some t ∧ t.dispatched = some u.now ∧
      t.ctx x = some c ∧ c.card = cardOf u g st i ∧ (∀ j, c.stream j = (newCtx u g st i x).stream j) ∧
      ∀ h ∈ t.graphs, h.addr = g.addr → h.running = (st, i) :: g.running ∧ (st, i) ∉ h.pool := by
  obtain ⟨hnow, hctx⟩ := (all_allocDecls_sameButHandles ..).ok hv
  obtain ⟨hs, hc⟩ := hctx _ (ctx_append_self (c := newCtx u g st i x) hx)
  exact ⟨joinTags (toRunning v g st i) x.core (newCtx u g st i x).card.tags, { newCtx u g st i x with handles := hs },
    by simp only [dispatchNew, hv], congrArg some hnow, hc, rfl, fun _ => rfl, fun _ => mem_graphs_toRunning⟩

/-! ## The first of the pool that fits -/

/-- R255: what fits nowhere is passed over. -/
theorem dispatchOne_append {s : State} {l m : List (Graph × Nat × Nat)}
    (h : ∀ e ∈ l, regionOk s e.1.region = true ∧ ∀ y ∈ allPlaces, fits s e.1 e.2.1 e.2.2 y = false) :
    dispatchOne s (l ++ m) = dispatchOne s m := by
  induction l with
  | nil => rfl
  | cons e l ih =>
    obtain ⟨g, st, i⟩ := e
    obtain ⟨hr, hf⟩ := h _ List.mem_cons_self
    have hnone : allPlaces.find? (fits s g st i) = none := List.find?_eq_none.mpr fun y hy => Bool.eq_false_iff.mp (hf y hy)
    rw [List.cons_append, dispatchOne, hr, hnone]
    exact ih fun e he => h e (List.mem_cons_of_mem _ he)

theorem dispatchOne_saved {s : State} {g : Graph} {st i : Nat} {x : CtxId} {c : Ctx} {m : List (Graph × Nat × Nat)}
    (hr : regionOk s g.region = true) (hx : allPlaces.find? (fits s g st i) = some x) (hc : savedOf s g st i = some c) :
    dispatchOne s ((g, st, i) :: m) = some (thaw (restore (toRunning s g st i) c x) x) := by
  rw [dispatchOne, hr, hx]
  simp [hc]

theorem dispatchOne_new {s : State} {g : Graph} {st i : Nat} {x : CtxId} {m : List (Graph × Nat × Nat)}
    (hr : regionOk s g.region = true) (hx : allPlaces.find? (fits s g st i) = some x) (hc : savedOf s g st i = none) :
    dispatchOne s ((g, st, i) :: m) = dispatchNew s g st i x := by
  rw [dispatchOne, hr, hx]
  simp [hc]

/-! ## `CAIRN_DISPATCH`, case by case -/

theorem cairnDispatch_refused {s : State}
    (h : s.dispatched = some s.now ∨ s.hub.rdyHub.getLsbD 3 = false ∨ tableReady s = false) :
    exec .cairnDispatch s = .refused (.notEnabled "CAIRN_DISPATCH") := if_pos h

/-- Past its first test Cairn is ready, its tables can be read, and nothing has been dispatched in this cycle. -/
theorem cairnDispatch_enabled {s : State} (hd : s.dispatched ≠ some s.now) (hr : s.hub.rdyHub.getLsbD 3 = true)
    (ht : tableReady s = true) : exec .cairnDispatch s =
      if tableStruck s then .next (fatalError s true)
      else match liftedReady s with
        | some c => .next { restore s c c.id with dispatched := some s.now }
        | none =>
          match dispatchOne (fillPool s) (poolOrder (fillPool s)) with
          | some u => .next u
          | none => if (fillPool s).graphs = s.graphs then noEvent "CAIRN_DISPATCH" else .next (fillPool s) :=
  if_neg (by simp [hd, hr, ht])

theorem cairnDispatch_lifted {s : State} {c : Ctx} (hd : s.dispatched ≠ some s.now) (hr : s.hub.rdyHub.getLsbD 3 = true)
    (ht : tableReady s = true) (hk : tableStruck s = false) (hl : liftedReady s = some c) :
    exec .cairnDispatch s = .next { restore s c c.id with dispatched := some s.now } := by
  simp [cairnDispatch_enabled hd hr ht, hk, hl]

theorem cairnDispatch_one {s t : State} (hd : s.dispatched ≠ some s.now) (hr : s.hub.rdyHub.getLsbD 3 = true)
    (ht : tableReady s = true) (hk : tableStruck s = false) (hl : liftedReady s = none)
    (h : dispatchOne (fillPool s) (poolOrder (fillPool s)) = some t) : exec .cairnDispatch s = .next t := by
  simp [cairnDispatch_enabled hd hr ht, hk, hl, h]

/-! ## Pre-emption -/

theorem Ctx.stream_mapStreams (c : Ctx) (f : StreamId → Stream → Stream) (i : StreamId) : (c.mapStreams f).stream i = f i (c.stream i) := by
  cases i <;> simp [Ctx.mapStreams, Ctx.stream_putStream_other]

@[simp] theorem Stream.pc_setDst (t : Stream) (d : Dst) (v : Word) : (t.setDst d v).pc = t.pc := by
  cases d
  case s r => simp only [Stream.setDst, Stream.setS]; split <;> rfl
  all_goals rfl

@[simp] theorem Stream.pc_land (t : Stream) (f : Flight) : (t.land f).pc = t.pc := by
  unfold Stream.land
  dsimp only
  split
  · rfl
  · exact Stream.pc_setDst ..

@[simp] theorem Stream.pc_landExposed (t : Stream) : t.landExposed.pc = t.pc := by
  refine List.foldlRecOn (motive := fun u : Stream => u.pc = t.pc) _ _ rfl fun u hu f _ => ?_
  split
  · exact (Stream.pc_land ..).trans hu
  · exact hu

/-- R31: what becomes of a stream of a job that is stopped to be saved. -/
def stopToSave (t : Stream) : Stream := if t.run.live && !t.stopped then t.record else t

theorem freeze_running {c : Ctx} (hc : c.frozen = false) : freeze c = { c.mapStreams fun _ => stopToSave with frozen := true } :=
  if_neg (by simp [hc])

theorem stream_freeze {c : Ctx} (hc : c.frozen = false) (i : StreamId) : (freeze c).stream i = stopToSave (c.stream i) := by
  have hst : (freeze c).st = (c.mapStreams fun _ => stopToSave).st := by rw [freeze_running hc]
  rw [Ctx.stream, hst]
  exact Ctx.stream_mapStreams c (fun _ => stopToSave) i

/-- R31: a live stream that stops records the address of the word that has not completed. -/
theorem epc_stopToSave {t : Stream} (hl : t.run.live = true) (hs : t.stopped = false) : (stopToSave t).epc = t.pc := by
  rw [stopToSave, if_pos (by rw [hl, hs]; rfl)]
  exact Stream.pc_landExposed t

/-- R22: what stopping a job leaves of it. -/
theorem freeze_keeps {c : Ctx} (hc : c.frozen = false) : (freeze c).id = c.id ∧ (freeze c).job = c.job ∧ (freeze c).frozen = true ∧
    (freeze c).v = c.v ∧ (freeze c).p = c.p ∧ (freeze c).acc = c.acc := by
  rw [freeze_running hc]
  exact ⟨rfl, rfl, rfl, rfl, rfl, rfl⟩

@[simp] theorem ctxs_dropRetired (s : State) (d : Die) (k : Fin 96) : (dropRetired s d k).ctxs = s.ctxs := by
  unfold dropRetired
  split <;> rfl

@[simp] theorem ctxs_dropRetiredOf (s : State) (k : CoreId) : (dropRetiredOf s k).ctxs = s.ctxs := by
  unfold dropRetiredOf
  split
  · exact ctxs_dropRetired ..
  · rfl

/-- A job that gives its place back leaves it empty. -/
theorem ctx_unplace (s : State) (c : Ctx) : (unplace s c).ctx c.id = none := by
  have gone : ∀ l : List Ctx, (l.filter fun x => decide (x.id ≠ c.id)).find? (fun x => decide (x.id = c.id)) = none := fun l =>
    List.find?_eq_none.mpr fun y hy => by simpa using (List.mem_filter.mp hy).2
  unfold unplace
  dsimp only
  split
  · rw [State.ctx_putCore]
    exact gone _
  · exact gone _

theorem ctx_saveCtx (s : State) (c : Ctx) : (saveCtx s c).ctx c.id = none := by
  have h : (saveCtx s c).ctxs = (unplace s c).ctxs := ctxs_dropRetiredOf ..
  rw [State.ctx, h]
  exact ctx_unplace s c

/-- The saved record of a job: all of it but its banks and its queue grants. -/
theorem mem_saved_saveCtx (s : State) (c : Ctx) : ∃ y ∈ (saveCtx s c).saved, y.id = c.id ∧ y.job = c.job ∧ y.frozen = c.frozen ∧ y.v = c.v ∧
    y.p = c.p ∧ y.acc = c.acc ∧ ∀ i, y.stream i = c.stream i :=
  ⟨_, List.mem_append_right _ (List.mem_singleton.mpr rfl), rfl, rfl, rfl, rfl, rfl, rfl, fun _ => rfl⟩

/-- R22, R255: a pre-emption saves the job; beyond that it touches what Cairn holds of the graphs only. -/
theorem exec_preEmption {s : State} {x : CtxId} {c : Ctx} (hx : s.ctx x = some c) (hk : x.core.isSup = false) (hf : c.frozen = false)
    (hl : liftable c = true) : ∃ l, exec (.preEmption x) s = .next { saveCtx (s.putCtx (freeze c)) (freeze c) with graphs := l } := by
  show ∃ l, execPreEmption x s = _
  simp only [execPreEmption, hx, hk, hf, hl, Bool.or_false, Bool.not_true, Bool.false_eq_true, if_false]
  split
  · exact ⟨_, rfl⟩
  · exact ⟨_, rfl⟩

end Sys2Proof.Machine

open Sys2Proof Sys2Proof.Machine

/-- Settles O42: the cases of `CAIRN_DISPATCH` in the order of its tests, then `PRE_EMPTION`. -/
theorem cairnDispatchesAndPreempts : Obligations.CairnDispatchesAndPreempts := by
  refine ⟨fun s h => cairnDispatch_refused h, fun s hd hr ht hk => ?struck, ?fitting,
    fun s c hd hr ht hk hl => cairnDispatch_lifted hd hr ht hk hl, fun s x c hx hk hf hl => ?preempted⟩
  case struck =>
    exact ⟨_, (cairnDispatch_enabled hd hr ht).trans (if_pos hk), rasFatal_fatalError ..⟩
  case fitting =>
    rintro s _ l m g st i x hd hr ht hk hl rfl horder hpassed hregion hx
    have dispatches : ∀ {t}, dispatchOne (fillPool s) ((g, st, i) :: m) = some t → exec .cairnDispatch s = .next t := fun h =>
      cairnDispatch_one hd hr ht hk hl (by rw [horder, dispatchOne_append hpassed, h])
    refine ⟨fun c hc => dispatches (dispatchOne_saved hregion hx hc), fun v hc hv => ?_⟩
    obtain ⟨t, c, hnew, hnow, hctx, hcard, hstream, hgraphs⟩ := dispatchNew_starts (ctx_eq_none_of_fits (List.find?_some hx)) hv
    refine ⟨t, c, dispatches ((dispatchOne_new hregion hx hc).trans hnew), hnow.trans (by rw [now_fillPool]), hctx, ?_⟩
    rw [hcard, hstream]
    refine ⟨rfl, rfl, rfl, by rw [stream_newCtx], by rw [stream_newCtx]; rfl, sreg_newCtx_arg _ g st i x,
      fun n hn => sreg_newCtx_rest _ g st i x hn, fun j hj => ?_, hgraphs⟩
    rw [hstream, stream_newCtx_other _ g st i x hj]
    rfl
  case preempted =>
    obtain ⟨hid, hjob, hfrozen, hv, hp, hacc⟩ := freeze_keeps hf
    have hplace : (freeze c).id = x := hid.trans (State.ctx_id hx)
    obtain ⟨l, hexec⟩ := exec_preEmption hx hk hf hl
    obtain ⟨y, hy, yid, yjob, yfrozen, yv, yp, yacc, ystream⟩ := mem_saved_saveCtx (s.putCtx (freeze c)) (freeze c)
    refine ⟨_, hexec, hplace ▸ ctx_saveCtx _ (freeze c), y, hy, yid.trans hplace, yjob.trans hjob, yfrozen.trans hfrozen, yv.trans hv,
      yp.trans hp, yacc.trans hacc, fun i hi hs => ?_⟩
    rw [ystream, stream_freeze hf, epc_stopToSave hi hs]
end

section
/-! Two contexts at one place, and the `WAITP` of the first (O31). -/

namespace Sys2Proof.Machine

/-- The C stream of the context at core 0 of die 0, context 0. -/
def sharedRef : StreamRef := ⟨⟨.core 0 0, 0⟩, .C⟩

/-- A job there that runs, with nothing in its queues. -/
def idleJob : Ctx := { placeCtx State.reset sharedRef.ctx false with order := 1 }

/-- A queued command that counts for the scratch path, the first that was issued on its core. -/
def scratchCmd : Cmd := ⟨0, .A, .lacq .always, 0, .C, 0, [], [], BitVec.ofNat 5 (2 ^ pathIdx .scratch), 0, [], .queued, []⟩

/-- The same job with that command in its queue. -/
def busyJob : Ctx := { idleJob with cmds := [scratchCmd] }

/-- A state whose list of contexts has two at one place: a lookup finds the idle one, and putting that one back replaces both. -/
def sharedPlace : State := { State.reset with ctxs := [idleJob, busyJob], cur := some sharedRef }

theorem issuer_sharedPlace : sharedPlace.issuer sharedRef idleJob := ⟨rfl, rfl, rfl⟩

theorem pathBusy_sharedPlace : Claims.pathBusy sharedPlace sharedRef.ctx.core .scratch (sharedPlace.place sharedRef) :=
  .inl ⟨busyJob, List.mem_cons_of_mem _ List.mem_cons_self, rfl, scratchCmd, by decide +kernel, by decide +kernel, by decide +kernel, nofun⟩

/-- Does the next step leave the C stream there running? -/
def leavesRunning : Host.Outcome State Fault Refusal → Bool
  | .next t => (t.ctx sharedRef.ctx).any fun c => decide ((c.stream .C).run = .run)
  | .fault _ => false
  | .refused _ => false

/-- The word takes its place by putting the idle job back, so that its body meets no command: it passes. -/
theorem waitp_sharedPlace_passes : leavesRunning (exec (.waitp .scratch) sharedPlace) = true := by decide +kernel

theorem waits_sharedPlace_holds : leavesRunning (.next (Claims.waits sharedPlace sharedRef idleJob (.waitp .scratch))) = false := by
  decide +kernel

end Sys2Proof.Machine

open Sys2Proof Sys2Proof.Machine

/-- Refutes O31 by its last clause. The statement speaks of every `State`, also of one that lists two contexts at one place: the command that
`Claims.pathBusy` finds in the second is no longer there when the `WAITP` of the first looks, and the word passes where the clause has it wait. -/
theorem not_streamsForkParkAndJoin : ¬ Obligations.StreamsForkParkAndJoin := by
  rintro ⟨-, -, -, hwaitp⟩
  have hwaits : exec (.waitp .scratch) sharedPlace = .next (Claims.waits sharedPlace sharedRef idleJob (.waitp .scratch)) :=
    (hwaitp sharedPlace sharedRef idleJob .scratch issuer_sharedPlace).2 pathBusy_sharedPlace rfl
  have hruns : leavesRunning (.next (Claims.waits sharedPlace sharedRef idleJob (.waitp .scratch))) = true :=
    hwaits ▸ waitp_sharedPlace_passes
  exact absurd (waits_sharedPlace_holds.symm.trans hruns) Bool.false_ne_true
end

section
/-! The landing of results (O3). -/

namespace Sys2Proof.Machine

/-! ## Writing the register of a result -/

/-- A write of an s register leaves the rest of the stream. -/
theorem Stream.setS_eq (t : Stream) (r : SReg) (v : Word) : t.setS r v = { t with s := (t.setS r v).s } := by
  unfold Stream.setS
  split <;> rfl

/-- A write of the register of a result leaves all but the registers. -/
theorem Stream.setDst_eq (t : Stream) (d : Dst) (v : Word) :
    t.setDst d v = { t with s := (t.setDst d v).s, b := (t.setDst d v).b, c := (t.setDst d v).c } := by
  cases d with
  | s r => rw [Stream.setDst, Stream.setS_eq]
  | b | c | v | p | unit => rfl

theorem Stream.sreg_setDst (t : Stream) (d : Dst) (v : Word) {q : SReg} (hq : q ≠ 0) :
    (t.setDst d v).sreg q = if d = .s q then v else t.sreg q := by
  cases d with
  | s r =>
    show (t.setS r v).sreg q = _
    by_cases h : q = r
    · simp [← h, Stream.sreg_setS, hq]
    · simp [Ne.symm h, Stream.sreg_setS_other t v h]
  | b | c | v | p | unit => rfl

theorem Stream.breg_setDst (t : Stream) (d : Dst) (v : Word) (q : BReg) :
    (t.setDst d v).breg q = if d = .b q then v else t.breg q := by
  cases d with
  | s r =>
    rw [Stream.setDst, Stream.setS_eq]
    rfl
  | b r => simp [Stream.setDst, Stream.setB, Stream.breg, get_getElem, Vector.getElem_set, Fin.val_inj]
  | c | v | p | unit => rfl

theorem Stream.creg_setDst (t : Stream) (d : Dst) (v : Word) (q : CSlot) :
    (t.setDst d v).creg q = if d = .c q then v != 0 else t.creg q := by
  cases d with
  | s r =>
    rw [Stream.setDst, Stream.setS_eq]
    rfl
  | c r => simp [Stream.setDst, Stream.setC, Stream.creg, get_getElem, Vector.getElem_set, Fin.val_inj]
  | b | v | p | unit => rfl

/-! ## Landing a result -/

/-- The word of a result has completed: the result is no longer in flight, and its flags have joined `fflags` (R26). -/
def Stream.arrive (t : Stream) (f : Flight) : Stream :=
  { t with
    flight := t.flight.filter fun g => !(decide (g.seq = f.seq) && decide (g.dst = f.dst))
    fflags := t.fflags ||| f.flags }

/-- R29: what the landing of `f` makes of another result in flight: one issued earlier, for the same register, is discarded. -/
def Flight.behind (f g : Flight) : Flight := if g.dst = f.dst ∧ g.seq < f.seq then { g with dead := true } else g

theorem Stream.land_of_dead (t : Stream) {f : Flight} (h : f.dead = true) : t.land f = t.arrive f := if_pos h

theorem Stream.land_of_live (t : Stream) {f : Flight} (h : f.dead = false) :
    t.land f = { (t.arrive f).setDst f.dst f.val with flight := (t.arrive f).flight.map f.behind } := if_neg (by simp [h])

/-- R26: a landing changes the registers, the results in flight and `fflags`, and nothing else of the stream. -/
theorem Stream.land_eq (t : Stream) (f : Flight) :
    t.land f = { t with
      s := (t.land f).s, b := (t.land f).b, c := (t.land f).c, flight := (t.land f).flight, fflags := t.fflags ||| f.flags } := by
  cases h : f.dead with
  | true => rw [Stream.land_of_dead t h]; rfl
  | false => rw [Stream.land_of_live t h, Stream.setDst_eq]; rfl

@[simp] theorem Stream.fflags_land (t : Stream) (f : Flight) : (t.land f).fflags = t.fflags ||| f.flags := by rw [Stream.land_eq]

@[simp] theorem Stream.mode_land (t : Stream) (f : Flight) : (t.land f).mode = t.mode := by rw [Stream.land_eq]

theorem Stream.sreg_land (t : Stream) (f : Flight) {q : SReg} (hq : q ≠ 0) :
    (t.land f).sreg q = if f.dst = .s q ∧ f.dead = false then f.val else t.sreg q := by
  cases h : f.dead with
  | true => simp [Stream.land_of_dead t h, Stream.arrive, Stream.sreg]
  | false =>
    simp only [Stream.land_of_live t h, and_true]
    exact Stream.sreg_setDst (t.arrive f) f.dst f.val hq

theorem Stream.breg_land (t : Stream) (f : Flight) (q : BReg) :
    (t.land f).breg q = if f.dst = .b q ∧ f.dead = false then f.val else t.breg q := by
  cases h : f.dead with
  | true => simp [Stream.land_of_dead t h, Stream.arrive, Stream.breg]
  | false =>
    simp only [Stream.land_of_live t h, and_true]
    exact Stream.breg_setDst (t.arrive f) f.dst f.val q

theorem Stream.creg_land (t : Stream) (f : Flight) (q : CSlot) :
    (t.land f).creg q = if f.dst = .c q ∧ f.dead = false then f.val != 0 else t.creg q := by
  cases h : f.dead with
  | true => simp [Stream.land_of_dead t h, Stream.arrive, Stream.creg]
  | false =>
    simp only [Stream.land_of_live t h, and_true]
    exact Stream.creg_setDst (t.arrive f) f.dst f.val q

/-! ## The results still in flight -/

@[simp] theorem Flight.behind_seq (f g : Flight) : (f.behind g).seq = g.seq := by
  unfold Flight.behind
  split <;> rfl

@[simp] theorem Flight.behind_dst (f g : Flight) : (f.behind g).dst = g.dst := by
  unfold Flight.behind
  split <;> rfl

theorem Flight.behind_dead {f g : Flight} (hd : g.dst = f.dst) (hs : g.seq < f.seq) : (f.behind g).dead = true := by
  rw [Flight.behind, if_pos ⟨hd, hs⟩]

theorem Stream.seq_ne_of_mem_arrive {t : Stream} {f g : Flight} (hg : g ∈ (t.arrive f).flight) (hd : g.dst = f.dst) : g.seq ≠ f.seq := by
  simpa [hd] using (List.mem_filter.mp hg).2

/-- R29: of the results for the same register, the one that landed is gone, and where it was not discarded itself the earlier ones are. -/
theorem Stream.flight_land {t : Stream} {f g : Flight} (hg : g ∈ (t.land f).flight) (hd : g.dst = f.dst) :
    g.seq ≠ f.seq ∧ (g.seq < f.seq → f.dead = false → g.dead = true) := by
  cases h : f.dead with
  | true =>
    rw [Stream.land_of_dead t h] at hg
    exact ⟨Stream.seq_ne_of_mem_arrive hg hd, nofun⟩
  | false =>
    rw [Stream.land_of_live t h] at hg
    obtain ⟨g, hmem, rfl⟩ := List.mem_map.mp hg
    rw [Flight.behind_dst] at hd
    rw [Flight.behind_seq]
    exact ⟨Stream.seq_ne_of_mem_arrive hmem hd, fun hs _ => Flight.behind_dead hd hs⟩

/-! ## The two events -/

/-- The first result of a word is the one that lands, once it may. -/
theorem flightOf_eq_some {t : Stream} {seq : Nat} {ok : Flight → Bool} {f : Flight}
    (hf : t.flight.find? (fun g => g.seq == seq) = some f) (hok : ok f = true) : flightOf t seq ok = some f := by
  obtain ⟨hseq, before, after, hl, hbefore⟩ := List.find?_eq_some_iff_append.mp hf
  refine List.find?_eq_some_iff_append.mpr ⟨by simp [hseq, hok], before, after, hl, fun g hg => ?_⟩
  rw [Bool.not_and, hbefore g hg, Bool.true_or]

theorem landAt_eq {name : String} {s : State} {r : StreamRef} {c : Ctx} {f : Flight} {ok : Flight → Bool} (hc : s.ctx r.ctx = some c)
    (hf : (c.stream r.st).flight.find? (fun g => g.seq == f.seq) = some f) (hok : ok f = true) :
    landAt name r f.seq ok s = .next (s.putCtx (c.putStream r.st ((c.stream r.st).land f))) := by
  simp [landAt, hc, flightOf_eq_some hf hok]

/-- R82: the earliest divide result of its core has its turn. -/
theorem dividerTurn_of_first {s : State} {r : StreamRef} {f : Flight}
    (h : ∀ d ∈ s.ctxs, d.id.core = r.ctx.core → ∀ y, ∀ g ∈ (d.stream y).flight, g.due = .divider → f.seq ≤ g.seq) :
    dividerTurn s r f = true := by
  refine Bool.or_eq_true_iff.mpr (.inr ?_)
  rw [Bool.not_eq_true', List.any_eq_false]
  intro d hd hearlier
  simp only [Bool.and_eq_true, decide_eq_true_eq] at hearlier
  obtain ⟨hcore, hstreams⟩ := hearlier
  obtain ⟨y, -, hy⟩ := List.any_eq_true.mp hstreams
  obtain ⟨g, hg, hlt⟩ := List.any_eq_true.mp hy
  simp only [Bool.and_eq_true, decide_eq_true_eq] at hlt
  exact absurd (h d hd hcore y g hg hlt.1) (Nat.not_le.mpr hlt.2)

theorem dividerTurn_of_ne {s : State} {r : StreamRef} {f : Flight} (h : f.due ≠ .divider) : dividerTurn s r f = true := by
  simp [dividerTurn, h]

section
variable {s : State} {r : StreamRef} {c : Ctx} {f : Flight} (hc : s.ctx r.ctx = some c)
  (hf : (c.stream r.st).flight.find? (fun g => g.seq == f.seq) = some f)
include hc hf

theorem exec_interlockedResultLands (hopen : f.due.open = true) (hturn : dividerTurn s r f = true) :
    exec (.interlockedResultLands r f.seq) s = .next (s.putCtx (c.putStream r.st ((c.stream r.st).land f))) :=
  landAt_eq hc hf (by simp [hopen, hturn])

theorem exec_exposedResultLands (hdue : f.due.by s.now = true) :
    exec (.exposedResultLands r f.seq) s = .next (s.putCtx (c.putStream r.st ((c.stream r.st).land f))) := landAt_eq hc hf hdue

end

end Sys2Proof.Machine

open Sys2Proof Sys2Proof.Machine

/-- Settles O3: each of the three landings replaces the stream by `Stream.land`, whose registers, flags and flights are read off one by one. -/
theorem landingWritesOneRegister : Obligations.LandingWritesOneRegister := by
  intro s r c f hc hf hdue
  refine ⟨(c.stream r.st).land f, ?lands, rfl, fun q hq => Stream.sreg_land _ f hq, Stream.breg_land _ f, Stream.creg_land _ f,
    fun g hg hd => Stream.flight_land hg hd, Stream.pc_land .., Stream.fflags_land .., Stream.mode_land ..⟩
  case lands =>
    rcases hdue with hi | ⟨hd, hfirst⟩ | ⟨n, hat, hn⟩
    · rw [if_pos (.inl hi)]
      exact exec_interlockedResultLands hc hf (by rw [hi]; rfl) (dividerTurn_of_ne (by simp [hi]))
    · rw [if_pos (.inr hd)]
      exact exec_interlockedResultLands hc hf (by rw [hd]; rfl) (dividerTurn_of_first hfirst)
    · rw [if_neg (by rcases hat with h | h <;> simp [h])]
      exact exec_exposedResultLands hc hf (by rcases hat with h | h <;> simp [h, Due.by, hn])
end

section
/-! The micro-ops of a layer macro (O38). -/

namespace Sys2Proof.Machine

/-! ## Running a micro-op -/

section
variable {s : State} {c : Ctx} {d : Cmd} {m : MacroSt} (hat : Claims.macroAt s c d m)
include hat

/-- R184: a micro-op within the limit, or `SAFE` or `END`, has its effect. -/
theorem uop_next {name : String} {last : Bool} {f : Uop → Option State} {t : State} (hlimit : m.since < 64 ∨ last = true)
    (hf : f ⟨c, d, m⟩ = some t) : uop s name last f = .next t := by
  obtain ⟨⟨r, hcur, hctx⟩, hmacro, hruns⟩ := hat
  have hwithin : (decide (64 ≤ m.since) && !last) = false := by
    rcases hlimit with h | h
    · simp [Nat.not_le.mpr h]
    · simp [h]
  simp [uop, hcur, hctx, hmacro, hruns, hwithin, hf]

/-- R184: any other micro-op past the limit is a microcode fault. -/
theorem uop_overrun {name : String} {f : Uop → Option State} (hlimit : 64 ≤ m.since) :
    uop s name false f = .next (macroTrap s c d m ⟨17, m.addr % 2 ^ 16, 2, 0⟩) := by
  obtain ⟨⟨r, hcur, hctx⟩, hmacro, hruns⟩ := hat
  simp [uop, hcur, hctx, hmacro, hruns, hlimit]

end

/-- `LOOP` goes on to the next micro-op when its register has counted down to 0. -/
theorem MacroSt.loop_eq (m : MacroSt) (k : KReg) (a : Nat) :
    (if m.k.get k - 1 = 0 then m.next.setK k (m.k.get k - 1) else { m.next.setK k (m.k.get k - 1) with addr := a }) =
      Claims.macroSet m k (m.k.get k - 1) (if m.k.get k = 1 then m.addr + 1 else a) := by
  have hzero : m.k.get k - 1 = 0 ↔ m.k.get k = 1 := ⟨fun h => by bv_omega, fun h => by bv_omega⟩
  simp only [hzero]
  split <;> rfl

/-! ## The command of `ARR` -/

theorem Uop.arr_runDrainm {u : Uop} {s t : State} {g : Guard} {h : HId} {x : SReg} {fn : BitVec 4} {sv : Nat} {fl : FFlags}
    {st : List (Fin 32 × BitVec 4)} (hfree : u.drainWaits s h sv = false)
    (hrun : runDrainm s u.cx u.d h fn sv u.m.rows u.m.elems u.m.olds = .ok t fl st) :
    u.arr s (.drainm g h x fn) sv = some (u.ran t true (u.m.flags ||| fl) (u.m.stat ++ st)) := by
  simp [Uop.arr, hfree, hrun]

/-- R184: the A commands but `DRAINM` run through `runArray`; a `DTT` also needs bits [63:13] of its row value zero. -/
theorem Uop.arr_runArray {u : Uop} {s : State} {i : Instr} {sv : Nat} {q : ARan} (hdrainm : ∀ g h x fn, i ≠ .drainm g h x fn)
    (hdtt : ∀ g x, i = .dtt g x → sv < 2 ^ 13)
    (hrun : runArray s u.cx (whoCmd s u.cx u.d) (u.cx.stream u.d.src).satfp i sv = .ok q) :
    u.arr s i sv = some (u.ran q.1 (isArrayCmd i) q.2.1 q.2.2) := by
  unfold Uop.arr
  split
  case h_1 g h x fn => exact absurd rfl (hdrainm g h x fn)
  case h_2 =>
    rw [if_neg, hrun]
    split
    case h_1 => simpa using hdtt _ _ rfl
    case h_2 => exact Bool.false_ne_true

end Sys2Proof.Machine

open Sys2Proof Sys2Proof.Machine

/-- Settles O38: `uop` runs each micro-op within the limit, `Uop.arr` the command of `ARR`, and `uop_overrun` is the fault past the limit. -/
theorem microOpsDriveTheMacro : Obligations.MicroOpsDriveTheMacro := by
  intro s c d m hat
  refine ⟨fun hlimit => ⟨fun k v => ?set, fun k j v => ?add, fun k t => ?loop, fun op fn ka kb i q hdrainm hdtt hword hrun => ?runs,
    fun op fn ka kb g h x f t fl st hword hfree hrun => ?drainm⟩, fun hlimit => ?overrun, ?safe, ?finish⟩
  case set =>
    show execUopSet k v s = _
    exact uop_next hat (.inl hlimit) rfl
  case add =>
    show execUopAdd k j v s = _
    exact uop_next hat (.inl hlimit) rfl
  case loop =>
    show execUopLoop k t s = _
    rw [← MacroSt.loop_eq]
    exact uop_next hat (.inl hlimit) rfl
  case runs =>
    show execUopArr op fn ka kb s = _
    refine uop_next hat (.inl hlimit) ?_
    simpa only [hword] using Uop.arr_runArray hdrainm hdtt hrun
  case drainm =>
    show execUopArr op fn ka kb s = _
    refine uop_next hat (.inl hlimit) ?_
    simpa only [hword] using Uop.arr_runDrainm hfree hrun
  case overrun =>
    rintro i (⟨k, v, rfl⟩ | ⟨k, j, v, rfl⟩ | ⟨k, t, rfl⟩ | ⟨op, fn, ka, kb, rfl⟩)
    · show execUopSet k v s = _
      exact uop_overrun hat hlimit
    · show execUopAdd k j v s = _
      exact uop_overrun hat hlimit
    · show execUopLoop k t s = _
      exact uop_overrun hat hlimit
    · show execUopArr op fn ka kb s = _
      exact uop_overrun hat hlimit
  case safe =>
    show execUopSafe s = _
    exact uop_next hat (.inr rfl) rfl
  case finish =>
    show execUopEnd s = _
    exact uop_next hat (.inr rfl) rfl
end

section
/-! An array command whose rows an error has struck, and no lease (O41). -/

namespace Sys2Proof.Machine

/-- R327, log 85: the command at the head whose rows an error has struck traps when it starts, whatever else it would wait for. -/
theorem commandStart_struck {s : State} {x : CtxId} {q : Queue} {c : Ctx} {d : Cmd} (hx : s.ctx x = some c) (hruns : cmdsRun c = true)
    (hhead : cmdHead c q = some d) (hprog : d.prog = .queued) (hguard : guardSays c s.now (Instr.guard d.word) = some true)
    (hrange : rangeHeld c d = false) (hstruck : cmdStruck c d = true) :
    exec (.commandStart x q) s = .next (cmdTrap s x d ⟨14, 0, queueEng d.q, 0⟩) := by
  show execCommandStart x q s = _
  simp [execCommandStart, hx, hruns, hhead, startable, hprog, hguard, hrange, hstruck]

/-- A tile handle of 8 rows of 256 bytes, the first line of which an error has struck. -/
def struckTile : Handle := ⟨9, .tile, false, 8, 256, 256, 1, [], 3, 0, [], none, [(0, 0)]⟩

/-- An unguarded `MMA` in its queue, which reads the eight rows of that handle. -/
def struckMma : Cmd := ⟨0, .A, .mma .always 9 0 true false, 0, .C, 0, [⟨9, 0, 7⟩], [], 0, 0, [], .queued, []⟩

/-- The running job of that command. -/
def struckJob : Ctx := { placeCtx State.reset ⟨.core 0 0, 0⟩ false with handles := [struckTile], cmds := [struckMma] }

/-- The module with that job and no lease granted. -/
def struckState : State := { State.reset with ctxs := [struckJob] }

theorem cmdHead_struckJob : cmdHead struckJob .A = some struckMma := by decide +kernel

theorem not_rangeHeld_struckJob : rangeHeld struckJob struckMma = false := by decide +kernel

theorem cmdStruck_struckJob : cmdStruck struckJob struckMma = true := by decide +kernel

theorem not_holdsLease_struckState : holdsLease struckState struckJob.id = false := by decide +kernel

end Sys2Proof.Machine

open Sys2Proof Sys2Proof.Machine

/-- Refutes O41 by its first clause, which has no premise on struck rows: an `MMA` whose job holds no lease is not refused where a row that it
reads has an uncorrectable error. `COMMAND_START` looks at its rows before the lease, and the command traps with cause 14. -/
theorem not_leasesAndQuiescentCores : ¬ Obligations.LeasesAndQuiescentCores := by
  rintro ⟨⟨hunleased, -⟩, -⟩
  have hrefused : exec (.commandStart struckJob.id .A) struckState = .refused (.notEnabled "COMMAND_START") :=
    hunleased struckState struckJob.id struckJob struckMma rfl cmdHead_struckJob rfl rfl not_holdsLease_struckState nofun
  have htraps : exec (.commandStart struckJob.id .A) struckState = .next (cmdTrap struckState struckJob.id struckMma ⟨14, 0, 2, 0⟩) :=
    commandStart_struck rfl rfl cmdHead_struckJob rfl rfl not_rangeHeld_struckJob cmdStruck_struckJob
  exact absurd (htraps.symm.trans hrefused) nofun
end
